-- ==== Sys2Proof/Word.lean ====
section
/-! DEFINITION. The machine's words, byte and sparse-map types. -/

namespace Sys2Proof

/-- A general register, an address, a doubleword (03_encoding.md R62, 09_memory.md R235). -/
abbrev Word := BitVec 64

/-- An instruction word (03_encoding.md R67). -/
abbrev IWord := BitVec 32

/-- One byte of memory. -/
abbrev Byte := BitVec 8

/-- Contents of a vector register (03_encoding.md R62). -/
abbrev VWord := BitVec 2048

/-- Contents of a mask register (03_encoding.md R62). -/
abbrev KWord := BitVec 256

/-- A sparse table from numbers to values: keys rising, no entry equal to the default of its reader. -/
abbrev Table (α : Type) := List (Nat × α)

/-- Number of a general register. -/
abbrev GReg := BitVec 5

/-- Number of a vector register. -/
abbrev VReg := BitVec 5

/-- Number of a predicate, mask or stream register. -/
abbrev Reg3 := BitVec 3

/-- Number of an accumulator tile. -/
abbrev TReg := BitVec 2

end Sys2Proof
end

