-- ==== Sys2Proof/Config.lean ====
section
/-! DEFINITION. What the spec leaves open: free values, applied to the counter `State.fresh` or to the operands that
they depend on, and uninterpreted functions of cryptography, sensors and identity. None has a body, so no proof can
tell a value of one (log entry 6). -/

namespace Sys2Proof

/-- Cycles counted by `CYCLE` between two readings (03_encoding.md R65; timing is outside the model). -/
opaque Config.cyclesElapsed : Nat → Word

/-- How many of the mismatches that a lantern pair had before fall within the last hour (15_faults.md R404; log entry
108). -/
opaque Config.recentMismatches : Nat → Nat

/-- Which of the free indices a new fault entry takes (15_faults.md R385). -/
opaque Config.faultIndex : Nat → Nat

/-- Which of the translations that may be used an access uses (09_memory.md R244). -/
opaque Config.translation : Nat → Nat

/-- At which of the points that the rules of order leave open a relaxed load is performed (11_order.md R287, R290). -/
opaque Config.loadTime : Nat → Nat

/-- Does a request reach its home in the cycle in which others do (10_atomics.md R280)? -/
opaque Config.sameCycle : Nat → Bool

/-- Does an access miss in the L2 of its home slice (09_memory.md R254)? -/
opaque Config.l2Miss : Nat → Bool

/-- Does a relay deliver sooner than the direct route, or are the direct bursts of the coming slots full, for a destination
(13_fabric.md R325)? -/
opaque Config.relays : Nat → Bool

/-- SM3 hash of a message, 32 bytes (16_system.md R427). -/
opaque Config.sm3 : List Byte → List Byte

/-- SM2 verification of a signature under a public key (16_system.md R425, R427). -/
opaque Config.sm2Verify : (key message signature : List Byte) → Bool

/-- Hash of the vendor signing key in the boot ROM, and of the owner key (16_system.md R427). -/
opaque Config.keyHashes : List (List Byte)

/-- Does the session challenge verify against the owner key (16_system.md R425)? -/
opaque Config.challengeVerifies : Word → Bool

/-- Package identity public key and certificate, as doublewords (16_system.md R426, R428). -/
opaque Config.identity : List Word

/-- Power and hottest sensor of the islands, as doublewords (16_system.md R426). -/
opaque Config.sensors : Nat → List Word

/-- Does the seed of the PUF pass its check value (16_system.md R428)? -/
opaque Config.seedPasses : Bool

/-- Does a physical die pass its self-test at boot (15_faults.md R400)? -/
opaque Config.selfTest : Nat → Bool

/-- The spare die of another package that is free for a lost identity: package and physical die (15_faults.md R401). -/
opaque Config.remoteSpare : Nat → Option (Nat × Nat)

/-- BTYPE of an image from its blob type and version (16_system.md R429). -/
opaque Config.imageType : (kind version : Nat) → BitVec 16

/-- Trap value of a host core's illegal-instruction exception (16_system.md R424 gives none). -/
opaque Config.illegalTval : Nat → Word

end Sys2Proof
end

