-- ==== Sys2Proof/Machine/Bits.lean ====
section
/-! DEFINITION. Bit fields, counts, extension and byte order of words. -/

namespace Sys2Proof.Machine

/-- Little-endian bytes as a number, lowest address first (01_machine.md R6). -/
def leNat : List Byte → Nat
  | [] => 0
  | b :: bs => b.toNat + 256 * leNat bs

/-- The `n` little-endian bytes of a number (01_machine.md R6). -/
def leBytes : Nat → Nat → List Byte
  | 0, _ => []
  | n + 1, v => BitVec.ofNat 8 (v % 256) :: leBytes n (v / 256)

/-- Bits `lo + len - 1 : lo` of a number. -/
def field (v lo len : Nat) : Nat := v >>> lo % 2 ^ len

/-- A number read as two's complement of the given width. -/
def toSigned (w v : Nat) : Int :=
  if v % 2 ^ w < 2 ^ (w - 1) then (v % 2 ^ w : Nat) else (v % 2 ^ w : Nat) - (2 ^ w : Nat)

/-- An integer as a pattern of the given width. -/
def ofSigned (w : Nat) (v : Int) : Nat := (v % (2 ^ w : Nat)).toNat

/-- Number of set bits among the low `n` bits. -/
def countBits : Nat → Nat → Nat
  | 0, _ => 0
  | n + 1, v => v % 2 + countBits n (v / 2)

/-- The low `n` bits of a number in reverse order (04_scalar.md R107). -/
def reverseBits : Nat → Nat → Nat
  | 0, _ => 0
  | n + 1, v => v % 2 * 2 ^ n + reverseBits n (v / 2)

/-- Zero bits below the lowest set bit of an `n`-bit number; `n` for zero (04_scalar.md R107). -/
def trailingZeros : Nat → Nat → Nat
  | 0, _ => 0
  | n + 1, v => if v % 2 = 1 then 0 else 1 + trailingZeros n (v / 2)

/-- Zero bits above the highest set bit of a `w`-bit number; `w` for zero (04_scalar.md R107). -/
def leadingZeros (w v : Nat) : Nat := if v = 0 then w else w - 1 - v.log2

/-- Largest `r` below `r0 + 2 ^ k` with `r * r ≤ n`, found bit by bit. -/
def isqrtFrom (n : Nat) : Nat → Nat → Nat
  | 0, r => r
  | k + 1, r => if (r + 2 ^ k) * (r + 2 ^ k) ≤ n then isqrtFrom n k (r + 2 ^ k) else isqrtFrom n k r

/-- Integer square root, rounded down. -/
def isqrt (n : Nat) : Nat := isqrtFrom n (n.log2 / 2 + 1) 0

/-- Product in GF(2^8) (12_copy.md R319): `n` rounds. -/
def gfmulFrom : Nat → Nat → Nat → Nat → Nat
  | 0, _, _, p => p
  | n + 1, a, b, p =>
    let p := if b % 2 = 1 then p ^^^ a else p
    let a := 2 * a
    gfmulFrom n (if 256 ≤ a then a ^^^ 0x11D else a) (b / 2) p

/-- `gfmul` of R319. -/
def gfmul (a b : Byte) : Byte := BitVec.ofNat 8 (gfmulFrom 8 a.toNat b.toNat 0)

/-- Inverse for `gfmul`: the 254th power. -/
def gfinv (a : Byte) : Byte := (List.replicate 254 a).foldl gfmul 1

/-- A truth value as a number. -/
def bit (b : Bool) : Nat := if b then 1 else 0

/-- Divides, rounding up. -/
def ceilDiv (a b : Nat) : Nat := (a + b - 1) / b

/-- Element `i` of width `w` of a vector value (06_vector.md R164). -/
def lane (w : Nat) {n : Nat} (v : BitVec n) (i : Nat) : Nat := field v.toNat (i * w) w

/-- A vector value of `n` bits from its elements of width `w`, lowest first (06_vector.md R164). -/
def ofLanes (n w : Nat) (xs : List Nat) : BitVec n :=
  BitVec.ofNat n (xs.foldr (fun x acc => x % 2 ^ w + 2 ^ w * acc) 0)

/-- A mask from its bits, lowest first. -/
def ofBits (n : Nat) (bs : List Bool) : BitVec n := ofLanes n 1 (bs.map bit)

end Sys2Proof.Machine
end

