-- ==== Sys2Proof/Machine/Forms.lean ====
section
/-! DEFINITION. Operand codes of the instruction words and the forms of the messages that the
device's happenings carry. -/

namespace Sys2Proof

/-- Scope codes 0 to 5 (03_encoding.md R69). -/
inductive Scope where
  | core | quad | die | pkg | pod | sys
deriving DecidableEq, Repr

/-- Order codes (03_encoding.md R69). -/
inductive Order where
  | rlx | acq | rel | ar
deriving DecidableEq, Repr

/-- Orders of `FENCE` (11_order.md R291). -/
inductive FenceOrder where
  | acq | rel | ar
deriving DecidableEq, Repr

/-- Access sizes `.b .h .w .d` (03_encoding.md R79). -/
inductive Size where
  | b | h | w | d
deriving DecidableEq, Repr

/-- Sizes of atomics and reductions (03_encoding.md R80). -/
inductive AmoSize where
  | w | d
deriving DecidableEq, Repr

/-- Overflow policies (02_numbers.md R51). -/
inductive Ovp where
  | sat | inf | nan | trap
deriving DecidableEq, Repr

/-- Types of vector floating arithmetic (06_vector.md R169). -/
inductive FType where
  | f32 | bf16 | f16
deriving DecidableEq, Repr

/-- Types of `VCVT` (03_encoding.md R82). -/
inductive CvtType where
  | f32 | bf16 | f16 | e4m3 | e5m2 | i32 | i16 | i8
deriving DecidableEq, Repr

/-- Types of vector compares and reductions (03_encoding.md R82). -/
inductive RType where
  | f32 | bf16 | f16 | i32 | n32 | i16 | n16 | i8
deriving DecidableEq, Repr

/-- Integer types of `VRAND` and `VROR` (06_vector.md R178). -/
inductive IType where
  | i32 | n32 | i16 | n16 | i8
deriving DecidableEq, Repr

/-- Element widths (03_encoding.md R82, W). -/
inductive Width where
  | w32 | w16 | w8
deriving DecidableEq, Repr

/-- `GANG n` (05_tasks.md R149). -/
inductive GangSize where
  | two | four
deriving DecidableEq, Repr

/-- First source of a vector instruction: a register, or an input stream with QA (03_encoding.md R82). -/
inductive VSrc where
  | reg (v : VReg)
  | stream (q : Reg3)
deriving DecidableEq, Repr

/-- Destination of a vector instruction: a register, or an output stream with QD (03_encoding.md R82). -/
inductive VDst where
  | reg (v : VReg)
  | stream (q : Reg3)
deriving DecidableEq, Repr

/-- Operations of atomics and reductions (10_atomics.md R274, R277). -/
inductive AmoOp where
  | add | and | or | xor | minI | maxI | minN | maxN | swap | cas | fadd | fmin | fmax
deriving DecidableEq, Repr

/-- What every request carries of its issuer: task, slot, context, reset epoch, domain (0: none) and
launch (13_fabric.md R327, R345; 10_atomics.md R280). -/
structure Who where
  task : Nat
  sid : Nat
  ctxid : Nat
  epoch : BitVec 4
  dom : Nat
  launch : BitVec 32
deriving DecidableEq, Repr

/-- Partition of a request (16_system.md R410). -/
def Who.part (w : Who) : Nat := w.ctxid / 4

/-- What a request does at its home: a plain store, a combining write, `REDX` and `RED.add.d` being
`add`, an XOR of parity bytes, or the decrement of a DEPCNT (10_atomics.md R277, 12_copy.md R319, 05_tasks.md R140). A
`patch` is a store of some bytes of a stretch, made in one piece (12_copy.md R311). -/
inductive HomeOp where
  | store (bytes : List Byte)
  | patch (bytes : List (Option Byte))
  | combine (op : AmoOp) (z : AmoSize) (v : Word)
  | xor (bytes : List Byte)
  | dec
deriving DecidableEq, Repr

/-- Where the value of a remote load is written. -/
inductive ReplyTo where
  | scalar (task : Nat)
  | part (uid index : Nat)
deriving DecidableEq, Repr

/-- A remote load of at most 8 bytes, or of a 64-byte line for a vector load and the other reads of an instruction
(09_memory.md R253, 13_fabric.md R324). -/
structure LoadReq where
  who : Who
  pa : Nat
  bytes : Nat
  dest : ReplyTo
deriving DecidableEq, Repr

/-- A remote store: the writes of one 64-byte line (13_fabric.md R324). -/
structure StoreMsg where
  who : Who
  writes : List (Nat × List Byte)
deriving DecidableEq, Repr

/-- The stamp of a counted message (13_fabric.md R331). -/
structure Count where
  ch : Nat
  gen : BitVec 8
  ep : BitVec 8
deriving DecidableEq, Repr

/-- A counted flag (13_fabric.md R331, R332). -/
structure FlagMsg where
  who : Who
  stamp : Count
  count : BitVec 32
  pa : Nat
  value : Word
deriving DecidableEq, Repr

/-- A remote reduction (10_atomics.md R277). -/
structure RedMsg where
  who : Who
  pa : Nat
  op : HomeOp
deriving DecidableEq, Repr

/-- A far returning atomic (10_atomics.md R275): operand `v` and comparand `c`. -/
structure AtomicReq where
  who : Who
  pa : Nat
  op : AmoOp
  z : AmoSize
  v : Word
  c : Word
deriving DecidableEq, Repr

/-- A declared or always-open range (09_memory.md R247): base and length in bytes. -/
structure Range where
  base : Nat
  len : Nat
  roam : Bool
deriving DecidableEq, Repr

/-- A chain packet at step `k` whose address `c` is located at physical address `pa` of the node that
holds it; `final` marks the final load of step `k` (09_memory.md R263). -/
structure Packet where
  who : Who
  origin : Nat
  ctxid : Nat
  lane : Nat
  steps : List Word
  ranges : List Range
  k : Nat
  c : Word
  pa : Nat
  final : Bool
deriving DecidableEq, Repr

/-- How a chain lane stopped: `stop` is STOP of R266; `range` ends the task with RANGE (09_memory.md R263). -/
structure ChainEnd where
  task : Nat
  lane : Nat
  result : Word
  stop : BitVec 3
  done : Nat
  range : Bool
deriving DecidableEq, Repr

/-- A chain fault reply (09_memory.md R265). -/
structure ChainFault where
  task : Nat
  lane : Nat
  k : Nat
  x : Word
  final : Bool
  prot : Bool
  why : BitVec 8
  level : BitVec 2
deriving DecidableEq, Repr

/-- A STALL (13_fabric.md R335). -/
structure StallMsg where
  stamp : Count
  count : BitVec 32
  d : BitVec 32
deriving DecidableEq, Repr

/-- A RESYNC (13_fabric.md R337): the new generation and the base. -/
structure ResyncMsg where
  ch : Nat
  gen : BitVec 8
  sent : BitVec 32
  ep : BitVec 8
deriving DecidableEq, Repr

/-- What a control message of a pod barrier or phase says: this package's participants have arrived, the barrier is
complete, or an arrival is taken back (11_order.md R293, R295, R303). -/
inductive BarrierNote where
  | arrive | complete | withdraw
deriving DecidableEq, Repr

/-- A barrier control message, or the counted flag that ends a phase, across packages. `counts` are channel and
SENT of the sender's counted traffic that the flag covers (11_order.md R293, R295). -/
structure BarrierMsg where
  part : Nat
  launch : BitVec 32
  isPhase : Bool
  phase : Nat
  bar : Nat
  note : BarrierNote
  counts : List (Nat × BitVec 32)
deriving DecidableEq, Repr

/-- A message without what its flag covers: what it is about. -/
def BarrierMsg.about (m : BarrierMsg) (note : BarrierNote) : BarrierMsg := { m with note := note, counts := [] }

/-- How a step on the capability table came out: made, an entry that does not meet it, no entry (14_containment.md R360).
-/
inductive Verdict where
  | done | conflict | noentry
  /-- The recipient is PROVISIONAL no longer (14_containment.md R353). -/
  | gone
deriving DecidableEq, Repr

/-- What a step does to FRZ. -/
inductive FrzChange where
  | keep | up | down
deriving DecidableEq, Repr

/-- A step of a change of the capability table: its page, the holders that it needs (any, if none are listed), the
greatest FRZ that it needs, the new holder if it moves the page, its change of FRZ, whether the whole change is refused
when the entry does not meet it, and the domain that must be PROVISIONAL for it (14_containment.md R352 to R368). -/
structure CapStep where
  page : Nat
  holders : Option (List Nat) := none
  top : Nat := 255
  new : Option Nat := none
  frz : FrzChange := .keep
  strict : Bool := false
  recipient : Option Nat := none
deriving DecidableEq, Repr

/-- The outcome of a change: of the whole, and of each step with the entry as it stood. -/
structure CapResult where
  verdict : Verdict
  steps : List (Verdict × Word) := []
deriving DecidableEq, Repr

/-- What an invalidation drops: leaves of a page or all of them, or capability entries of pages with their new holders
(15_faults.md R391, 14_containment.md R352). -/
inductive Reach where
  | leaves (page : Option Nat)
  | caps (moves : List (Nat × Option Nat))
deriving DecidableEq, Repr

/-- A message of the fabric (13_fabric.md R324). -/
inductive Msg where
  | loadReq (m : LoadReq)
  | loadReply (dest : ReplyTo) (bs : List Byte)
  | store (m : StoreMsg)
  | counted (m : StoreMsg) (c : Count)
  | flag (m : FlagMsg)
  | red (m : RedMsg)
  | atomicReq (m : AtomicReq)
  | atomicReply (task : Nat) (v : Word) (flags : BitVec 6)
  | chain (m : Packet)
  | chainEnd (m : ChainEnd)
  | chainFault (m : ChainFault)
  | stall (m : StallMsg)
  | resync (m : ResyncMsg)
  | resyncAck (ch : Nat) (gen : BitVec 8)
  | barrier (m : BarrierMsg)
  | capFetch (task : Nat) (ctxid page : Nat)
  | capEntry (task : Nat) (page : Nat) (entry : Word)
  /-- A change of a context's capability table asked of its home, under the asker's number, and its outcome. -/
  | capChange (id ctxid : Nat) (steps : List CapStep)
  | capResult (id : Nat) (r : CapResult)
  /-- Cached entries of a context or partition are to be dropped; and the confirmation, once every access checked under
  them has been performed. -/
  | invalidate (id ctxid : Nat) (reach : Reach)
  | confirmed (id : Nat)
  /-- Is a domain of a context PROVISIONAL in the receiver's table (14_containment.md R353)? -/
  | domQuery (id ctxid dom : Nat)
  | domAnswer (id : Nat) (yes : Bool)
  /-- A domain id is live no longer, or was drawn for nothing (14_containment.md R357, R360). -/
  | idFree (ctxid id : Nat) (unused : Bool)
  /-- The claim of a slice at its home, and its answer (14_containment.md R374). -/
  | claim (task pa : Nat) (seq : Word)
  | claimed (task : Nat) (ok : Bool)
  | idDraw (task : Nat) (ctxid : Nat)
  | idReply (task : Nat) (id : BitVec 32)
  | near (who : Who) (pa : Nat)
  /-- A `TDONE` has brought DEPCNT of the record at an address of the sender to 0 (05_tasks.md R140). -/
  | released (part : Nat) (pa : Nat)
deriving DecidableEq, Repr

/-- A message in a flit, with the package and the task or device that sent it (13_fabric.md R324, R327). -/
structure Parcel where
  src : Nat
  who : Who
  msg : Msg
deriving DecidableEq, Repr

/-- What the far end of a hop says about a flit: it has it, it asks for a parity supplement, or, as a relay, it has
forwarded the burst (13_fabric.md R326, R327). -/
inductive LinkNote where
  | ack | supplement | forwarded
deriving DecidableEq, Repr

/-- What the far end answers about the flit of one sequence number (13_fabric.md R326, R327). -/
structure LinkAnswer where
  seq : BitVec 32
  note : LinkNote
deriving DecidableEq, Repr

/-- Where a control message comes from: the package, and the partition reset epoch it was sent in (13_fabric.md
R345). -/
structure Origin where
  pkg : Nat
  epoch : BitVec 4
deriving DecidableEq, Repr

/-- Where an uncorrectable error is found (15_faults.md R396, R399). -/
inductive ErrorSite where
  | line (pa : Nat)
  | scratch (address : Nat)
  | slot (task : Nat)
  /-- A message of a task that is lost beyond the link, with the package and address it was for (13_fabric.md R327). -/
  | lost (who : Who) (pkg pa : Nat)
  /-- A row of a tile, the checksums of a tile, a row of the latch of a core's matrix context (08_matrix.md R230). -/
  | row (core tile row : Nat)
  | sums (core tile : Nat)
  | latch (core row : Nat)
deriving DecidableEq, Repr

/-- A memory access of a host chiplet core (16_system.md R423). -/
inductive HostAccess where
  | load (pa bytes : Nat)
  | store (pa : Nat) (bytes : List Byte)
  | amo (pa : Nat) (op : AmoOp) (z : AmoSize) (v : Word)
deriving DecidableEq, Repr

/-- What a partition's driver does from outside, beside the writes of registers (log entry 50): the service operations of
its partition window, where a core or die stands in for the issuer's and a context for its address space (15_faults.md
R390); loads and stores of any width in device space (16_system.md R411, R412, R422); masking of a vector (R417); a command
of the management port by its code (R426); the group of the protected region (15_faults.md R402). -/
inductive WindowOp where
  | tlbinv (a : Word)
  | mirq (a : Word)
  | diagw (core ctx : Nat) (a b : Word)
  | diagr (die : Nat) (a : Word)
  | load (pa bytes : Nat)
  | store (pa bytes : Nat) (v : Word)
  | mask (vector : Nat)
  | command (code : Byte)
  | coding (members : List (Nat × Nat))
deriving DecidableEq, Repr

end Sys2Proof
end

