-- ==== Sys2Proof/Syntax.lean ====
section
/-! DEFINITION. The syntax: one constructor for every row of the opcode table, with its operands. -/

namespace Sys2Proof

/-- The instructions of the T9 (03_encoding.md R74 to R85), the host chiplet's `VLSP` (16_system.md R424) and the
happenings of the device and its hosts that the table lists (95_what_each_step_holds.md), each with its rule. The
majors 0x10 to 0x17 stand after the others, so that the constructors a meaning builds keep small tags. -/
inductive Instr where
  /-- BR (R134): Unconditional relative branch by disp22 words. -/
  | br (off : BitVec 22)
  /-- BP (R134): Branch taken when predicate p, optionally negated, holds. -/
  | bp (p : Reg3) (neg : Bool) (off : BitVec 22)
  /-- JAL (R135): Jumps by disp26 words and writes the link to g31. -/
  | jal (off : BitVec 26)
  /-- JALR (R136): Jumps to ga plus a byte offset, writing the link to gd, with ALIGN on a misaligned target. -/
  | jalr (d a : GReg) (imm : BitVec 16)
  /-- LOOP (R137): Decrements counter gd and branches back while it was above 1. -/
  | loop (d : GReg) (off : BitVec 16)
  /-- TEND (R142): Ends the task once its ld, st, cp and mx counters are zero. -/
  | tend
  /-- LIMM (R71): Supplies immediate bits 41:16 to the following ADDI, ANDI, ORI or JALR, executing with it as one instruction. -/
  | limm (imm : BitVec 26)
  /-- REP (R146): Captures the next len words and executes them count times with staggered register fields. -/
  | rep (smask : BitVec 4) (stag : BitVec 5) (len : BitVec 4) (count : BitVec 12)
  /-- WAIT (R145): Waits until each outstanding-operation counter is at or below its field, parking as DEP after 256 cycles. -/
  | wait (ld st : BitVec 6) (cp mx : BitVec 5) (fb : BitVec 4)
  /-- TSPAWN (R139): Reads and checks a task record, writes its SEQ and enqueues it on the target die as a pkg release. -/
  | tspawn (a b : GReg)
  /-- TDONE (R140): Atomically decrements a record's DEPCNT at its home as a pkg release, returning a blocked entry to its queue at zero. -/
  | tdone (a : GReg)
  /-- TYIELD (R141): Moves the running task to the tail of the core's ready list. -/
  | tyield
  /-- GANG (R149): Waits parked as DEP for one task of the launch on each member core, then forms a gang of 2 or 4. -/
  | gang (n : GangSize)
  /-- UNGANG (R151): Dissolves the gang so each member continues on its own. -/
  | ungang
  /-- SEND (R206): Copies a message into one of the core's four send entries for placement in a mailbox ring, as a pkg release. -/
  | send (d a b : GReg)
  /-- RECV (R209): Takes the next message from a mailbox ring into a buffer and writes its status, parking as MBOX when empty. -/
  | recv (d a b : GReg)
  /-- PHASE (R153): Ends the task's phase at scope s, parking as DEP until every participant has arrived or ended. -/
  | phase (s : Scope)
  /-- ADD (R102): gd = ga + gb modulo 2^64. -/
  | add (d a b : GReg)
  /-- SUB (R102): gd = ga - gb modulo 2^64. -/
  | sub (d a b : GReg)
  /-- AND (R102): Bitwise AND. -/
  | and (d a b : GReg)
  /-- OR (R102): Bitwise OR. -/
  | or (d a b : GReg)
  /-- XOR (R102): Bitwise exclusive OR. -/
  | xor (d a b : GReg)
  /-- ANDN (R102): gd = ga AND NOT gb. -/
  | andn (d a b : GReg)
  /-- SHL (R104): Shift left by the count in gb, 0 at 64 or more. -/
  | shl (d a b : GReg)
  /-- SHR (R104): Logical shift right by the count in gb. -/
  | shr (d a b : GReg)
  /-- SAR (R104): Arithmetic shift right by the count in gb. -/
  | sar (d a b : GReg)
  /-- ROL (R104): Rotate left by the count in gb modulo 64. -/
  | rol (d a b : GReg)
  /-- MIN_I64 (R102): Signed minimum. -/
  | minI64 (d a b : GReg)
  /-- MIN_N64 (R102): Unsigned minimum. -/
  | minN64 (d a b : GReg)
  /-- MAX_I64 (R102): Signed maximum. -/
  | maxI64 (d a b : GReg)
  /-- MAX_N64 (R102): Unsigned maximum. -/
  | maxN64 (d a b : GReg)
  /-- MUL (R105): Low 64 bits of the product. -/
  | mul (d a b : GReg)
  /-- MULH_I64 (R105): High 64 bits of the signed 128-bit product. -/
  | mulhI64 (d a b : GReg)
  /-- MULH_N64 (R105): High 64 bits of the unsigned 128-bit product. -/
  | mulhN64 (d a b : GReg)
  /-- DIV_I64 (R106): Signed division truncating towards zero, all ones for a zero divisor. -/
  | divI64 (d a b : GReg)
  /-- DIV_N64 (R106): Unsigned division, all ones for a zero divisor. -/
  | divN64 (d a b : GReg)
  /-- REM_I64 (R106): Signed remainder, the dividend for a zero divisor. -/
  | remI64 (d a b : GReg)
  /-- REM_N64 (R106): Unsigned remainder, the dividend for a zero divisor. -/
  | remN64 (d a b : GReg)
  /-- SEXT_B (R107): Sign-extends bits 7:0. -/
  | sextB (d a : GReg)
  /-- SEXT_H (R107): Sign-extends bits 15:0. -/
  | sextH (d a : GReg)
  /-- SEXT_W (R107): Sign-extends bits 31:0. -/
  | sextW (d a : GReg)
  /-- ZEXT_B (R107): Zero-extends bits 7:0. -/
  | zextB (d a : GReg)
  /-- ZEXT_H (R107): Zero-extends bits 15:0. -/
  | zextH (d a : GReg)
  /-- ZEXT_W (R107): Zero-extends bits 31:0. -/
  | zextW (d a : GReg)
  /-- BEXT (R108): Extracts a zero-extended bit field at the position and width given in gb. -/
  | bext (d a b : GReg)
  /-- BINS (R108): Inserts ga into a bit field of gd. -/
  | bins (d a b : GReg)
  /-- CLZ (R107): Counts leading zero bits. -/
  | clz (d a : GReg)
  /-- CTZ (R107): Counts trailing zero bits. -/
  | ctz (d a : GReg)
  /-- POPC (R107): Counts set bits. -/
  | popc (d a : GReg)
  /-- BREV (R107): Reverses the bit order. -/
  | brev (d a : GReg)
  /-- LEA_H (R102): gd = ga + (gb << 1). -/
  | leaH (d a b : GReg)
  /-- LEA_W (R102): gd = ga + (gb << 2). -/
  | leaW (d a b : GReg)
  /-- LEA_D (R102): gd = ga + (gb << 3). -/
  | leaD (d a b : GReg)
  /-- SHL_IMM (R104): Shift left by an immediate count 0-63. -/
  | shlImm (d a : GReg) (n : BitVec 6)
  /-- SHR_IMM (R104): Logical shift right by an immediate count. -/
  | shrImm (d a : GReg) (n : BitVec 6)
  /-- SAR_IMM (R104): Arithmetic shift right by an immediate count. -/
  | sarImm (d a : GReg) (n : BitVec 6)
  /-- ROL_IMM (R104): Rotate left by an immediate count. -/
  | rolImm (d a : GReg) (n : BitVec 6)
  /-- ADDI (R103): Adds a sign-extended immediate. -/
  | addi (d a : GReg) (imm : BitVec 16)
  /-- ANDI (R103): ANDs with a sign-extended immediate. -/
  | andi (d a : GReg) (imm : BitVec 16)
  /-- ORI (R103): ORs with a zero-extended immediate. -/
  | ori (d a : GReg) (imm : BitVec 16)
  /-- CMPEQ (R109): Sets pd when ga equals gb. -/
  | cmpeq (p : Reg3) (a b : GReg)
  /-- CMPEQ_IMM (R109): Sets pd when ga equals a signed 5-bit immediate. -/
  | cmpeqImm (p : Reg3) (a : GReg) (imm : BitVec 5)
  /-- CMPNE (R109): Sets pd when ga differs from gb. -/
  | cmpne (p : Reg3) (a b : GReg)
  /-- CMPNE_IMM (R109): Sets pd when ga differs from the immediate. -/
  | cmpneImm (p : Reg3) (a : GReg) (imm : BitVec 5)
  /-- CMPLT_I64 (R109): Signed less-than compare into pd. -/
  | cmpltI64 (p : Reg3) (a b : GReg)
  /-- CMPLT_I64_IMM (R109): Signed less-than compare with an immediate. -/
  | cmpltI64Imm (p : Reg3) (a : GReg) (imm : BitVec 5)
  /-- CMPLT_N64 (R109): Unsigned less-than compare. -/
  | cmpltN64 (p : Reg3) (a b : GReg)
  /-- CMPLT_N64_IMM (R109): Unsigned less-than compare with a sign-extended immediate. -/
  | cmpltN64Imm (p : Reg3) (a : GReg) (imm : BitVec 5)
  /-- CMPLE_I64 (R109): Signed less-or-equal compare. -/
  | cmpleI64 (p : Reg3) (a b : GReg)
  /-- CMPLE_I64_IMM (R109): Signed less-or-equal compare with an immediate. -/
  | cmpleI64Imm (p : Reg3) (a : GReg) (imm : BitVec 5)
  /-- CMPLE_N64 (R109): Unsigned less-or-equal compare. -/
  | cmpleN64 (p : Reg3) (a b : GReg)
  /-- CMPLE_N64_IMM (R109): Unsigned less-or-equal compare with an immediate. -/
  | cmpleN64Imm (p : Reg3) (a : GReg) (imm : BitVec 5)
  /-- CMPGT_I64 (R109): Signed greater-than compare. -/
  | cmpgtI64 (p : Reg3) (a b : GReg)
  /-- CMPGT_I64_IMM (R109): Signed greater-than compare with an immediate. -/
  | cmpgtI64Imm (p : Reg3) (a : GReg) (imm : BitVec 5)
  /-- CMPGT_N64 (R109): Unsigned greater-than compare. -/
  | cmpgtN64 (p : Reg3) (a b : GReg)
  /-- CMPGT_N64_IMM (R109): Unsigned greater-than compare with an immediate. -/
  | cmpgtN64Imm (p : Reg3) (a : GReg) (imm : BitVec 5)
  /-- CMPGE_I64 (R109): Signed greater-or-equal compare. -/
  | cmpgeI64 (p : Reg3) (a b : GReg)
  /-- CMPGE_I64_IMM (R109): Signed greater-or-equal compare with an immediate. -/
  | cmpgeI64Imm (p : Reg3) (a : GReg) (imm : BitVec 5)
  /-- CMPGE_N64 (R109): Unsigned greater-or-equal compare. -/
  | cmpgeN64 (p : Reg3) (a b : GReg)
  /-- CMPGE_N64_IMM (R109): Unsigned greater-or-equal compare with an immediate. -/
  | cmpgeN64Imm (p : Reg3) (a : GReg) (imm : BitVec 5)
  /-- PAND (R110): pd = pa AND pb. -/
  | pand (d a b : Reg3)
  /-- POR (R110): pd = pa OR pb. -/
  | por (d a b : Reg3)
  /-- PXOR (R110): pd = pa XOR pb. -/
  | pxor (d a b : Reg3)
  /-- PANDN (R110): pd = pa AND NOT pb. -/
  | pandn (d a b : Reg3)
  /-- PNOT (R110): pd = NOT pa. -/
  | pnot (d a : Reg3)
  /-- PMOV (R110): pd = pa. -/
  | pmov (d a : Reg3)
  /-- PGET (R110): Writes p7..p0 to bits 7:0 of gd. -/
  | pget (d : GReg)
  /-- PSET (R110): Loads p1..p7 from bits 7:1 of ga. -/
  | pset (a : GReg)
  /-- FADD (R111): FP32 addition rounded once. -/
  | fadd (d a b : GReg)
  /-- FSUB (R111): FP32 subtraction. -/
  | fsub (d a b : GReg)
  /-- FMUL (R111): FP32 multiplication. -/
  | fmul (d a b : GReg)
  /-- FDIV (R111): FP32 division. -/
  | fdiv (d a b : GReg)
  /-- FSQRT (R111): FP32 square root. -/
  | fsqrt (d a : GReg)
  /-- FMIN (R112): IEEE minimum with -0 below +0. -/
  | fmin (d a b : GReg)
  /-- FMAX (R112): IEEE maximum. -/
  | fmax (d a b : GReg)
  /-- FMA (R111): Fused gd = ga*gb + gd with one rounding. -/
  | fma (d a b : GReg)
  /-- FNMA (R111): Fused gd = -(ga*gb) + gd. -/
  | fnma (d a b : GReg)
  /-- FABS (R113): Clears the sign bit, moving bits unchanged. -/
  | fabs (d a : GReg)
  /-- FNEG (R113): Inverts the sign bit. -/
  | fneg (d a : GReg)
  /-- FCMPEQ (R114): Quiet FP32 equality compare into a predicate. -/
  | fcmpeq (p : Reg3) (a b : GReg)
  /-- FCMPLT (R114): Signalling FP32 less-than compare. -/
  | fcmplt (p : Reg3) (a b : GReg)
  /-- FCMPLE (R114): Signalling FP32 less-or-equal compare. -/
  | fcmple (p : Reg3) (a b : GReg)
  /-- FCMPUN (R114): Quiet unordered compare. -/
  | fcmpun (p : Reg3) (a b : GReg)
  /-- FCVTI_I32 (R116): FP32 to INT32 with rounding bit and overflow policy. -/
  | fcvtiI32 (d a : GReg) (ovp : Ovp) (rtz : Bool)
  /-- FCVTI_N32 (R116): FP32 to unsigned 32-bit integer. -/
  | fcvtiN32 (d a : GReg) (ovp : Ovp) (rtz : Bool)
  /-- FCVTI_I64 (R116): FP32 to INT64. -/
  | fcvtiI64 (d a : GReg) (ovp : Ovp) (rtz : Bool)
  /-- FCVTI_N64 (R116): FP32 to unsigned 64-bit integer. -/
  | fcvtiN64 (d a : GReg) (ovp : Ovp) (rtz : Bool)
  /-- ICVTF_I64 (R116): Signed 64-bit integer to FP32 by RNE. -/
  | icvtfI64 (d a : GReg)
  /-- ICVTF_N64 (R116): Unsigned 64-bit integer to FP32. -/
  | icvtfN64 (d a : GReg)
  /-- FCVT_BF16 (R116): FP32 down-converted to BF16 under an overflow policy. -/
  | fcvtBf16 (d a : GReg) (ovp : Ovp)
  /-- FCVT_F16 (R116): FP32 down-converted to binary16. -/
  | fcvtF16 (d a : GReg) (ovp : Ovp)
  /-- FWID_BF16 (R116): BF16 widened exactly to FP32. -/
  | fwidBf16 (d a : GReg)
  /-- FWID_F16 (R116): binary16 widened exactly to FP32. -/
  | fwidF16 (d a : GReg)
  /-- LD (R255): Relaxed scalar load, zero-extended, parking as REMOTE for a home in another package. -/
  | ld (d a : GReg) (off : BitVec 12) (z : Size)
  /-- LD_ACQ (R255): Acquire scalar load at scope s. -/
  | ldAcq (d a : GReg) (sc : Scope) (off : BitVec 9) (z : Size)
  /-- PF_L1 (R259): Prefetches a line into the issuing core's L1, or is dropped and counted. -/
  | pfL1 (a : GReg) (off : BitVec 12)
  /-- PF_L2 (R259): Prefetches a line into its home slice from HBM. -/
  | pfL2 (a : GReg) (off : BitVec 12)
  /-- HINT_NEED (R260): Home slices bring every line of the 64 KiB frame into L2. -/
  | hintNeed (a : GReg) (off : BitVec 12)
  /-- HINT_DONE (R260): The core's L1 writes back and drops its lines of the page. -/
  | hintDone (a : GReg) (off : BitVec 12)
  /-- HINT_NEAR (R260): Adds 256 to the frame's hotness counter for the issuer. -/
  | hintNear (a : GReg) (off : BitVec 12)
  /-- ST (R256): Relaxed scalar store into the store buffer or as an uncounted remote store, setting the owner tag. -/
  | st (s a : GReg) (off : BitVec 12) (z : Size)
  /-- ST_REL (R256): Release scalar store at scope s. -/
  | stRel (s a : GReg) (sc : Scope) (off : BitVec 9) (z : Size)
  /-- VADD_F (R169): Vector floating add. -/
  | vaddF (d : VDst) (a : VSrc) (b : VReg) (k : Reg3) (t : FType)
  /-- VSUB_F (R169): Vector floating subtract. -/
  | vsubF (d : VDst) (a : VSrc) (b : VReg) (k : Reg3) (t : FType)
  /-- VMUL_F (R169): Vector floating multiply. -/
  | vmulF (d : VDst) (a : VSrc) (b : VReg) (k : Reg3) (t : FType)
  /-- VDIV (R169): Vector floating divide. -/
  | vdiv (d : VDst) (a : VSrc) (b : VReg) (k : Reg3) (t : FType)
  /-- VMIN_F (R169): Vector floating minimum. -/
  | vminF (d : VDst) (a : VSrc) (b : VReg) (k : Reg3) (t : FType)
  /-- VMAX_F (R169): Vector floating maximum. -/
  | vmaxF (d : VDst) (a : VSrc) (b : VReg) (k : Reg3) (t : FType)
  /-- VFMA (R169): Vector fused a*b + d. -/
  | vfma (d : VReg) (a : VSrc) (b : VReg) (k : Reg3) (t : FType)
  /-- VFMS (R169): Vector fused a*b - d. -/
  | vfms (d : VReg) (a : VSrc) (b : VReg) (k : Reg3) (t : FType)
  /-- VFNMA (R169): Vector fused -(a*b) + d. -/
  | vfnma (d : VReg) (a : VSrc) (b : VReg) (k : Reg3) (t : FType)
  /-- VABS (R171): Clears element sign bits. -/
  | vabs (d : VDst) (a : VSrc) (k : Reg3) (t : FType)
  /-- VNEG (R171): Inverts element sign bits. -/
  | vneg (d : VDst) (a : VSrc) (k : Reg3) (t : FType)
  /-- VSQRT (R170): Vector square root. -/
  | vsqrt (d : VDst) (a : VSrc) (k : Reg3) (t : FType)
  /-- VRCP (R170): Correctly rounded reciprocal. -/
  | vrcp (d : VDst) (a : VSrc) (k : Reg3) (t : FType)
  /-- VRSQ (R170): Correctly rounded reciprocal square root. -/
  | vrsq (d : VDst) (a : VSrc) (k : Reg3) (t : FType)
  /-- VEXP2 (R170): Correctly rounded 2^a. -/
  | vexp2 (d : VDst) (a : VSrc) (k : Reg3) (t : FType)
  /-- VADD_INT (R172): Vector integer add modulo 2^w. -/
  | vaddInt (d : VDst) (a : VSrc) (b : VReg) (k : Reg3) (w : Width)
  /-- VSUB_INT (R172): Vector integer subtract. -/
  | vsubInt (d : VDst) (a : VSrc) (b : VReg) (k : Reg3) (w : Width)
  /-- VMUL_INT (R172): Low bits of the vector integer product. -/
  | vmulInt (d : VDst) (a : VSrc) (b : VReg) (k : Reg3) (w : Width)
  /-- VMULH_I (R172): High bits of the signed product. -/
  | vmulhI (d : VDst) (a : VSrc) (b : VReg) (k : Reg3) (w : Width)
  /-- VMULH_N (R172): High bits of the unsigned product. -/
  | vmulhN (d : VDst) (a : VSrc) (b : VReg) (k : Reg3) (w : Width)
  /-- VMIN_I (R172): Signed element minimum. -/
  | vminI (d : VDst) (a : VSrc) (b : VReg) (k : Reg3) (w : Width)
  /-- VMIN_N (R172): Unsigned element minimum. -/
  | vminN (d : VDst) (a : VSrc) (b : VReg) (k : Reg3) (w : Width)
  /-- VMAX_I (R172): Signed element maximum. -/
  | vmaxI (d : VDst) (a : VSrc) (b : VReg) (k : Reg3) (w : Width)
  /-- VMAX_N (R172): Unsigned element maximum. -/
  | vmaxN (d : VDst) (a : VSrc) (b : VReg) (k : Reg3) (w : Width)
  /-- VAND (R172): Vector AND. -/
  | vand (d : VDst) (a : VSrc) (b : VReg) (k : Reg3) (w : Width)
  /-- VOR (R172): Vector OR. -/
  | vor (d : VDst) (a : VSrc) (b : VReg) (k : Reg3) (w : Width)
  /-- VXOR (R172): Vector XOR. -/
  | vxor (d : VDst) (a : VSrc) (b : VReg) (k : Reg3) (w : Width)
  /-- VSHL (R173): Vector shift left by per-element counts. -/
  | vshl (d : VDst) (a : VSrc) (b : VReg) (k : Reg3) (w : Width)
  /-- VSHR (R173): Vector logical shift right. -/
  | vshr (d : VDst) (a : VSrc) (b : VReg) (k : Reg3) (w : Width)
  /-- VSAR (R173): Vector arithmetic shift right. -/
  | vsar (d : VDst) (a : VSrc) (b : VReg) (k : Reg3) (w : Width)
  /-- VADDS (R173): Signed saturating vector add. -/
  | vadds (d : VDst) (a : VSrc) (b : VReg) (k : Reg3) (w : Width)
  /-- VCVT (R175): Converts elements between types with rounding, policy and signedness bits, synchronous under policy 11. -/
  | vcvt (d : VDst) (a : VSrc) (ovp : Ovp) (rtz uns : Bool) (k : Reg3) (dst src : CvtType)
  /-- VCMPEQ (R176): Element equality compare into a mask. -/
  | vcmpeq (d : Reg3) (a : VSrc) (b : VReg) (k : Reg3) (t : RType)
  /-- VCMPNE (R176): Element inequality compare. -/
  | vcmpne (d : Reg3) (a : VSrc) (b : VReg) (k : Reg3) (t : RType)
  /-- VCMPLT (R176): Element less-than compare. -/
  | vcmplt (d : Reg3) (a : VSrc) (b : VReg) (k : Reg3) (t : RType)
  /-- VCMPLE (R176): Element less-or-equal compare. -/
  | vcmple (d : Reg3) (a : VSrc) (b : VReg) (k : Reg3) (t : RType)
  /-- VCMPGT (R176): Element greater-than compare. -/
  | vcmpgt (d : Reg3) (a : VSrc) (b : VReg) (k : Reg3) (t : RType)
  /-- VCMPGE (R176): Element greater-or-equal compare. -/
  | vcmpge (d : Reg3) (a : VSrc) (b : VReg) (k : Reg3) (t : RType)
  /-- VCMPUN (R176): Element unordered compare for float types. -/
  | vcmpun (d : Reg3) (a : VSrc) (b : VReg) (k : Reg3) (t : FType)
  /-- VRSUM (R178): Sum reduction by the fixed tree into element 0. -/
  | vrsum (d : VReg) (a : VSrc) (k : Reg3) (t : RType)
  /-- VRMIN (R178): Minimum reduction. -/
  | vrmin (d : VReg) (a : VSrc) (k : Reg3) (t : RType)
  /-- VRMAX (R178): Maximum reduction. -/
  | vrmax (d : VReg) (a : VSrc) (k : Reg3) (t : RType)
  /-- VSCAN (R179): Inclusive ascending sum scan. -/
  | vscan (d : VReg) (a : VSrc) (k : Reg3) (t : RType)
  /-- VSCANMIN (R179): Inclusive minimum scan. -/
  | vscanmin (d : VReg) (a : VSrc) (k : Reg3) (t : RType)
  /-- VSCANMAX (R179): Inclusive maximum scan. -/
  | vscanmax (d : VReg) (a : VSrc) (k : Reg3) (t : RType)
  /-- VRAND (R178): AND reduction for integer types. -/
  | vrand (d : VReg) (a : VSrc) (k : Reg3) (t : IType)
  /-- VROR (R178): OR reduction for integer types. -/
  | vror (d : VReg) (a : VSrc) (k : Reg3) (t : IType)
  /-- KAND (R177): Mask AND. -/
  | kand (d a b : Reg3)
  /-- KOR (R177): Mask OR. -/
  | kor (d a b : Reg3)
  /-- KXOR (R177): Mask XOR. -/
  | kxor (d a b : Reg3)
  /-- KANDN (R177): Mask AND NOT. -/
  | kandn (d a b : Reg3)
  /-- KNOT (R177): Mask NOT. -/
  | knot (d a : Reg3)
  /-- KMOV (R177): Mask move. -/
  | kmov (d a : Reg3)
  /-- VPERM (R180): Permutes elements of va by indices in vb. -/
  | vperm (d a b : VReg) (k : Reg3) (w : Width)
  /-- VSEL (R180): Selects each element from va or vb by the mask. -/
  | vsel (d a b : VReg) (k : Reg3) (w : Width)
  /-- VBCAST (R180): Broadcasts the element of va indexed by vb[0]. -/
  | vbcast (d a b : VReg) (k : Reg3) (w : Width)
  /-- VSLUP (R180): Slides elements up by vb[0]. -/
  | vslup (d a b : VReg) (k : Reg3) (w : Width)
  /-- VSLDN (R180): Slides elements down by vb[0]. -/
  | vsldn (d a b : VReg) (k : Reg3) (w : Width)
  /-- VZIP (R180): Interleaves elements of va and vb. -/
  | vzip (d a b : VReg) (k : Reg3) (w : Width)
  /-- VUNZIP (R180): Gathers even elements of va then vb. -/
  | vunzip (d a b : VReg) (k : Reg3) (w : Width)
  /-- VMOV (R180): Vector register move. -/
  | vmov (d a : VReg) (k : Reg3) (w : Width)
  /-- VRNG (R183): Counter-based random numbers keyed by LAUNCHKEY and optionally the launch id. -/
  | vrng (d a : VReg) (k : Reg3)
  /-- VDQ_GQ4 (R182): Decodes one GQ4 block to FP32 elements. -/
  | vdqGq4 (d a b : VReg) (k : Reg3)
  /-- VSPLAT (R181): Copies low bits of a g register into each active element. -/
  | vsplat (d : VReg) (a : GReg) (k : Reg3) (w : Width)
  /-- VEXT (R181): Extracts one element into a g register, counted in ld. -/
  | vext (d : GReg) (a : VReg) (b : GReg) (w : Width)
  /-- VIOTA (R181): Writes each active element its index. -/
  | viota (d : VReg) (k : Reg3) (w : Width)
  /-- VLD (R199): Contiguous vector load. -/
  | vld (d : VReg) (a b : GReg) (k : Reg3) (w : Width)
  /-- VST (R199): Contiguous vector store. -/
  | vst (d : VReg) (a b : GReg) (k : Reg3) (w : Width)
  /-- VLDS (R199): Strided vector load. -/
  | vlds (d : VReg) (a b : GReg) (k : Reg3) (w : Width)
  /-- VSTS (R199): Strided vector store. -/
  | vsts (d : VReg) (a b : GReg) (k : Reg3) (w : Width)
  /-- VGATH (R200): Bounded gather by index vector, clearing mask bits of out-of-bound lanes. -/
  | vgath (d : VReg) (a : GReg) (b : VReg) (k : Reg3) (w : Width)
  /-- VSCAT (R200): Bounded scatter by index vector. -/
  | vscat (d : VReg) (a : GReg) (b : VReg) (k : Reg3) (w : Width)
  /-- VLDZ_BF16 (R203): Loads a BF16 sparse record into a vector. -/
  | vldzBf16 (d : VReg) (a : GReg) (k : Reg3)
  /-- VSTZ_BF16 (R202): Stores a vector as a BF16 sparse record, trapping SPARSEOVR if capacity is exceeded. -/
  | vstzBf16 (d : VReg) (a : GReg) (k : Reg3)
  /-- QBIND (R191): Reads and checks a stream descriptor and binds a stream register. -/
  | qbind (d : Reg3) (a : GReg)
  /-- QSTAT (R194): Waits for the vector queue and writes a stream's status. -/
  | qstat (d : GReg) (a : Reg3)
  /-- QFLUSH (R195): Flushes and unbinds a stream. -/
  | qflush (d : Reg3)
  /-- VSTC (R342): Counted contiguous vector store on a channel. -/
  | vstc (d : VReg) (a b : GReg) (k : Reg3) (w : Width)
  /-- VSCATC (R342): Counted bounded scatter on a channel. -/
  | vscatc (d : VReg) (a : GReg) (b : VReg) (k : Reg3) (w : Width)
  /-- MCTX (R217): Checks and sets the core's matrix context word. -/
  | mctx (a : GReg)
  /-- MPROG (R226): Loads a recurrence microprogram, checked when it takes effect. -/
  | mprog (a : GReg)
  /-- MSCALE (R218): Sets the GQ4 scale addresses BSA and SSA. -/
  | mscale (a b : GReg)
  /-- MZERO (R222): Zeroes a tile and its checksums. -/
  | mzero (t : TReg)
  /-- MLDB (R219): Fills the B latch from memory. -/
  | mldb (a : GReg)
  /-- MLDC (R223): Loads a tile from memory and forms checksums when CHK is set. -/
  | mldc (t : TReg) (a b : GReg)
  /-- MST (R224): Converts a tile to STYPE and stores it. -/
  | mst (t : TReg) (a b : GReg)
  /-- MMA (R225): Accumulates A from scratchpad times latch rows into a tile in MAC, integer or recurrence mode. -/
  | mma (t : TReg) (a b c : GReg)
  /-- MRING (R220): Passes the B latch to the next quad of the mesh-row ring and takes the previous quad's. -/
  | mring
  /-- MCHK (R229): Compares a tile with its checksums, optionally corrects one element or raises CHKF, and writes status. -/
  | mchk (t : TReg) (a c : GReg) (raise fix : Bool)
  /-- TRAP (R382): Raises TRAPI with EPC naming the TRAP word. -/
  | trap (n : BitVec 12)
  /-- ERET (R383): Returns from the trap handler to EPC and clears HND. -/
  | eret
  /-- SYSR (R384): Reads a system register. -/
  | sysr (d : GReg) (n : BitVec 12)
  /-- SYSW (R384): Writes a system register. -/
  | sysw (n : BitVec 12) (a : GReg)
  /-- TLBINV (R391): Invalidates translations of the partition's contexts for a page or entirely, across its packages. -/
  | tlbinv (a : GReg)
  /-- DIAGW (R393): Injects a parity, arithmetic or memory bit error. -/
  | diagw (a b : GReg)
  /-- DIAGR (R394): Reads service state such as error counts, quarantine mask, die map or MISUSE. -/
  | diagr (d a : GReg)
  /-- MIRQ (R392): Sends a pre-emption or resumption mesh interrupt to a core. -/
  | mirq (a : GReg)
  /-- CLD (R264): Starts a chained load from ga with descriptor gb and parks as CHAIN until result and status are written. -/
  | cld (d a b : GReg)
  /-- VCLD (R267): Starts one chain per active element and parks until every lane stops. -/
  | vcld (d a : VReg) (b : GReg) (k : Reg3)
  /-- AMO_ADD (R274): Returning atomic add. -/
  | amoAdd (d a b : GReg) (z : AmoSize) (o : Order) (sc : Scope)
  /-- AMO_AND (R274): Returning atomic AND. -/
  | amoAnd (d a b : GReg) (z : AmoSize) (o : Order) (sc : Scope)
  /-- AMO_OR (R274): Returning atomic OR. -/
  | amoOr (d a b : GReg) (z : AmoSize) (o : Order) (sc : Scope)
  /-- AMO_XOR (R274): Returning atomic XOR. -/
  | amoXor (d a b : GReg) (z : AmoSize) (o : Order) (sc : Scope)
  /-- AMO_MIN_I (R274): Returning atomic signed minimum. -/
  | amoMinI (d a b : GReg) (z : AmoSize) (o : Order) (sc : Scope)
  /-- AMO_MAX_I (R274): Returning atomic signed maximum. -/
  | amoMaxI (d a b : GReg) (z : AmoSize) (o : Order) (sc : Scope)
  /-- AMO_MIN_N (R274): Returning atomic unsigned minimum. -/
  | amoMinN (d a b : GReg) (z : AmoSize) (o : Order) (sc : Scope)
  /-- AMO_MAX_N (R274): Returning atomic unsigned maximum. -/
  | amoMaxN (d a b : GReg) (z : AmoSize) (o : Order) (sc : Scope)
  /-- AMO_SWAP (R274): Returning atomic swap. -/
  | amoSwap (d a b : GReg) (z : AmoSize) (o : Order) (sc : Scope)
  /-- CAS (R275): Compare-and-swap against gd, writing gb when equal and returning the old value. -/
  | cas (d a b : GReg) (z : AmoSize) (o : Order) (sc : Scope)
  /-- FAMO_ADD (R275): Returning FP32 atomic add. -/
  | famoAdd (d a b : GReg) (o : Order) (sc : Scope)
  /-- FAMO_MIN (R278): Returning FP32 atomic minimum. -/
  | famoMin (d a b : GReg) (o : Order) (sc : Scope)
  /-- FAMO_MAX (R278): Returning FP32 atomic maximum. -/
  | famoMax (d a b : GReg) (o : Order) (sc : Scope)
  /-- RED_ADD (R277): Non-returning add sent to the location's home. -/
  | redAdd (a b : GReg) (z : AmoSize) (rel : Bool) (sc : Scope)
  /-- RED_AND (R277): Non-returning AND. -/
  | redAnd (a b : GReg) (z : AmoSize) (rel : Bool) (sc : Scope)
  /-- RED_OR (R277): Non-returning OR. -/
  | redOr (a b : GReg) (z : AmoSize) (rel : Bool) (sc : Scope)
  /-- RED_XOR (R277): Non-returning XOR. -/
  | redXor (a b : GReg) (z : AmoSize) (rel : Bool) (sc : Scope)
  /-- RED_MIN_I (R277): Non-returning signed minimum. -/
  | redMinI (a b : GReg) (z : AmoSize) (rel : Bool) (sc : Scope)
  /-- RED_MAX_I (R277): Non-returning signed maximum. -/
  | redMaxI (a b : GReg) (z : AmoSize) (rel : Bool) (sc : Scope)
  /-- RED_MIN_N (R277): Non-returning unsigned minimum. -/
  | redMinN (a b : GReg) (z : AmoSize) (rel : Bool) (sc : Scope)
  /-- RED_MAX_N (R277): Non-returning unsigned maximum. -/
  | redMaxN (a b : GReg) (z : AmoSize) (rel : Bool) (sc : Scope)
  /-- FRED_ADD (R277): Non-returning FP32 add, ILLEGAL in deterministic mode. -/
  | fredAdd (a b : GReg) (rel : Bool) (sc : Scope)
  /-- FRED_MIN (R278): Non-returning FP32 minimum. -/
  | fredMin (a b : GReg) (rel : Bool) (sc : Scope)
  /-- FRED_MAX (R278): Non-returning FP32 maximum. -/
  | fredMax (a b : GReg) (rel : Bool) (sc : Scope)
  /-- REDX (R281): Converts an FP32 value to fixed point by a descriptor's exponent and adds it at the home. -/
  | redx (d a b : GReg) (rel : Bool) (sc : Scope)
  /-- FENCE (R291): Acquire, release or both at scope s over the task's accesses. -/
  | fence (o : FenceOrder) (sc : Scope)
  /-- BAR (R292): Waits for counters, arrives at a default or explicit barrier and completes as an acquire. -/
  | bar (a : GReg) (sc : Scope)
  /-- EVWAIT (R301): Consumes one count of an event line, stalling while it is zero. -/
  | evwait (n : BitVec 5)
  /-- EVSIG (R300): Adds one to an event line's count as a quad release. -/
  | evsig (n : BitVec 5)
  /-- CHOPEN (R339): Opens a counted channel for the context with a role and hold timeout and writes a status. -/
  | chopen (a b c : GReg)
  /-- CHCLOSE (R340): Waits for the context's counted traffic to leave, then closes the channel. -/
  | chclose (a : GReg)
  /-- CHSTAT (R341): Writes a channel's send or receive state for a peer package. -/
  | chstat (a b c : GReg)
  /-- STC (R342): Counted store on a channel. -/
  | stc (a b c : GReg) (z : Size)
  /-- FLAGW (R342): Counted flag that closes the channel's epoch as a pod release. -/
  | flagw (a b c : GReg)
  /-- CPY (R309): Checks and pushes a linear copy onto a copy channel. -/
  | cpy (ch : Reg3) (a b c : GReg)
  /-- CPY2D (R309): Pushes a two- or three-dimensional copy described by a descriptor. -/
  | cpy2d (ch : Reg3) (a b c : GReg)
  /-- CPYBIND (R312): Binds a copy channel to a destination range and sets its watermark, or unbinds it. -/
  | cpybind (ch : Reg3) (a b : GReg)
  /-- CPYWM (R315): Reads a channel's watermark. -/
  | cpywm (ch : Reg3) (c : GReg)
  /-- CPYCAN (R316): Cancels a channel's copies not yet written. -/
  | cpycan (ch : Reg3)
  /-- CPYEC (R319): XORs GF(2^8)-scaled source or delta bytes into a parity target as reductions. -/
  | cpyec (ch : Reg3) (a b c : GReg)
  /-- CAPGIVE (R353): Gives a page's writer capability to another domain or the pool, as a pod release. -/
  | capgive (a b : GReg)
  /-- CAPTAKE (R354): Draws a page's capability from the free pool into the task's domain. -/
  | captake (a : GReg)
  /-- CAPQ (R355): Reads the state of a page's capability entry. -/
  | capq (a c : GReg)
  /-- DOMOPEN (R360): Opens a containment domain from a record, moving capabilities, snapshotting copied inputs and spawning its root. -/
  | domopen (a c : GReg)
  /-- DOMCLOSE (R363): Waits for a child domain's work to finish, then commits it. -/
  | domclose (a : GReg)
  /-- DOMFAIL (R364): Requests the replay of a domain. -/
  | domfail (a : GReg)
  /-- ALLOCG (R374): Claims the task's arena slice on first use and allocates a 64-byte-rounded block. -/
  | allocg (d a : GReg)
  /-- GENPASS (R375): Advances the task's allocation generation, parking until generation AG-3 is reclaimed. -/
  | genpass (a : GReg)
  /-- VLSP (R424): Host chiplet instruction loading N vector registers from a core's scratchpad; `f` is funct7, bits 24:20
  and funct3, one after the other. -/
  | vlsp (f : BitVec 15) (s d : BitVec 5)
  /-- LQTAIL_WRITE (R420): Host advances a launch queue's tail as a sys acquire of the written records. -/
  | lqtailWrite (part ctx : Nat) (v : Word)
  /-- LAUNCH_ADMISSION (R24): Device takes the next launch record in context rotation, checks it and assigns a launch id. -/
  | launchAdmission (part : Nat)
  /-- DISPATCH (R122): Scheduler chooses an entry, checks DEPCNT, makes leases resident and binds the task to a slot. -/
  | dispatch (die : Nat)
  /-- SPILL (R131): With all slots parked and work waiting, the longest-parked task is written to the park queue. -/
  | spill (core : Nat)
  /-- QUANTUM_EXPIRY (R130): After 4096 cycles running with a non-empty ready list, the task goes to the tail. -/
  | quantumExpiry (core : Nat)
  /-- ISSUE_STALL_TIMEOUT (R145): An unsatisfied WAIT, DOMCLOSE or watermark-held access parks as DEP after 256 cycles. -/
  | issueStallTimeout (core : Nat)
  /-- LAUNCH_COMMIT (R26): When the last task has ended and its remote stores have left, the outer domain commits and DONE is posted. -/
  | launchCommit (part : Nat) (id : BitVec 32)
  /-- COMPLETION_POST (R28): Device writes a completion record, advances CQTAIL and raises vector 0, waiting while the queue is full. -/
  | completionPost (part ctx : Nat)
  /-- CQHEAD_WRITE (R420): Host consumes completion records, freeing room for posting. -/
  | cqheadWrite (part ctx : Nat) (v : Word)
  /-- PCTL_RESET (R414): Writing PCTL.RESET starts a partition reset. -/
  | pctlReset (part : Nat)
  /-- PCTL_ENABLE (R419): Writing PCTL.EN enables or disables launch admission after the arena check. -/
  | pctlEnable (part : Nat) (en : Bool)
  /-- PQOS_WRITE (R413): Partition 0 writes a partition's scheduler, vector, matrix and fabric weights. -/
  | pqosWrite (writer part : Nat) (v : Word)
  /-- FBNEXT_READ (R385): Load of FBNEXT doubleword 0 latches and consumes the oldest unread fault-buffer entry. -/
  | fbnextRead (part die : Nat)
  /-- FBSVC_RETRY (R387): Services an entry with RETRY, freeing it and retrying the access or acknowledging a notice. -/
  | fbsvcRetry (part die index : Nat)
  /-- FBSVC_KILL (R387): Services an entry with KILL, ending the task or failing the launch with LEASE. -/
  | fbsvcKill (part die index : Nat)
  /-- REGISTER_WRITE (R412): Write to a device-space register without behaviour of its own, with range and EN checks. -/
  | registerWrite (writer : Nat) (pa : Nat) (v : Word)
  /-- PCIE_FLR (R414): Function-level reset of a PCIe function starts a partition reset. -/
  | pcieFlr (part : Nat)
  /-- PCIE_CONVENTIONAL_RESET (R414): Conventional reset of the physical function resets all partitions and allotment registers. -/
  | pcieConventionalReset
  /-- PCIE_LINK_DOWN (R420): IO-A's link goes down; host-memory queues stop being used. -/
  | pcieLinkDown
  /-- PCIE_LINK_UP (R420): IO-A's link returns and host-memory queues are used again. -/
  | pcieLinkUp
  /-- PCIE_COMPLETION_TIMEOUT (R408): Completion records and interrupts for an unanswering host are dropped and counted. -/
  | pcieCompletionTimeout
  /-- MSIX_UNMASK (R417): Unmasking a vector sends its pending interrupt. -/
  | msixUnmask (part vector : Nat)
  /-- MGMT_SESSION_OPEN (R425): Module controller opens a session by an SM2 challenge against the owner key. -/
  | mgmtSessionOpen (signature : Word)
  /-- GETID (R426): Returns the package identity public key and certificate. -/
  | getid
  /-- GETSTAT (R426): Returns boot stage, term, die map, quarantine masks and fault counters. -/
  | getstat
  /-- GETTHERM (R426): Returns per-island power and hottest sensor. -/
  | gettherm
  /-- PRESET (R426): Management partition reset of a partition. -/
  | preset (part : Nat)
  /-- DRESET (R426): Management die warm reset of a physical die. -/
  | dreset (pdie : Nat)
  /-- HOSTMODE (R426): Writes MODE.SELF and performs a conventional PF reset. -/
  | hostmode (self : Bool)
  /-- SETCAP (R426): Sets the package power cap. -/
  | setcap (watts : Nat)
  /-- FWSTAGE (R426): Writes a blob to the inactive flash bank. -/
  | fwstage (blob : List Byte)
  /-- POWER_ON (R428): Lantern pairs start, derive their keys from the PUF and begin boot. -/
  | powerOn
  /-- BOOT_CHUNK (R429): A target applies an image chunk under a term, hashes it and advances VCOUNT on a match. -/
  | bootChunk (target : Nat) (term : BitVec 32) (index : Nat) (chunk : List Byte)
  /-- LANTERN_HEARTBEAT_LAPSE (R405): Leader heartbeat lapses for 20 ms, or 50 ms during boot, and a new leader is elected. -/
  | lanternHeartbeatLapse
  /-- LANTERN_MISMATCH (R404): A lock-step mismatch stops the pair, which resets and reloads from the leader. -/
  | lanternMismatch (pair : Nat)
  /-- LANTERN_RELOAD_COMPLETE (R404): A reset lantern pair finishes reloading its state and accepts commands again. -/
  | lanternReloadComplete (pair : Nat)
  /-- DIE_MAP_WRITE (R400): A router accepts a die-map write carrying a term at least equal to its TERM. -/
  | dieMapWrite (term : BitVec 32) (entries : List (BitVec 16))
  /-- PACKAGE_MAP_WRITE (R403): A fabric interface accepts a package-map write under term. -/
  | packageMapWrite (term : BitVec 32) (id physical : Nat)
  /-- DIE_LOSS_DETECTED (R401): A compute die's lantern pair is silent for 20 ms or its links fail. -/
  | dieLossDetected (pdie : Nat)
  /-- AMPUTATION_VOTE (R405): A voter's vote on amputating a suspect die or package arrives. -/
  | amputationVote (voter : Nat) (amputate : Bool)
  /-- VOTE_TIMEOUT (R405): The 30 ms voting window ends; without enough votes only named links are removed. -/
  | voteTimeout
  /-- SPARE_TAKEOVER (R401): After a passed vote the leader quiesces, rewrites the die map and a spare takes the identity. -/
  | spareTakeover (die : Nat) (term : BitVec 32)
  /-- PACKAGE_LOSS (R403): A lost package is replaced by a spare, its protected area rebuilt and affected launches rolled back. -/
  | packageLoss (pkg : Nat)
  /-- DIE_WARM_RESET (R406): A die's cores, caches and scratchpad are cleared and its tasks discarded. -/
  | dieWarmReset (pdie : Nat)
  /-- WATCHDOG_EXPIRY (R398): A core retiring nothing for 2^24 cycles is hung, charges WDOG and is reset. -/
  | watchdogExpiry (core : Nat)
  /-- CORE_RESET_END (R407): The core reset completes and diverted messages are delivered. -/
  | coreResetEnd (core : Nat)
  /-- SCAN_SLOT_START (R27): A quad is drained for its 62.5 µs scan slot and its slots become HELD. -/
  | scanSlotStart (die quad : Nat)
  /-- SCAN_PASS (R368): A quad passes its scan; its prior work is no longer provisional. -/
  | scanPass (die quad : Nat)
  /-- SCAN_FAIL (R369): A quad fails its scan; it is quarantined and the domains that ran there are charged. -/
  | scanFail (die quad pattern : Nat)
  /-- QUARANTINE_RELEASE (R399): Service software releases a quarantined quad, effective at its next passing scan. -/
  | quarantineRelease (die quad : Nat)
  /-- RASP_SCRUB (R396): The rasp visits a line, correcting single-bit errors and raising others. -/
  | raspScrub (line : Nat)
  /-- HARDWARE_ERROR (R399): An uncorrectable error is detected and charged to a domain through its owner. -/
  | hardwareError (site : ErrorSite)
  /-- LINE_REBUILD (R402): An uncorrectable protected line is rebuilt from its group and the waiting reader resumes. -/
  | lineRebuild (line : Nat)
  /-- DOMAIN_SNAPSHOT_COMPLETE (R361): The copy of a domain's copied inputs into its save area completes and its root may be bound. -/
  | domainSnapshotComplete (dom : Nat)
  /-- DOMAIN_COMMIT (R363): When a closing domain's work has drained and dual sums agree, it commits and releases capabilities. -/
  | domainCommit (dom : Nat)
  /-- CAPABILITY_CHANGE_COMPLETE (R352): A capability change completes after invalidations and old writes are performed. -/
  | capabilityChangeComplete (task : Nat)
  /-- CAPABILITY_ENTRY_FETCH (R348): A capability entry fetched on a quad TLB miss returns and the waiting write proceeds. -/
  | capabilityEntryFetch (task : Nat) (page : Nat) (entry : Word)
  /-- DOMAIN_ID_DRAW_REPLY (R357): A domain-id draw from another package returns its id. -/
  | domainIdDrawReply (task : Nat) (id : BitVec 32)
  /-- TLBINV_COMPLETE (R391): An invalidation completes once accesses under dropped entries are performed. -/
  | tlbinvComplete (task : Nat)
  /-- VECTOR_ARBITER_CYCLE (R162): Each cycle the quad's four lane groups are granted by reservation and weighted virtual time. -/
  | vectorArbiterCycle (die quad : Nat)
  /-- MATRIX_GRANT (R214): A grant of up to 16 array cycles is awarded to one core's context. -/
  | matrixGrant (die quad : Nat)
  /-- MRING_LINK_TRANSFER (R220): A latch snapshot crosses the ring link to the next quad. -/
  | mringLinkTransfer (core : Nat)
  /-- STREAM_TRANSFER (R192): A stream's transfer unit reads ahead or writes behind one 256-byte vector. -/
  | streamTransfer (core q : Nat)
  /-- COPY_ENGINE_CYCLE (R305): An engine moves one 64-byte unit, serving its copies a sector at a time in rotation. -/
  | copyEngineCycle (die engine : Nat)
  /-- MAILBOX_PLACEMENT (R207): The receiving core places a message from a send entry into a ring, or holds it. -/
  | mailboxPlacement (core entry : Nat)
  /-- RING_FULL_TIMEOUT (R208): A message held 65,536 cycles sets FULLEV and increments FULLCNT. -/
  | ringFullTimeout (core entry : Nat)
  /-- UNREPORTED_FAULT_WRITE (R388): As entries free, waiting unreported faults are written oldest first with UNREP set. -/
  | unreportedFaultWrite (die : Nat)
  /-- MERGE_STEP (R280): Requests reaching one home slice in one cycle are accepted in requester-index order. -/
  | mergeStep (place : Nat) (indices : List Nat)
  /-- PREEMPT_REQUEST (R154): A mesh interrupt pre-empts a core: issue stops, gangs dissolve and the core drains. -/
  | preemptRequest (core : Nat)
  /-- PREEMPT_SAVE (R154): After the drain the core state is saved and notice 1 posted. -/
  | preemptSave (core : Nat)
  /-- RESUME_REQUEST (R155): Resumption restores the core and redelivers diverted messages. -/
  | resumeRequest (core : Nat)
  /-- PHASE_PROBE_COMPLETE (R295): The coloured probe agrees on a full circuit and the phase completes. -/
  | phaseProbeComplete (task : Nat)
  /-- BARRIER_COMPLETE (R294): The barrier network delivers completion to the participants. -/
  | barrierComplete (task : Nat)
  /-- BARRIER_CONTROL_MESSAGE (R293): A fabric control message carries a pod barrier or phase arrival or completion. -/
  | barrierControlMessage (src : Origin) (m : BarrierMsg)
  /-- ROTOR_SLOT (R324): At each 800 ns slot every port sends queued flits to the peer it meets. -/
  | rotorSlot
  /-- FLIT_ARRIVAL (R326): A flit arrives, is CRC-checked and acknowledged or kept for supplements. -/
  | flitArrival (src dst : Nat) (seq : BitVec 32) (good : Bool) (parcels : List Parcel)
  /-- FLIT_ACK (R326): An acknowledgement frees the sender's copy of a flit. -/
  | flitAck (peer : Nat) (a : LinkAnswer)
  /-- PARITY_SUPPLEMENT (R326): A parity supplement arrives and is combined to recheck a damaged flit. -/
  | paritySupplement (src : Nat) (seq : BitVec 32) (good : Bool) (parcels : List Parcel)
  /-- LOAD_REQUEST (R253): A remote load request is performed at its home. -/
  | loadRequest (src : Nat) (m : LoadReq)
  /-- LOAD_REPLY (R132): A remote load reply is written to the task's destination, slot or park-queue entry. -/
  | loadReply (dest : ReplyTo) (bs : List Byte)
  /-- STORE_UNCOUNTED (R253): An uncounted remote store is performed at its home. -/
  | storeUncounted (src : Nat) (m : StoreMsg)
  /-- STORE_COUNTED (R332): A counted write is performed and counted in the drip or pending count. -/
  | storeCounted (src : Nat) (m : StoreMsg) (c : Count)
  /-- FLAG (R332): A counted flag is held until its epoch and count are reached, then applied. -/
  | flag (src : Nat) (m : FlagMsg)
  /-- REDUCTION_MESSAGE (R277): A remote reduction is accepted at its home write queue. -/
  | reductionMessage (src : Nat) (m : RedMsg)
  /-- ATOMIC_REQUEST (R271): A far returning atomic executes at its home. -/
  | atomicRequest (src : Nat) (m : AtomicReq)
  /-- ATOMIC_REPLY (R275): A far atomic's old value and flags are written to the task. -/
  | atomicReply (task : Nat) (v : Word) (flags : BitVec 6)
  /-- CHAIN_PACKET (R263): A chain packet runs its steps at the owner of each address. -/
  | chainPacket (m : Packet)
  /-- CHAIN_RESULT (R264): A chain's result and status are written at the origin. -/
  | chainResult (m : ChainEnd)
  /-- CHAIN_FAULT_REPLY (R265): A chain fault reply writes a CHAINF entry and turns the park to FAULT. -/
  | chainFaultReply (m : ChainFault)
  /-- STALL (R336): A sender receiving STALL chooses and replays the domain of the stalled epoch. -/
  | stall (src : Origin) (m : StallMsg)
  /-- RESYNC (R337): A receiver resets a channel pair to the base, discards held flags and acknowledges. -/
  | resync (src : Origin) (m : ResyncMsg)
  /-- RESYNC_ACK (R337): The acknowledgement releases the sender's held counted traffic. -/
  | resyncAck (src : Origin) (ch : Nat) (gen : BitVec 8)
  /-- HOLD_TIMEOUT (R335): A held flag's timer expires: STALLED set, notice 2 posted and STALL sent. -/
  | holdTimeout (ch src : Nat)
  /-- RESYNC_RESEND (R337): An unacknowledged RESYNC is sent again every 51.2 µs. -/
  | resyncResend (ch dst : Nat)
  /-- SLOT_TABLE_LOAD (R323): Service software loads the pod's slot table into the fabric interface. -/
  | slotTableLoad (table : List (Nat × Nat))
  /-- PORT_LOSS (R399): An optical lane or port is lost and removed. -/
  | portLoss (port : Nat)
  /-- ROTOR_LOSS (R399): A rotor switch is lost and every package loses a port. -/
  | rotorLoss (rotor : Nat)
  /-- THERMAL_STEP_DOWN (R431): A sensor at 105 °C or above lowers its island's clock one step every 100 µs. -/
  | thermalStepDown (island : Nat)
  /-- THERMAL_STEP_UP (R431): With all sensors below 100 °C the clock rises one step every 1 ms. -/
  | thermalStepUp (island : Nat)
  /-- THERMAL_TRIP (R431): A sensor at 115 °C for 1 ms trips its island into die or package loss. -/
  | thermalTrip (island : Nat)
  /-- COOLANT_LOSS (R431): Reported loss of coolant flow removes package power within 100 ms. -/
  | coolantLoss
  /-- RESERVED_ENCODING (R86): A fetched word that is a reserved encoding, such as a major in 0x28-0x3E or a zero-filled gap, raises ILLEGAL precisely. -/
  | reservedEncoding (w : IWord)
  /-- INSTRUCTION_FETCH_FAULT (R138): An instruction fetch whose page is not present or gives PROT writes a fault entry at the fetched address and parks the task. -/
  | instructionFetchFault (task : Nat)
  /-- MATRIX_MEMORY_PORT (R213): The matrix unit's memory port moves 256 bytes per cycle for MLDB, MLDC, MPROG and MST until the instruction completes. -/
  | matrixMemoryPort (core : Nat)
  /-- DIE_RESET_COMPLETE (R406): A die leaves its warm reset, taking work again and starting its scan rotation with quad 0. -/
  | dieResetComplete (pdie : Nat)
  /-- HUB_WARM_RESET (R406): A hub warm reset places its HBM in self-refresh and keeps its contents. -/
  | hubWarmReset (hub : Nat)
  /-- HOST_CHIPLET_MEMORY_ACCESS (R423): A host chiplet core loads, stores or performs an AMO on package memory, carrying the host owner tag, with a load-access-fault on a poisoned line and full-line stores clearing poison. -/
  | hostChipletMemoryAccess (core : Nat) (m : HostAccess)
  /-- CHANNEL_ALLOTMENT_WRITE (R329): A write of a channel's allotment byte in the package service window allots or re-allots the channel and zeroes its counters, generations and epochs. -/
  | channelAllotmentWrite (id : Nat) (v : Byte)
  /-- WINDOW_SERVICE_OPERATION (R390): The host-side driver performs TLBINV, MIRQ or DIAG operations through its partition window with the instructions' effects. -/
  | windowServiceOperation (part : Nat) (op : WindowOp)
deriving DecidableEq, Repr

end Sys2Proof
end

