-- ==== Sys2Proof/WellFormed.lean ====
section
/-! DEFINITION. Well-formed instructions: the operands that 03_encoding.md admits beyond the ranges of their fields. -/

namespace Sys2Proof

/-- Is the conversion type a floating-point format (02_numbers.md R32)? -/
def CvtType.isFloat : CvtType → Bool
  | .f32 | .bf16 | .f16 | .e4m3 | .e5m2 => true
  | .i32 | .i16 | .i8 => false

/-- Bits of one element of a conversion type (06_vector.md R175). -/
def CvtType.bits : CvtType → Nat
  | .f32 | .i32 => 32
  | .bf16 | .f16 | .i16 => 16
  | .e4m3 | .e5m2 | .i8 => 8

/-- The widening conversions, source first (02_numbers.md R50). -/
def CvtType.widens (src dst : CvtType) : Bool :=
  match src, dst with
  | .e4m3, .f32 | .e5m2, .f32 | .f16, .f32 | .bf16, .f32 => true
  | .e4m3, .f16 | .e5m2, .f16 | .e4m3, .bf16 | .e5m2, .bf16 => true
  | .i8, .f32 | .i16, .f32 => true
  | .i8, .i16 | .i8, .i32 | .i16, .i32 => true
  | _, _ => false

/-- The fields that `VCVT` admits (06_vector.md R174). -/
def vcvtAdmits (ovp : Ovp) (rtz uns : Bool) (dst src : CvtType) : Bool :=
  dst != src && (!rtz || (src.isFloat && !dst.isFloat)) && (!uns || !src.isFloat || !dst.isFloat)
    && (ovp == .sat || !src.widens dst)

/-- An instruction whose operands 03_encoding.md admits: displacements that are not zero (R75), groups of registers
that end in the file (R63), the combinations of `VCVT` (06_vector.md R174). Every other operand is admitted by its
type alone. -/
def Instr.WellFormed : Instr → Bool
  | .br off => off != 0
  | .bp p neg off => off != 0 && (p != 0 || neg)
  | .loop d _ => d != 0
  | .cld d _ _ => d != 31
  | .vcld d _ _ _ => d != 31
  | .vgath _ a _ _ _ => a != 31
  | .vscat _ a _ _ _ => a != 31
  | .vscatc _ a _ _ _ => a != 30 && a != 31
  | .vcvt _ _ ovp rtz uns _ dst src => vcvtAdmits ovp rtz uns dst src
  | _ => true

end Sys2Proof
end

