-- ==== Sys2Proof/Machine/Flags.lean ====
section
/-! DEFINITION. Number formats, exact values, the one rounding of every result and the flags it raises
(02_numbers.md R32 to R61). -/

namespace Sys2Proof.Machine

/-- The sticky flags of `FSR` bits 5:0: SAT, NV, DZ, OF, UF, NX (02_numbers.md R47). -/
abbrev Flags := BitVec 6

/-- Delivered result differs from the exact result (R47). -/
def flagNX : Flags := 0x01
/-- Result tiny and inexact (R47). -/
def flagUF : Flags := 0x02
/-- Overflow (R46, R47). -/
def flagOF : Flags := 0x04
/-- Division of a finite non-zero value by zero (R47). -/
def flagDZ : Flags := 0x08
/-- Invalid (R47). -/
def flagNV : Flags := 0x10
/-- A conversion clipped a value (R47). -/
def flagSAT : Flags := 0x20

/-- A flag where a condition holds. -/
def flagIf (c : Bool) (f : Flags) : Flags := if c then f else 0

/-- The floating-point formats (R32). -/
inductive Format where
  | f32 | bf16 | f16 | e5m2 | e4m3
deriving DecidableEq, Repr

/-- Bits of a value (R32). -/
def Format.width : Format → Nat
  | .f32 => 32 | .bf16 => 16 | .f16 => 16 | .e5m2 => 8 | .e4m3 => 8

/-- Bits of the trailing significand field (R32). -/
def Format.man : Format → Nat
  | .f32 => 23 | .bf16 => 7 | .f16 => 10 | .e5m2 => 2 | .e4m3 => 3

/-- Bits of the exponent field (R32). -/
def Format.exp : Format → Nat
  | .f32 => 8 | .bf16 => 8 | .f16 => 5 | .e5m2 => 5 | .e4m3 => 4

/-- Exponent bias (R32). -/
def Format.bias : Format → Nat
  | .f32 => 127 | .bf16 => 127 | .f16 => 15 | .e5m2 => 15 | .e4m3 => 7

/-- Has the format infinities (R33)? -/
def Format.hasInf : Format → Bool
  | .e4m3 => false
  | _ => true

/-- Magnitude bits of the largest finite value (R32). -/
def Format.largest : Format → Nat
  | .f32 => 0x7F7FFFFF | .bf16 => 0x7F7F | .f16 => 0x7BFF | .e5m2 => 0x7B | .e4m3 => 0x7E

/-- Magnitude bits of infinity; `e4m3` has none and its place is not used (R33). -/
def Format.infinity : Format → Nat
  | .f32 => 0x7F800000 | .bf16 => 0x7F80 | .f16 => 0x7C00 | .e5m2 => 0x7C | .e4m3 => 0x7F

/-- The canonical NaN (R33). -/
def Format.nan : Format → Nat
  | .f32 => 0x7FC00000 | .bf16 => 0x7FC0 | .f16 => 0x7E00 | .e5m2 => 0x7E | .e4m3 => 0x7F

/-- Exponent of the smallest normal value (R32). -/
def Format.emin (f : Format) : Int := 1 - (f.bias : Int)

/-- Exponent of one unit of the subnormal grid (R32). -/
def Format.grid (f : Format) : Int := f.emin - f.man

/-- An operand: a NaN, an infinity, or the finite value (-1) ^ neg * m * 2 ^ e. -/
inductive Num where
  | nan (signalling : Bool)
  | inf (neg : Bool)
  | fin (neg : Bool) (m : Nat) (e : Int)
deriving DecidableEq, Repr

/-- The sign bit of a pattern (R32). -/
def Format.sign (f : Format) (x : Nat) : Bool := x.testBit (f.width - 1)

/-- The value of a pattern of a format (R32, R33). -/
def Format.value (f : Format) (x : Nat) : Num :=
  let e := field x f.man f.exp
  let m := field x 0 f.man
  let s := f.sign x
  if f = .e4m3 then
    if e = 15 ∧ m = 7 then .nan false
    else if e = 0 then .fin s m f.grid
    else .fin s (2 ^ f.man + m) ((e : Int) - f.bias - f.man)
  else if e = 2 ^ f.exp - 1 then
    if m = 0 then .inf s else .nan (!m.testBit (f.man - 1))
  else if e = 0 then .fin s m f.grid
  else .fin s (2 ^ f.man + m) ((e : Int) - f.bias - f.man)

/-- Is the operand a signalling NaN? -/
def Num.signalling : Num → Bool
  | .nan s => s
  | _ => false

/-- Is the operand a NaN? -/
def Num.isNan : Num → Bool
  | .nan _ => true
  | _ => false

/-- Is the operand an infinity? -/
def Num.isInf : Num → Bool
  | .inf _ => true
  | _ => false

/-- Is the operand a zero? -/
def Num.isZero : Num → Bool
  | .fin _ m _ => m == 0
  | _ => false

/-- Sign of an operand; false for a NaN. -/
def Num.sign : Num → Bool
  | .nan _ => false
  | .inf s => s
  | .fin s _ _ => s

/-- The operand with its sign inverted. -/
def Num.negate : Num → Num
  | .nan q => .nan q
  | .inf s => .inf (!s)
  | .fin s m e => .fin (!s) m e

/-- Rounds m * 2 ^ e, or a value strictly between it and (m + 1) * 2 ^ e where `sticky`, to a multiple of 2 ^ k, to
nearest and ties to even: the multiple and whether the result differs from the exact value (R44). With `sticky`, `k`
lies at least two above `e`. -/
def roundAt (m : Nat) (e k : Int) (sticky : Bool) : Nat × Bool :=
  if k ≤ e then (m <<< (e - k).toNat, sticky)
  else
    let sh := (k - e).toNat
    let q := m >>> sh
    let r := m % 2 ^ sh
    let half := 2 ^ (sh - 1)
    let up := r > half || (r == half && (sticky || q % 2 == 1))
    (if up then q + 1 else q, r != 0 || sticky)

/-- Compares m1 * 2 ^ e1 with m2 * 2 ^ e2. -/
def scaleLt (m1 : Nat) (e1 : Int) (m2 : Nat) (e2 : Int) : Bool :=
  let e := min e1 e2
  m1 <<< (e1 - e).toNat < m2 <<< (e2 - e).toNat

/-- The magnitude bits of the representable value m * 2 ^ k (R32). -/
def Format.magnitude (f : Format) (m : Nat) (k : Int) : Nat :=
  if m = 0 then 0
  else
    let top := (m.log2 : Int) + k
    if top < f.emin then (m <<< (k - f.grid).toNat) >>> (f.grid - k).toNat
    else
      let frac := (m <<< f.man) >>> m.log2
      (top + f.bias).toNat * 2 ^ f.man + frac % 2 ^ f.man

/-- A pattern from its sign and magnitude bits. -/
def Format.signed (f : Format) (neg : Bool) (mag : Nat) : Nat :=
  mag + bit neg * 2 ^ (f.width - 1)

/-- A rounded result: its bits, its flags, and whether it overflowed. -/
structure Rounded where
  bits : Nat
  flags : Flags
  overflow : Bool
deriving DecidableEq, Repr

/-- Rounds a non-zero exact value by R44 and R46. An overflow carries the sign and OF and NX, and infinity where the
format has one; a conversion replaces its bits by R51. -/
def Format.round (f : Format) (neg : Bool) (m : Nat) (e : Int) (sticky : Bool) : Rounded :=
  let k := (m.log2 : Int) + e - f.man
  let (q, inexact) := roundAt m e k sticky
  let top := Format.value f f.largest
  let beyond := match top with
    | .fin _ lm le => scaleLt lm le q k
    | _ => false
  if beyond then ⟨f.signed neg f.infinity, flagOF ||| flagNX, true⟩
  else if scaleLt q k 1 f.emin then
    let (q', inexact') := roundAt m e f.grid sticky
    ⟨f.signed neg (f.magnitude q' f.grid), flagIf inexact' (flagUF ||| flagNX), false⟩
  else ⟨f.signed neg (f.magnitude q k), flagIf inexact flagNX, false⟩

/-- The canonical NaN, with NV where stated (R35). -/
def Format.nanResult (f : Format) (nv : Bool) : Rounded := ⟨f.nan, flagIf nv flagNV, false⟩

/-- A result that is exact: a signed zero. -/
def Format.zero (f : Format) (neg : Bool) : Rounded := ⟨f.signed neg 0, 0, false⟩

/-- A signed infinity with the given flags. -/
def Format.inf (f : Format) (neg : Bool) (fl : Flags) : Rounded := ⟨f.signed neg f.infinity, fl, false⟩

/-- Signed magnitude of a finite value aligned to exponent `e`. -/
def Num.aligned (x : Num) (e : Int) : Int :=
  match x with
  | .fin s m k => let v : Int := m <<< (k - e).toNat; if s then -v else v
  | _ => 0

/-- Exponent of a finite value, or `e` for any other operand. -/
def Num.expOr (x : Num) (e : Int) : Int :=
  match x with
  | .fin _ _ k => k
  | _ => e

/-- Least exponent of a list of operands. -/
def minExp (xs : List Num) : Int := xs.foldl (fun e x => min e (x.expOr e)) 0

/-- The exact sum of addends rounded once, with the zero rule of R46 and the special cases of R57. `nv` says whether
an operand that formed the addends raised NV already. -/
def Format.sum (f : Format) (xs : List Num) (nv : Bool) : Rounded :=
  if xs.any Num.isNan || nv then f.nanResult (nv || xs.any Num.signalling)
  else if xs.any (fun x => x.isInf && x.sign) && xs.any (fun x => x.isInf && !x.sign) then f.nanResult true
  else if xs.any Num.isInf then f.inf (xs.any (fun x => x.isInf && x.sign)) 0
  else
    let e := minExp xs
    let t : Int := xs.foldl (fun acc x => acc + x.aligned e) 0
    if t = 0 then f.zero (xs.all Num.sign)
    else f.round (t < 0) t.natAbs e false

/-- The exact product of two operands; `none` for 0 times an infinity (R111). -/
def Num.mul (a b : Num) : Option Num :=
  match a, b with
  | .nan s, .nan t => some (.nan (s || t))
  | .nan s, _ => some (.nan s)
  | _, .nan t => some (.nan t)
  | .inf s, .inf t => some (.inf (s != t))
  | .inf s, .fin t m _ => if m = 0 then none else some (.inf (s != t))
  | .fin s m _, .inf t => if m = 0 then none else some (.inf (s != t))
  | .fin s m e, .fin t n k => some (.fin (s != t) (m * n) (e + k))

/-- Sum of two operands (R111). -/
def Format.add (f : Format) (a b : Num) : Rounded := f.sum [a, b] false

/-- Product of two operands (R111). -/
def Format.mul (f : Format) (a b : Num) : Rounded :=
  match a.mul b with
  | none => f.nanResult true
  | some (.nan s) => f.nanResult s
  | some (.inf s) => f.inf s 0
  | some (.fin s m e) => if m = 0 then f.zero s else f.round s m e false

/-- a * b + c, or -(a * b) + c, with one rounding (R111). -/
def Format.fma (f : Format) (negate : Bool) (a b c : Num) : Rounded :=
  match a.mul b with
  | none => f.nanResult true
  | some p => f.sum [if negate then p.negate else p, c] false

/-- a / b (R111). -/
def Format.div (f : Format) (a b : Num) : Rounded :=
  match a, b with
  | .nan s, x => f.nanResult (s || x.signalling)
  | _, .nan s => f.nanResult s
  | .inf _, .inf _ => f.nanResult true
  | .inf s, .fin t _ _ => f.inf (s != t) 0
  | .fin s _ _, .inf t => f.zero (s != t)
  | .fin s m e, .fin t n k =>
    if n = 0 then (if m = 0 then f.nanResult true else f.inf (s != t) flagDZ)
    else if m = 0 then f.zero (s != t)
    else
      let sh := n.log2 + f.man + 4
      f.round (s != t) ((m <<< sh) / n) (e - k - sh) ((m <<< sh) % n != 0)

/-- √a (R111). -/
def Format.sqrt (f : Format) (a : Num) : Rounded :=
  match a with
  | .nan s => f.nanResult s
  | .inf s => if s then f.nanResult true else f.inf false 0
  | .fin s m e =>
    if m = 0 then f.zero s
    else if s then f.nanResult true
    else
      let odd := e % 2 != 0
      let m' := (if odd then 2 * m else m) <<< (2 * (f.man + 4))
      let e' := if odd then e - 1 else e
      let r := isqrt m'
      f.round false r (e' / 2 - (f.man + 4 : Nat)) (r * r != m')

/-- 1 / a (06_vector.md R170). -/
def Format.rcp (f : Format) (a : Num) : Rounded := f.div (.fin false 1 0) a

/-- 1 / √a (06_vector.md R170). -/
def Format.rsq (f : Format) (a : Num) : Rounded :=
  match a with
  | .nan s => f.nanResult s
  | .inf s => if s then f.nanResult true else f.zero false
  | .fin s m e =>
    if m = 0 then f.inf s flagDZ
    else if s then f.nanResult true
    else
      let odd := e % 2 != 0
      let m' := if odd then 2 * m else m
      let e' := if odd then e - 1 else e
      let sh := m'.log2 + f.man + 4
      let r := isqrt (2 ^ (2 * sh) / m')
      f.round false r (-(sh : Int) - e' / 2) (r * r * m' != 2 ^ (2 * sh))

/-- The first `n` values of 2 ^ (2 ^ -i), i = 1, 2, …, in units of 2 ^ -256, each rounded down. -/
def expRoots : Nat → Nat → List Nat
  | 0, _ => []
  | n + 1, prev => let r := isqrt (prev <<< 256); r :: expRoots n r

/-- Product of the roots that the bits of `fr` select, `fr` a fraction of `n` bits, in units of 2 ^ -256. -/
def expProduct (fr n : Nat) : Nat :=
  let roots := expRoots n (2 <<< 256)
  (roots.zipIdx).foldl
    (fun acc (ri : Nat × Nat) => if fr.testBit (n - 1 - ri.2) then (acc * ri.1) >>> 256 else acc) (1 <<< 256)

/-- 2 ^ a (06_vector.md R170). UNVERIFIED: the value is taken from 256 fractional bits, of which the error of the
products leaves more than 230 right; see the log. -/
def Format.exp2 (f : Format) (a : Num) : Rounded :=
  match a with
  | .nan s => f.nanResult s
  | .inf s => if s then f.zero false else f.inf false 0
  | .fin s m e =>
    let n : Nat := 152
    let d : Int := e + n
    -- the operand in units of 2 ^ -n; a magnitude of 2 ^ 10 or more overflows or underflows in every format
    let big := scaleLt 1024 0 m e
    if m = 0 then f.round false 1 0 false
    else if big then (if s then f.round false 1 (-2048) false else f.round false 1 2048 false)
    else
      let mag : Int := (m <<< d.toNat) >>> (-d).toNat
      let x := if s then -mag else mag
      let whole := x / (2 ^ n : Nat)
      let fr := (x % (2 ^ n : Nat)).toNat
      if fr = 0 then f.round false 1 whole false
      else f.round false (expProduct fr n) (whole - 256) true

/-- Is a < b, for operands that are not NaNs; -0 and +0 are equal (R114). -/
def Num.lt (a b : Num) : Bool :=
  match a, b with
  | .inf s, .inf t => s && !t
  | .inf s, .fin _ _ _ => s
  | .fin _ _ _, .inf t => !t
  | .fin _ _ _, .fin _ _ _ =>
    let e := min (a.expOr 0) (b.expOr 0)
    a.aligned e < b.aligned e
  | _, _ => false

/-- Is a = b, for operands that are not NaNs; -0 and +0 are equal (R114). -/
def Num.eq (a b : Num) : Bool := !a.isNan && !b.isNan && !a.lt b && !b.lt a

/-- Minimum of IEEE 754-2019, -0 below +0, or with `mx` the maximum; the operands are patterns (R112). -/
def Format.minmax (f : Format) (mx : Bool) (x y : Nat) : Rounded :=
  let a := f.value x
  let b := f.value y
  if a.isNan || b.isNan then f.nanResult (a.signalling || b.signalling)
  else
    let less := a.lt b || (a.eq b && a.sign && !b.sign)
    ⟨if less != mx then x else y, 0, false⟩

/-- The relations of the float compares (R114; 06_vector.md R176). -/
inductive FRel where
  | eq | ne | lt | le | gt | ge | un
deriving DecidableEq, Repr

/-- Does the relation hold? `ne` and `un` hold of an unordered pair, the others do not (R114; 06_vector.md R176). -/
def FRel.holds (r : FRel) (a b : Num) : Bool :=
  let un := a.isNan || b.isNan
  match r with
  | .eq => !un && a.eq b
  | .ne => un || !a.eq b
  | .lt => !un && a.lt b
  | .le => !un && !b.lt a
  | .gt => !un && b.lt a
  | .ge => !un && !a.lt b
  | .un => un

/-- NV of a compare: any signalling NaN; any NaN for the ordering relations (R114; 06_vector.md R176). -/
def FRel.flags (r : FRel) (a b : Num) : Flags :=
  let ordering := match r with
    | .lt | .le | .gt | .ge => true
    | .eq | .ne | .un => false
  flagIf (a.signalling || b.signalling || (ordering && (a.isNan || b.isNan))) flagNV

/-- A result that may instead trap with CONVOVF: `none` is the trap (R51, R54). -/
abbrev Converted := Option (Nat × Flags)

/-- What an overflow delivers to a float destination under a policy (R51). -/
def Format.overflow (f : Format) (ovp : Ovp) (neg : Bool) : Converted :=
  match ovp with
  | .sat => some (f.signed neg f.largest, flagOF ||| flagNX ||| flagSAT)
  | .inf => some (if f.hasInf then f.signed neg f.infinity else f.nan, flagOF ||| flagNX)
  | .nan => some (f.nan, flagOF ||| flagNX)
  | .trap => none

/-- Conversion of a float to a float format under a policy (R50 to R53). -/
def Format.convert (f : Format) (ovp : Ovp) (x : Num) : Converted :=
  match x with
  | .nan s => some (f.nan, flagIf s flagNV)
  | .inf s => if f.hasInf then some (f.signed s f.infinity, 0) else f.overflow ovp s
  | .fin s m e =>
    if m = 0 then some (f.signed s 0, 0)
    else
      let r := f.round s m e false
      if r.overflow then f.overflow ovp s else some (r.bits, r.flags)

/-- Least and greatest value of an integer type of a width (R37). -/
def intBounds (uns : Bool) (w : Nat) : Int × Int :=
  if uns then (0, 2 ^ w - 1) else (-(2 ^ (w - 1)), 2 ^ (w - 1) - 1)

/-- An integer clamped to its type, with NV and SAT; `none` is the trap of policy 11 (R51, R52). -/
def clampInt (ovp : Ovp) (uns : Bool) (w : Nat) (v : Int) : Converted :=
  let (lo, hi) := intBounds uns w
  if lo ≤ v ∧ v ≤ hi then some (ofSigned w v, 0)
  else if ovp = .trap then none
  else some (ofSigned w (if v < lo then lo else hi), flagNV ||| flagSAT)

/-- Conversion of a float to an integer type, by RNE or with `rtz` towards zero (R45, R52, R53). -/
def convertToInt (ovp : Ovp) (rtz uns : Bool) (w : Nat) (x : Num) : Converted :=
  match x with
  | .nan _ => if ovp = .trap then none else some (0, flagNV)
  | .inf s =>
    if ovp = .trap then none
    else
      let (lo, hi) := intBounds uns w
      some (ofSigned w (if s then lo else hi), flagNV ||| flagSAT)
  | .fin s m e =>
    let mag := if rtz then (m <<< e.toNat) >>> (-e).toNat else (roundAt m e 0 false).1
    clampInt ovp uns w (if s then -(mag : Int) else mag)

/-- An integer as an exact value (R55). -/
def Num.ofInt (v : Int) : Num := .fin (v < 0) v.natAbs 0

/-- Conversion of an integer to a float format (R50, R55). -/
def Format.ofInt (f : Format) (ovp : Ovp) (v : Int) : Converted := f.convert ovp (Num.ofInt v)

/-- The levels of GQ4 (R39). -/
def gq4Level (n : Nat) : Int :=
  [-1024, -705, -531, -400, -290, -190, -94, 0, 82, 166, 254, 348, 452, 573, 730, 1024].getD n 0

/-- The FP32 value of a GQ4 element of code `n`, block scale `s` and superblock scale pattern `sc` (R42). -/
def gq4Decode (n s sc : Nat) : Nat :=
  let p := gq4Level n * s
  if p = 0 then 0
  else
    let t := Format.mul .f32 (Format.value .f32 sc) (Num.ofInt p)
    (Format.mul .f32 (Format.value .f32 t.bits) (.fin false 1 (-18))).bits

/-- The fixed binary tree of R61 over a list whose length is a power of two, `n` levels deep. -/
def treeReduce {α : Type} (op : α → α → α) : Nat → List α → List α
  | 0, xs => xs
  | n + 1, xs => treeReduce op n (pairs xs)
where
  /-- Neighbours combined. -/
  pairs : List α → List α
    | a :: b :: rest => op a b :: pairs rest
    | rest => rest

/-- A list reduced by the tree of R61. -/
def treeOf {α : Type} (op : α → α → α) (d : α) (xs : List α) : α :=
  (treeReduce op (xs.length.log2) xs).headD d

/-- `REDX` of an FP32 pattern under region exponent `ex`: the integer and NX, or the trap (R59). -/
def fixedOf (x : Nat) (ex : Int) : Converted :=
  match Format.value .f32 x with
  | .nan _ => none
  | .inf _ => none
  | .fin s m e =>
    let (q, inexact) := roundAt m (e - ex) 0 false
    let v : Int := if s then -(q : Int) else q
    if -(2 ^ 63) ≤ v ∧ v < 2 ^ 63 then some (ofSigned 64 v, flagIf inexact flagNX) else none

end Sys2Proof.Machine
end

