-- ==== Sys2Proof/Machine/Operands.lean ====
section
/-! DEFINITION. Operand forms: immediates, offsets, sizes, scopes, and the new value of a combining write. -/

namespace Sys2Proof.Machine

/-- A signed immediate (03_encoding.md R70). -/
def sext {w : Nat} (x : BitVec w) : Word := x.signExtend 64

/-- An unsigned immediate (03_encoding.md R70). -/
def zext {w : Nat} (x : BitVec w) : Word := x.zeroExtend 64

/-- The immediate of an instruction that a `LIMM` supplies with bits 41:16 (03_encoding.md R71). -/
def longImm (hi : BitVec 26) (lo : BitVec 16) : BitVec 42 := hi ++ lo

/-- Bytes of an access size. -/
def sizeBytes : Size → Nat
  | .b => 1 | .h => 2 | .w => 4 | .d => 8

/-- Bytes of an atomic. -/
def amoBytes : AmoSize → Nat
  | .w => 4 | .d => 8

/-- Bits of an element width. -/
def widthBits : Width → Nat
  | .w32 => 32 | .w16 => 16 | .w8 => 8

/-- Effective address of a scalar access: base and scaled offset, wrapping (09_memory.md R255). -/
def effective {w : Nat} (base : Word) (off : BitVec w) (z : Nat) : Word := base + sext off * BitVec.ofNat 64 z

/-- The new value of a combining write and the flags that a returning form raises, from the old value `m` and the
operand `v`, each below two to the width (10_atomics.md R274, R277, R278). -/
def amoNew (op : AmoOp) (z : AmoSize) (m v : Nat) : Nat × Flags :=
  let w := 8 * amoBytes z
  let lt := if toSigned w m < toSigned w v then true else false
  match op with
  | .add => ((m + v) % 2 ^ w, 0)
  | .and => (m &&& v, 0)
  | .or => (m ||| v, 0)
  | .xor => (m ^^^ v, 0)
  | .minI => (if lt then m else v, 0)
  | .maxI => (if lt then v else m, 0)
  | .minN => (min m v, 0)
  | .maxN => (max m v, 0)
  | .swap | .cas => (v, 0)
  | .fadd => let r := Format.add .f32 (Format.value .f32 m) (Format.value .f32 v); (r.bits, r.flags)
  | .fmin => let r := Format.minmax .f32 false m v; (r.bits, r.flags)
  | .fmax => let r := Format.minmax .f32 true m v; (r.bits, r.flags)

/-- The value that a returning atomic writes to its destination (10_atomics.md R275). -/
def amoWiden (op : AmoOp) (z : AmoSize) (m : Nat) : Word :=
  match op, z with
  | .minI, .w | .maxI, .w => BitVec.ofInt 64 (toSigned 32 m)
  | _, _ => BitVec.ofNat 64 m

end Sys2Proof.Machine
end

