-- ==== Sys2Proof/Machine/State.lean ====
section
/-! DEFINITION. The state of one package as plain data, the reasons a run can stop, and the state after reset. -/

namespace Sys2Proof.Machine

/-- Why the machine stops with a fault. -/
inductive Fault where
  /-- An instruction of a task was asked for on a core that runs no task. `step` never asks for one; only a direct use
  of `exec` can. Safe: nothing is proved of a run that stops. -/
  | noRunningTask
deriving DecidableEq, Repr

/-- Why the model gives no meaning. -/
inductive Refusal where
  /-- An instruction without a meaning in this model. Raised by the arms of `exec` that say so. Safe. -/
  | notModelled (mnemonic : String)
deriving DecidableEq, Repr

/-- The outcome of a step of this machine. -/
abbrev Out (σ : Type) := Host.Outcome σ Fault Refusal

/-- Park kinds (05_tasks.md R129). -/
inductive ParkKind where
  | remote | chain | fault | dep | mbox
deriving DecidableEq, Repr

/-- States of an occupied slot; FREE is the absence of a task and HELD is read from its core and quad
(05_tasks.md R128). -/
inductive Status where
  | ready | running | ending
  | parked (k : ParkKind)
deriving DecidableEq, Repr

/-- Where a queue entry stands in the four dispatch steps (05_tasks.md R122). -/
inductive EntryState where
  /-- In its queue, free to be chosen. -/
  | queued
  /-- Set aside: DEPCNT of the record at this physical address of this package is not zero. -/
  | blocked (pkg pa : Nat)
  /-- Waits for the service of record reads or lease pages; the count is of entries not yet serviced. -/
  | waiting (n : Nat)
deriving DecidableEq, Repr

/-- A task queue entry: what the device captured of the record, and what the task receives from its spawner
(05_tasks.md R121, R127). -/
structure QEntry where
  age : Nat
  state : EntryState := .queued
  /-- The record of a root task has not been read yet (09_memory.md R449). -/
  unread : Bool := false
  /-- A respawn by replay, whose record's SEQ is not checked (05_tasks.md R119). -/
  respawn : Bool := false
  /-- The entry of a launch's root task or of a respawn, which no `TSPAWN` made. -/
  root : Bool := false
  record : Word
  ctxid : Nat
  launch : BitVec 32
  prio : Nat
  pc : Word
  ranges : List Range
  args : List Word
  aff : Option Nat
  seq : Word
  phase : Nat
  bar : Nat
  domain : Nat
  ag : Nat
  /-- The binding die of the entry, whose lease pages are resident (05_tasks.md R122). -/
  leased : Bool := false
deriving DecidableEq, Repr

/-- What a parked task, or a task whose issue is stalled, waits for (05_tasks.md R129). -/
inductive Wait where
  /-- Nothing. -/
  | none
  /-- The reply of a remote load into `g`d, zero-extended, where its bytes stand in an overlay, and whether it acquires
  (09_memory.md R253; 11_order.md R288). -/
  | load (d : GReg) (key bytes : Nat) (acq : Option Scope)
  /-- The reply of a far returning atomic: destination, operation, operand, comparand, address, whether it acquires, and
  the mark that its domain gets if it writes (10_atomics.md R273, R275; 11_order.md R288). -/
  | atomic (d : GReg) (op : AmoOp) (z : AmoSize) (v c a : Word) (acq : Option Scope) (mark : Option Nat)
  /-- Service of a fault; the access is then made again (09_memory.md R250). -/
  | service
  /-- The replies to remote reads that the instruction needs (09_memory.md R253). -/
  | reads
  /-- `WAIT` with its five limits (05_tasks.md R145). -/
  | counters (ld st cp mx fb : Nat)
  /-- Room in a task queue of a die, for the entry that enters it then (05_tasks.md R139). -/
  | queue (die : Nat) (e : QEntry)
  /-- A copy watermark (12_copy.md R314). -/
  | watermark (address bytes : Nat)
  /-- The copy that it cancelled: its channel and serial number (12_copy.md R316). -/
  | cancelled (channel serial : Nat)
  /-- The commit of a domain (14_containment.md R363). -/
  | domain (dom : Nat)
  /-- Reclamation of an allocation generation (14_containment.md R375). -/
  | generation (g : Nat)
  /-- Completion of a capability change (14_containment.md R352). -/
  | capChange
  /-- The claim of a slice in another package (14_containment.md R374). -/
  | claim
  /-- A capability entry fetched from another package (14_containment.md R348). -/
  | capFetch (page : Nat)
  /-- A domain id drawn from another package (14_containment.md R357). -/
  | idDraw
  /-- The rebuilding of a protected line (15_faults.md R402). -/
  | rebuild (line : Nat)
  /-- The other members of the gang, one of which is parked (05_tasks.md R150). -/
  | members
  /-- Service of the faults of its queued vector and matrix instructions (07_scratchpad.md R198). -/
  | unit
  /-- Completion of `TLBINV` over several packages (15_faults.md R391). -/
  | tlbinv
  /-- The gang's other members (05_tasks.md R149). -/
  | gang (n order : Nat)
  /-- The end of a phase at a scope (05_tasks.md R153). -/
  | phase (sc : Scope) (number : Nat)
  /-- The barrier at which the task has arrived (11_order.md R292). -/
  | barrier
  /-- A count of an event line, and the age of the stall (11_order.md R301). -/
  | event (n age : Nat)
  /-- A mailbox message in the ring at an address, for the buffer and the status register (07_scratchpad.md R209). -/
  | mailbox (ring : Word)
  /-- A chain (09_memory.md R264). -/
  | chain
deriving DecidableEq, Repr

/-- One lane of a chain: the point it resumes from, its result once it has stopped, its fault counts
(09_memory.md R265, R266, R269). -/
structure Lane where
  lane : Nat
  k : Nat := 0
  x : Word := 0
  final : Bool := false
  ended : Bool := false
  result : Word := 0
  stop : BitVec 3 := 0
  done : Nat := 0
  nfault : Nat := 0
  fv : Bool := false
  fstep : Nat := 0
deriving DecidableEq, Repr

/-- Where a chain's results go: `CLD` to a pair of `g` registers, `VCLD` to a pair of vector registers. -/
inductive ChainDest where
  | scalar (d : GReg)
  | vector (d : VReg)
deriving DecidableEq, Repr

/-- The chain record of a slot (09_memory.md R269). -/
structure ChainRec where
  dest : ChainDest
  steps : List Word
  lanes : List Lane
deriving DecidableEq, Repr

/-- A REP frame: the captured words, the point (i, j), whether it runs now or waits for an `ERET` to its address
(05_tasks.md R146 to R148). -/
structure Frame where
  addr : Word
  words : List IWord
  smask : BitVec 4
  stag : BitVec 5
  count : Nat
  i : Nat
  j : Nat
  active : Bool
deriving DecidableEq, Repr

/-- A word of a gang leader's stream, with the follower of a `LIMM` and where the leader goes on: its next address and
its frame (05_tasks.md R150). -/
structure Beat where
  word : IWord
  follower : Option IWord
  pc : Word
  rep : Option Frame
deriving DecidableEq, Repr

/-- Membership of a gang: the leader's task and the members; a follower holds the words of the leader's stream it has
not executed (05_tasks.md R150). -/
structure Gang where
  leader : Nat
  members : List Nat
  stream : List Beat
deriving DecidableEq, Repr

/-- Role of a task of a DUAL domain (14_containment.md R370). -/
inductive Dual where
  | single
  | primary (pair : Nat)
  | shadow (pair : Nat)
deriving DecidableEq, Repr

/-- An arrival at a barrier that its task has not gone on from: its scope, the id of an explicit barrier, and whether the
barrier is complete (11_order.md R292 to R294). -/
structure Arrival where
  scope : Scope
  id : Option Nat
  done : Bool
deriving DecidableEq, Repr

/-- Kinds of a domain's ranges (03_encoding.md R96). -/
inductive RangeKind where
  | frozen | copied | owned
deriving DecidableEq, Repr

/-- A range of a domain record. -/
structure DomRange where
  kind : RangeKind
  base : Nat
  len : Nat
deriving DecidableEq, Repr

/-- What a well-formed task record says (05_tasks.md R118). -/
structure TaskRecord where
  pc : Word
  table : Word
  args : List Word
  depcnt : Nat
  prio : Nat
  aff : Option Nat
  seq : Nat
deriving DecidableEq, Repr

/-- What a domain record says (03_encoding.md R96). -/
structure DomRecord where
  root : Word
  parent : Word
  save : Word
  budget : Nat
  dual : Bool
  ranges : List DomRange
deriving DecidableEq, Repr

/-- A domain that is opened once its capability moves are complete: its record, its root's record, range table and SEQ
location, its parent, depth and id (14_containment.md R360). -/
structure OpenPlan where
  record : Word
  dom : DomRecord
  root : TaskRecord
  ranges : List Range
  pkg : Nat
  pa : Nat
  leaf : Nat
  parent : Nat
  depth : Nat
  id : Nat
  /-- Escalation target of the issuer's own domain once SEQ is written (14_containment.md R350). -/
  esc : Nat
deriving DecidableEq, Repr

/-- A release: its scope, and the number of releases before the last access that it covers (11_order.md R288, R291). -/
structure Release where
  scope : Scope
  upTo : Nat
deriving DecidableEq, Repr

/-- A task bound to a slot or spilled (05_tasks.md R127, R131). -/
structure Task where
  uid : Nat
  sid : Nat
  spilled : Bool := false
  status : Status := .ready
  wait : Wait := .none
  order : Nat := 0
  unreported : Bool := false
  g : Vector Word 32 := Vector.replicate 32 0
  p : BitVec 8 := 1
  pc : Word := 0
  fsr : BitVec 6 := 0
  trapv : Word := 0
  epc : Word := 0
  cause : BitVec 8 := 0
  hnd : Bool := false
  taskrec : Word := 0
  hintdrop : Word := 0
  ctxid : Nat := 0
  launchkey : Word := 0
  det : Bool := false
  nomix : Bool := false
  launchid : BitVec 32 := 0
  ld : Nat := 0
  st : Nat := 0
  cp : Nat := 0
  mx : Nat := 0
  fb : Nat := 0
  rep : Option Frame := none
  gang : Option Gang := none
  chain : Option ChainRec := none
  /-- A domain id drawn from another package and not yet used (14_containment.md R357). -/
  drawn : Option Nat := none
  /-- The domain that a `DOMOPEN` has begun to open. -/
  plan : Option OpenPlan := none
  phase : Nat := 0
  bar : Nat := 0
  arrival : Option Arrival := none
  ordinal : Nat := 0
  seq : Word := 0
  domain : Nat := 0
  ag : Nat := 0
  aoff : Nat := 64
  claimed : Bool := false
  ranges : List Range := []
  prio : Nat := 0
  dual : Dual := .single
  /-- Returning atomics issued, and the results of a primary's: value, flags, term of the sum (R370, R371). -/
  atomics : Nat := 0
  /-- Event lines and explicit barriers passed, which a shadow passes behind its primary (R370; log entry 93). -/
  events : Nat := 0
  results : List (Word × BitVec 6 × Word) := []
  overlay : List Host.Cell := []
  sum : Word := 0
  /-- Of a shadow: what its primary, which has ended, added to its domain's total (14_containment.md R371). -/
  peerSum : Word := 0
  /-- From which point of `State.past` on its loads may be performed, and for single bytes (11_order.md R287, R290). -/
  floor : Nat := 0
  seen : Table Nat := []
  /-- The writes that its loads have read from, as points of `State.past`, for a later `FENCE.acq` (R291). -/
  sources : List Nat := []
  /-- What its vector, matrix and chain loads have read, as address, bytes and point in `State.past`, for a later `WAIT`
  (07_scratchpad.md R189). -/
  reads : List (Nat × Nat × Nat) := []
  /-- How many releases it has issued, and those that its later stores are after a `FENCE.rel` (11_order.md R288, R291). -/
  rels : Nat := 0
  fence : List Release := []
deriving DecidableEq, Repr

/-- What services a fault entry, or what a waiting fault belongs to (15_faults.md R385, R387). -/
inductive FaultTarget where
  /-- An access of a task, made again by executing its instruction again. -/
  | task (uid : Nat)
  /-- Lanes of a task's chain (09_memory.md R265, R267). -/
  | lanes (uid : Nat) (lanes : List Nat)
  /-- A memory instruction in a core's vector queue (07_scratchpad.md R198). -/
  | vector (core entry : Nat)
  /-- A matrix memory instruction of a core (08_matrix.md R213). -/
  | matrix (core entry : Nat)
  /-- Sectors of a copy (12_copy.md R310). -/
  | copy (core ch serial : Nat)
  /-- A lease page of a queue entry of a die (09_memory.md R248). -/
  | lease (die age : Nat)
  /-- A record read made for a queue entry (09_memory.md R449). -/
  | record (die age : Nat)
  /-- A record read made at admission of a launch (09_memory.md R449). -/
  | launch (id : BitVec 32)
  /-- A driver notice (15_faults.md R389). -/
  | notice
deriving DecidableEq, Repr

/-- A fault-buffer entry; INDEX is its key in the die's table (15_faults.md R386). -/
structure FaultEntry where
  target : FaultTarget
  part : Nat
  ctxid : Nat
  sid : Nat
  vaddr : Word
  record : Word
  cause : BitVec 8
  kind : BitVec 4 := 0
  acc : BitVec 4 := 0
  unrep : Bool := false
  void : Bool := false
  ch : BitVec 3 := 0
  final : Bool := false
  step : BitVec 4 := 0
  why : BitVec 8 := 0
  level : BitVec 2 := 0
  note : BitVec 16 := 0
  age : Nat := 0
  read : Bool := false
deriving DecidableEq, Repr

/-- The span of a launch between admission and its final event (01_machine.md R25, R26). -/
inductive LaunchStage where
  /-- Step 1 or 2 of R26 has not succeeded yet. -/
  | opening
  /-- The root task is queued or the launch's tasks run. -/
  | running
  /-- DONE is posted. -/
  | done
  /-- CLEARED or FAILED is posted. -/
  | final
deriving DecidableEq, Repr

/-- An admitted launch (01_machine.md R23 to R31). -/
structure Launch where
  part : Nat
  ctx : Nat
  id : BitVec 32
  tag : BitVec 32
  key : Word
  det : Bool
  nomix : Bool
  root : Word
  domrec : Word
  rootDie : Nat
  /-- ROOTDIE was 0xF: no die is chosen before step 2 (09_memory.md R449). -/
  anyDie : Bool
  prio : Nat
  outer : Nat := 0
  stage : LaunchStage := .opening
  /-- Fault entries of record reads of admission that are not serviced yet (09_memory.md R449). -/
  held : Nat := 0
  /-- The id drawn from another package for its outer domain, and whether it was asked for (14_containment.md R357). -/
  drawn : Option Nat := none
  asked : Bool := false
  /-- The outer domain that is being opened, with its id (01_machine.md R26 step 1). -/
  plan : Option (DomRecord × Nat) := none
  /-- Allocation generations reclaimed (14_containment.md R375). -/
  reclaimed : Nat := 0
  /-- Dies on which its tasks in no domain have issued instructions (01_machine.md R31). -/
  dies : List Nat := []
deriving DecidableEq, Repr

/-- A completion record waiting to be posted (01_machine.md R28). -/
structure Post where
  part : Nat
  ctx : Nat
  eslot : Nat
  cause : BitVec 8
  status : BitVec 8
  event : BitVec 8
  tag : BitVec 32
  launch : BitVec 32
deriving DecidableEq, Repr

/-- States of a domain; a freed table entry is the absence of a domain (14_containment.md R358). -/
inductive DomState where
  | provisional | committed | cleared | discarded
deriving DecidableEq, Repr

/-- A logged capability move: its age, page, old and new holder (14_containment.md R353, R366). -/
structure Move where
  age : Nat
  page : Nat
  old : Nat
  new : Nat
deriving DecidableEq, Repr

/-- A domain of the domain table (14_containment.md R357 to R371). -/
structure Dom where
  id : Nat
  ctxid : Nat
  launch : BitVec 32
  record : Word
  parent : Nat
  depth : Nat
  state : DomState := .provisional
  /-- The escalation target; 0 is NONE. -/
  esc : Nat
  replays : Nat
  ranges : List DomRange
  save : Nat
  snapshot : Bool
  root : Word
  rootDie : Nat
  rootPrio : Nat
  rootSeq : Word
  rootPhase : Nat
  rootBar : Nat
  rootAg : Nat
  moves : List Move := []
  /-- Pages whose capability this domain holds. -/
  pages : List Nat := []
  dual : Bool := false
  healthyOnly : Bool := false
  /-- A replay waits for its copied inputs to be read back (14_containment.md R366 step 4). -/
  restoring : Bool := false
  /-- The parity deltas of its copied inputs have been sent (12_copy.md R320). -/
  sent : Bool := false
  /-- A replay waits for the moves of its tree to be undone (14_containment.md R366 step 3). -/
  undoing : Bool := false
  /-- A DISCARDED domain whose frozen counts are still to be removed (14_containment.md R366 step 2). -/
  held : Bool := false
  /-- It has committed before: it commits again by itself after a replay (01_machine.md R30). -/
  closed : Bool := false
  /-- Dies on which its tasks have issued instructions (01_machine.md R31, 15_faults.md R401). -/
  dies : List Nat := []
  primarySum : Word := 0
  shadowSum : Word := 0
deriving DecidableEq, Repr

/-- Who last wrote a tile row, the latch or a line of memory (08_matrix.md R211, 07_scratchpad.md R188). -/
structure Owner where
  domain : Nat
  ctxid : Nat
  launch : BitVec 32
deriving DecidableEq, Repr

/-- The owner tag of a line: none, the host tag, or the domain (0: none) and launch of the writer
(07_scratchpad.md R188, 15_faults.md R397). -/
inductive Tag where
  | clean | host
  | work (o : Owner)
deriving DecidableEq, Repr

/-- The class of R143 that an operation is counted in. -/
inductive Class where
  | none | ld | st | cp | mx | fb
deriving DecidableEq, Repr

/-- A plain store or reduction on its way to its home (09_memory.md R256, 10_atomics.md R279, R280). In `State.wait`
it is in a store buffer or between buffer and home; in `State.queued` its home's write queue has accepted it. -/
structure Request where
  who : Who
  /-- Requester index (10_atomics.md R280). -/
  index : Nat
  pa : Nat
  op : HomeOp
  /-- The class of its task that it is counted in, and the operation it belongs to (05_tasks.md R143). -/
  cls : Class
  /-- The owner tag its write leaves; `none` leaves the tag as it is. -/
  tag : Option Tag
  tally : Nat
  /-- The releases that a store or reduction is, and how many releases its task had issued before (11_order.md R288,
  R291). -/
  rel : List Release := []
  epoch : Nat := 0
deriving DecidableEq, Repr

/-- A stream binding (07_scratchpad.md R190 to R194): pattern, direction, vectors passed through the instruction side
(`pos`) and through the transfer unit (`moved`), and the vectors buffered between them. -/
structure Stream where
  base : Nat
  cnt : Vector Nat 3
  str : Vector Int 3
  output : Bool
  beyond : Bool := false
  pos : Nat := 0
  moved : Nat := 0
  buffer : List VWord := []
  /-- Owner tags that the buffered vectors of an output stream leave (07_scratchpad.md R188). -/
  tags : List Tag := []
  /-- Serials of the instructions that produced the buffered vectors of an output stream (08_matrix.md R231). -/
  serials : List Nat := []
deriving DecidableEq, Repr

/-- An instruction in a core's vector queue, with the `g` values it read at push (06_vector.md R159; 07_scratchpad.md
R198, R200). -/
structure VEntry where
  serial : Nat
  instr : Instr
  uid : Nat
  part : Nat
  x : Word := 0
  y : Word := 0
  z : Word := 0
  quarters : Nat
  started : Bool := false
  cls : Class := .none
  /-- Fault entries not yet serviced (07_scratchpad.md R198). -/
  pending : Nat := 0
  /-- Flags and counts are dropped: the task was discarded (06_vector.md R167). -/
  dropped : Bool := false
  /-- Pages whose capability entry was asked for (14_containment.md R348). -/
  asked : List Nat := []
  /-- Issue of its task waits for it: a `VCVT` of policy 11 or a `VSTZ` (06_vector.md R175, 07_scratchpad.md R202). -/
  sync : Bool := false
  /-- The capacity that a `VSTZ` has read (07_scratchpad.md R202). -/
  capacity : Option Nat := none
  /-- The descriptor that `QBIND` read (07_scratchpad.md R191). -/
  bind : Option Stream := none
  /-- The task that issued it, once that task has ended and left its slot (05_tasks.md R142, 13_fabric.md R344). -/
  issuer : Option Task := none
  /-- It reads or writes bytes homed in another package (13_fabric.md R328, R331). -/
  far : Bool := false
deriving DecidableEq, Repr

/-- An instruction in a core's matrix queue, with the `g` values it read at issue: K-steps done of an `MMA`, the owner
that its writes leave, whether issue of its task waits for it (08_matrix.md R211 to R214, R224, R229). -/
structure MEntry where
  serial : Nat
  instr : Instr
  uid : Nat
  part : Nat
  owner : Owner
  x : Word := 0
  y : Word := 0
  z : Word := 0
  steps : Nat := 0
  pending : Nat := 0
  asked : List Nat := []
  dropped : Bool := false
  /-- The snapshot is on the link (08_matrix.md R220). -/
  placed : Bool := false
  sync : Bool := false
  /-- Flags gathered so far, which the task gets at completion (02_numbers.md R48). -/
  flags : BitVec 6 := 0
  /-- The task that issued it, once that task has been discarded (08_matrix.md R232). -/
  issuer : Option Task := none
  /-- It reads or writes bytes homed in another package (13_fabric.md R328). -/
  far : Bool := false
  /-- An `MST` has converted its tile and handed over its writes, which are still to be made (08_matrix.md R224). -/
  stored : Bool := false
deriving DecidableEq, Repr

/-- An accumulator tile: 64 rows of 64 elements of 32 bits, checksums, valid bit and owners (08_matrix.md R211). A row
not listed is zero; `bad` lists the rows whose parity does not fit, and `badSums` says whether that of CR or CC does not
(08_matrix.md R230, 15_faults.md R393). -/
structure Tile where
  rows : Table VWord := []
  cr : VWord := 0
  cc : VWord := 0
  cv : Bool := false
  owners : List (Nat × Owner) := []
  bad : List Nat := []
  badSums : Bool := false
deriving DecidableEq, Repr

/-- A B latch: its bytes, block scales, superblock scale and owner, and the rows whose parity does not fit
(08_matrix.md R211, R219, R220, R230). -/
structure Latch where
  data : List Byte := []
  scales : List Byte := []
  scale : BitVec 32 := 0
  owner : Option Owner := none
  bad : List Nat := []
deriving DecidableEq, Repr

/-- A core context of the matrix unit (08_matrix.md R211). -/
structure MatCtx where
  word : Word := 0
  writer : Option Nat := none
  tiles : Vector Tile 4 := Vector.replicate 4 (Tile.mk [] 0 0 false [] [] false)
  latch : Latch := Latch.mk [] [] 0 none []
  prog : List (BitVec 32) := []
  bsa : Word := 0
  ssa : Word := 0
deriving DecidableEq, Repr

/-- A send entry of a core (07_scratchpad.md R206 to R208). -/
structure SendEntry where
  who : Who
  ring : Nat
  payload : List Byte
  order : Nat
  /-- Phase number of its task (11_order.md R295). -/
  phase : Nat := 0
  held : Bool := false
  fullDone : Bool := false
deriving DecidableEq, Repr

/-- How a copy produces its bytes (12_copy.md R308, R309, R319). -/
inductive CopyOp where
  | plain
  /-- Parity by the coefficient: XOR of the scaled source, or of its difference from the old symbol. -/
  | parity (coeff : Byte) (old : Option Nat)
deriving DecidableEq, Repr

/-- A queued copy: rows of bytes from source to destination and how far it has come (12_copy.md R306 to R319). -/
structure Copy where
  serial : Nat
  uid : Nat
  op : CopyOp
  dst : Nat
  src : Nat
  len0 : Nat
  cnt1 : Nat := 1
  cnt2 : Nat := 1
  dstr1 : Int := 0
  sstr1 : Int := 0
  dstr2 : Int := 0
  sstr2 : Int := 0
  /-- Next byte, in copy order, to be attempted. -/
  pos : Nat := 0
  /-- Where a cancelled copy ends, in copy order (12_copy.md R316). -/
  stopAt : Option Nat := none
  /-- Pages whose capability entry was asked for (14_containment.md R348). -/
  asked : List Nat := []
  /-- Sectors that wait for the service of a page: first byte in copy order, length, page. -/
  held : List (Nat × Nat × Nat) := []
  /-- Serviced sectors to be made again. -/
  again : List (Nat × Nat) := []
  /-- The copy was stopped by a pre-emption and restarts once its entries are serviced (12_copy.md R317). -/
  restart : Bool := false
  /-- A sector has been attempted (12_copy.md R316). -/
  begun : Bool := false
deriving DecidableEq, Repr

/-- A copy channel: binding and when it was made, watermark, bytes written beyond it, and queue (12_copy.md R306, R312,
R313). -/
structure CopyChan where
  bound : Option (Nat × Nat) := none
  stamp : Nat := 0
  wm : Nat := 0
  written : List (Nat × Nat) := []
  copies : List Copy := []
deriving DecidableEq, Repr

/-- Something addressed to a core that is pre-empted, drained or in reset, kept in arrival order
(05_tasks.md R133, R155). -/
inductive Diverted where
  | send (entry : SendEntry)
  | wake (uid : Nat)
  /-- A write of a copy or of another package into the core's scratchpad (05_tasks.md R155). -/
  | write (request : Request)
  /-- A copy's sectors up to here are delivered: core, channel and binding whose watermark advances, destination and
  length (12_copy.md R313). -/
  | watermark (core channel stamp address bytes : Nat)
  /-- Chain lanes to be sent again after resumption, and results and fault replies of chains (09_memory.md R269). -/
  | resend (uid : Nat) (lanes : List Nat)
  | chainEnd (m : ChainEnd)
  | chainFault (m : ChainFault)
deriving DecidableEq, Repr

/-- An explicit barrier: its count of participants, arrivals and waiting tasks (11_order.md R294). -/
structure Barrier where
  expected : Nat := 0
  arrived : List Nat := []
deriving DecidableEq, Repr

/-- A core (01_machine.md R16). -/
structure Core where
  running : Option Nat := none
  ready : List Nat := []
  stalled : Bool := false
  preempted : Bool := false
  stopping : Bool := false
  /-- The pre-emption is a partition reset's: no notice, and the device resumes the core (05_tasks.md R156). -/
  quiet : Bool := false
  notices : List Nat := []
  resetting : Bool := false
  hungBefore : Bool := false
  v : Vector VWord 32 := Vector.replicate 32 0
  k : Vector KWord 8 := Vector.replicate 8 0
  q : Vector (Option Stream) 8 := Vector.replicate 8 none
  vq : List VEntry := []
  mq : List MEntry := []
  mctx : MatCtx := MatCtx.mk 0 none (Vector.replicate 4 (Tile.mk [] 0 0 false [] [] false))
    (Latch.mk [] [] 0 none []) [] 0 0
  link : Option Latch := none
  sends : List SendEntry := []
  chans : Vector CopyChan 8 := Vector.replicate 8 (CopyChan.mk none 0 0 [] [])
  diverted : List Diverted := []
  spallot : Word := 0
  barriers : Table Barrier := []
  vtime : BitVec 32 := 0
  mtime : BitVec 32 := 0
  /-- Has the core been eligible for the array since it last was not (08_matrix.md R214)? -/
  mable : Bool := false
  /-- Partition of the most recent head of the vector queue (06_vector.md R161). -/
  lastPart : Option Nat := none
  /-- `CYCLE` as last read (03_encoding.md R65). -/
  cycle : Word := 0
deriving DecidableEq, Repr

/-- Work of a domain (0: of tasks in no domain) of a launch, in a scan record (14_containment.md R368, R369). -/
structure Work where
  ctxid : Nat
  launch : BitVec 32
  dom : Nat
deriving DecidableEq, Repr

/-- A leaf that a quad's TLBs hold, or under which its L1s hold lines: context, page number in units of the page size,
logarithm of that size, the entry as it was walked (09_memory.md R244, R245). -/
structure CachedLeaf where
  ctxid : Nat
  page : Nat
  shift : Nat
  entry : Nat
deriving DecidableEq, Repr

/-- A quad (01_machine.md R16). -/
structure Quad where
  lines : Vector (BitVec 16) 32 := Vector.replicate 32 0
  evallot : BitVec 128 := 0
  barriers : Table Barrier := []
  drained : Bool := false
  quarantined : Bool := false
  release : Bool := false
  /-- The work whose tasks issued an instruction here since the last passing scan began. -/
  ran : List Work := []
  /-- Capability entries fetched from another package: context, page, entry (14_containment.md R348). -/
  caps : List (Nat × Nat × Word) := []
  /-- Leaves that the first-level TLBs and L1s of its cores and the quad TLB may hold (09_memory.md R244, R245). -/
  tlb : List CachedLeaf := []
  vcycle : Nat := 0
  /-- The smallest active virtual time of the vector unit as last seen (06_vector.md R162, 05_tasks.md R123). -/
  vlow : BitVec 32 := 0
  /-- The smallest active virtual time of the array as last seen (08_matrix.md R214, 05_tasks.md R123). -/
  mlow : BitVec 32 := 0
  /-- Cycles for which lane groups stay with a quarter of a division or square root (06_vector.md R160). -/
  busy : List Nat := []
  mgrant : Nat := 0
deriving DecidableEq, Repr

/-- A logical die (01_machine.md R16). -/
structure Die where
  queue : List QEntry := []
  vtime : Table (BitVec 32) := []
  active : List Nat := []
  /-- The smallest active virtual time as last seen (05_tasks.md R123). -/
  low : BitVec 32 := 0
  /-- Bindings of each partition by this die's scheduler (05_tasks.md R124; log entry 77). -/
  bindings : Table Nat := []
  entries : Table FaultEntry := []
  unreported : List FaultEntry := []
  latch : Table (List Byte) := []
  ovfcnt : BitVec 32 := 0
  corrected : Word := 0
  mrallot : BitVec 128 := 0
  barriers : Table Barrier := []
  engineNext : Table Nat := []
  inReset : Bool := false
deriving DecidableEq, Repr

/-- A partition (16_system.md R410 to R413). -/
structure Part where
  resetting : Bool := false
  /-- How far a reset has come: 0 its cores are being pre-empted, 1 its tasks are discarded, 2 its state is cleared
  (16_system.md R414). -/
  resetStep : Nat := 0
  en : Bool := false
  pqos : Word := 0x01010101
  qarea : Word := 0
  pqarea : Word := 0
  savearea : Word := 0
  spillarea : Word := 0
  domarea : Word := 0
  launchNext : BitVec 32 := 1
  rotation : Nat := 0
  epoch : BitVec 4 := 0
  packages : List Nat := []
  barriers : Table Barrier := []
  /-- Stalls on an absent area for which vector 4 was raised: the area's register and what stalls (16_system.md R412,
  R417). -/
  noted : List (Nat × Nat) := []
  /-- What the driver's last load through its window returned (15_faults.md R390, 16_system.md R411). -/
  lastRead : Word := 0
  masked : BitVec 5 := 0
  pending : BitVec 5 := 0
  /-- Interrupts sent, by vector. -/
  sent : Table Nat := []
deriving DecidableEq, Repr

/-- A context block (16_system.md R418). -/
structure Ctx where
  lqbase : Word := 0
  lqsize : Word := 0
  lqtail : Word := 0
  lqhead : Word := 0
  cqbase : Word := 0
  cqsize : Word := 0
  cqhead : Word := 0
  cqtail : Word := 0
  ptroot : Word := 0
  caproot : Word := 0
  stkbase : Word := 0
  stklen : Word := 0
  arbase : Word := 0
  arlen : Word := 0
  alloccfg : Word := 0
  perm : Word := 0
  nextDom : Nat := 1
  liveIds : List Nat := []
deriving DecidableEq, Repr

/-- Open state of a channel (13_fabric.md R339). -/
structure ChanOpen where
  ctxid : Nat
  role : BitVec 2
  tmo : Nat
deriving DecidableEq, Repr

/-- An entry of a contribution log: a domain (0: none) and launch that wrote in an epoch (13_fabric.md R336). -/
structure Contribution where
  flags : Nat
  ctxid : Nat
  dom : Nat
  launch : BitVec 32
deriving DecidableEq, Repr

/-- The base of a domain on a channel and destination (13_fabric.md R336). -/
structure Base where
  ctxid : Nat
  dom : Nat
  sent : BitVec 32
  flags : Nat
  /-- It has written there, and not only sent a flag. -/
  wrote : Bool := true
deriving DecidableEq, Repr

/-- Sender's state of a channel and destination (13_fabric.md R330, R336, R337). -/
structure SendPair where
  sent : BitVec 32 := 0
  gen : BitVec 8 := 0
  /-- Flags sent, of which EP is the low byte. -/
  flags : Nat := 0
  log : List Contribution := []
  bases : List Base := []
  resync : Bool := false
  /-- SENT and EP of the outstanding RESYNC. -/
  base : BitVec 32 × BitVec 8 := (0, 0)
deriving DecidableEq, Repr

/-- Receiver's state of a channel and source (13_fabric.md R330). -/
structure RecvPair where
  d : BitVec 32 := 0
  gen : BitVec 8 := 0
  ep : BitVec 8 := 0
  pend : Table (BitVec 32) := []
  stalled : Bool := false
  /-- Epoch and COUNT of the flag of the last STALL (13_fabric.md R335). -/
  last : BitVec 8 × BitVec 32 := (0, 0)
deriving DecidableEq, Repr

/-- A flag held or spilled at its receiver (13_fabric.md R332, R334). -/
structure HeldFlag where
  src : Nat
  flag : FlagMsg
  age : Nat
  /-- Its timer has expired (13_fabric.md R335). -/
  expired : Bool := false
deriving DecidableEq, Repr

/-- A message ready for the fabric (13_fabric.md R324). -/
structure OutMsg where
  dst : Nat
  who : Who
  msg : Msg
  /-- The class of its issuer that it is counted in (05_tasks.md R143) and the operation it belongs to. -/
  cls : Class := .none
  op : Nat := 0
deriving DecidableEq, Repr

/-- A flit: its messages, with the peer it was sent to and its destination (13_fabric.md R324 to R326). -/
structure Flit where
  port : Nat
  peer : Nat
  dst : Nat
  seq : BitVec 32
  parcels : List Parcel
  /-- Parity supplements sent for it. -/
  sups : Nat := 0
deriving DecidableEq, Repr

/-- A burst held for another destination: the package that handed it over with the number of its flit
(13_fabric.md R325, R327). -/
structure Burst where
  dst : Nat
  from_ : Nat
  seq : BitVec 32
  parcels : List Parcel
deriving DecidableEq, Repr

/-- A note for the far end of a hop, or a parity supplement, on its way (13_fabric.md R326, R327). -/
structure LinkMsg where
  peer : Nat
  seq : BitVec 32
  /-- `none` is a parity supplement. -/
  note : Option LinkNote
deriving DecidableEq, Repr

/-- The fabric interface of the package (13_fabric.md). -/
structure Fabric where
  allot : Table Byte := []
  opened : Table ChanOpen := []
  senders : Table SendPair := []
  receivers : Table RecvPair := []
  /-- Held flags, oldest first, and the spilled ones, oldest first. -/
  hold : List HeldFlag := []
  spill : List HeldFlag := []
  out : List OutMsg := []
  /-- Bursts held for another destination. -/
  relay : List Burst := []
  /-- Flits that a relay has acknowledged and not reported as forwarded; notes and supplements to be sent
  (13_fabric.md R326, R327). -/
  handed : List Flit := []
  links : List LinkMsg := []
  slotTable : Table Nat := []
  slotNow : Nat := 0
  /-- Far atomics in flight whose task has been discarded, with its partition (10_atomics.md R284). -/
  stray : List (Nat × Nat) := []
  portsLost : List Nat := []
  rotorsLost : List Nat := []
  nextSeq : Table (BitVec 32) := []
  unacked : List Flit := []
  /-- Flits to be sent again by another port (13_fabric.md R326). -/
  resend : List Flit := []
  seen : List (Nat × BitVec 32) := []
  damaged : List (Flit × Nat) := []
  /-- Far atomics abandoned at their home for an error of the line, with their package, to be taken again (10_atomics.md
  R284). -/
  redo : List (Nat × AtomicReq) := []
  time : Table (BitVec 32) := []
  /-- Destinations and partitions with traffic, and the flits sent past each since its last (16_system.md R413). -/
  active : List Nat := []
  passed : Table Nat := []
  /-- The smallest active virtual time of each destination as last seen (16_system.md R413, 05_tasks.md R123). -/
  low : Table (BitVec 32) := []
deriving DecidableEq, Repr

/-- A host chiplet core: what `VLSP` and the memory accesses read and write (16_system.md R423, R424). -/
structure HostCore where
  pc : Word := 0
  x : Vector Word 32 := Vector.replicate 32 0
  v : Vector (BitVec 512) 32 := Vector.replicate 32 0
  vstart : Word := 0
  mcause : Option Nat := none
  mtval : Word := 0
deriving DecidableEq, Repr

/-- A lantern pair and its load record (15_faults.md R404, R405; 16_system.md R429). -/
structure Pair where
  stopped : Bool := false
  dead : Bool := false
  term : BitVec 32 := 1
  mismatches : Nat := 0
  /-- It has mismatched three times within one hour (15_faults.md R404). -/
  reported : Bool := false
  loadTerm : BitVec 32 := 0
  vcount : BitVec 13 := 0
  btype : BitVec 16 := 0
  image : List (List Byte) := []
deriving DecidableEq, Repr

/-- Boot stages (16_system.md R427 to R429; 15_faults.md R405). -/
inductive BootStage where
  | off | booting | run | noblob | idfail
deriving DecidableEq, Repr

/-- What a vote is about: a physical die of this package, or a package (15_faults.md R405). -/
inductive Suspect where
  | die (pdie : Nat)
  | package (pkg : Nat)
deriving DecidableEq, Repr

/-- A vote on a suspect: the votes that came, the voters, and whether it passed (15_faults.md R405). -/
structure Ballot where
  suspect : Suspect
  votes : List (Nat × Bool)
  voters : List Nat
  passed : Bool := false
deriving DecidableEq, Repr

/-- A voltage and frequency island (16_system.md R430, R431). -/
structure Island where
  steps : Nat := 0
  tripped : Bool := false
deriving DecidableEq, Repr

/-- What GETSTAT returns: stage, term, die map, quarantine masks and corrected errors by die, MISUSE
(16_system.md R426). -/
structure Stat where
  stage : BootStage
  term : BitVec 32
  dieMap : List (BitVec 16)
  quarantined : List Word
  corrected : List Word
  misuse : Word
deriving DecidableEq, Repr

/-- An answer of the management port (16_system.md R425, R426). -/
inductive Reply where
  /-- The command took its effect. -/
  | done
  /-- The command was not accepted, with the status that the spec gives, if it gives one. -/
  | refused (status : Option Byte)
  | identity (data : List Word)
  | stat (x : Stat)
  /-- Power and sensors as they read, and the clock steps and trips of each island. -/
  | therm (sensors : List Word) (islands : List (Nat × Bool))
deriving DecidableEq, Repr

/-- Services of the package: registers of the service window, boot, lantern pairs, maps, management, power
(15_faults.md R400 to R408, 16_system.md R415 to R431). -/
structure Service where
  packageId : Nat := 0
  hotbase : Word := 0
  chstate : Word := 0
  holdspill : Word := 0
  self : Bool := false
  /-- MODE.SELF as written, in effect from the next conventional reset. -/
  selfNext : Bool := false
  hostAllot : Table Byte := []
  misuse : Word := 0
  pcieUp : Bool := true
  hostLost : Bool := false
  /-- A conventional reset goes on: the allotments are reset once all partitions are (16_system.md R414). -/
  resetAll : Bool := false
  /-- Dropped completion records and interrupts. -/
  dropped : Nat := 0
  dieMap : Vector (BitVec 16) 8 := Vector.ofFn fun i => 0x8000#16 ||| BitVec.ofNat 16 i.val
  dieTerm : BitVec 32 := 0
  /-- Physical modules of the package ids; an id not listed is held by the module of its number. -/
  pkgMap : Table Nat := []
  /-- The group of ten members of the protected region, in stripe order: package id and PBASE (15_faults.md R402). -/
  group : List (Nat × Nat) := []
  pkgTerm : BitVec 32 := 0
  /-- Suspects that wait for a vote, physical dies lost, packages lost and not yet replaced. -/
  suspects : List Suspect := []
  lostDies : List Nat := []
  lostPackages : List Nat := []
  /-- Physical dies whose warm reset was commanded while their pair was stopped: sent again (15_faults.md R404). -/
  resent : List Nat := []
  pairs : Table Pair := []
  leader : Option Nat := some 15
  term : BitVec 32 := 1
  stage : BootStage := .run
  ballot : Option Ballot := none
  session : Bool := false
  reply : Option Reply := none
  powerCap : Nat := 3600
  powered : Bool := true
  islands : Table Island := []
  /-- The two flash banks of blobs; the bank booted from; minimum versions by blob type. -/
  bankA : List (List Byte) := []
  bankB : List (List Byte) := []
  bootB : Bool := false
  minVersion : Table Nat := []
deriving DecidableEq, Repr

/-- A line of 64 bytes read from another package on behalf of an instruction, a copy or a record read (09_memory.md R253,
13_fabric.md R324): who waits for it (`token`), where it lies, and its bytes once the reply has come. -/
structure RemoteRead where
  id : Nat
  token : Nat
  part : Nat
  pkg : Nat
  pa : Nat
  value : Option (List Byte)
deriving DecidableEq, Repr

/-- What an exchange with other packages is about. -/
inductive ExchangeKind where
  /-- The table lies elsewhere: the outcome is awaited. -/
  | asked
  /-- Made or invalidated here: the confirmations are awaited. -/
  | made
  /-- A question about a domain. -/
  | query
deriving DecidableEq, Repr

/-- A change of capability entries or an invalidation that goes over several packages (14_containment.md R352,
15_faults.md R391): whoever waits for it here (token and purpose) or the package that asked with its number, the context,
the domain that logs the moves, the steps, and the packages still awaited. -/
structure Exchange where
  id : Nat
  kind : ExchangeKind
  key : Option (Nat × Nat)
  origin : Option (Nat × Nat)
  ctxid : Nat
  log : Nat
  steps : List CapStep
  left : List Nat
  result : CapResult
deriving DecidableEq, Repr

/-- An invalidation of another package to be confirmed: the package, its number, the context. -/
structure Confirm where
  pkg : Nat
  id : Nat
  ctxid : Nat
deriving DecidableEq, Repr

/-- By what means a write is made: a scalar access, reduction or atomic; a vector instruction; a matrix instruction; a
stream; a copy (11_order.md R287, R297). -/
inductive Means where
  | scalar | unit | matrix | stream | copy
deriving DecidableEq, Repr

/-- Who makes a write: task and core (a writer of another package or a host has no core here), whether it is a host, the
means, whether it is an atomic's, which releases it is, and how many releases its task had issued before (11_order.md
R285, R288, R289). -/
structure Writer where
  uid : Nat
  core : Option Nat
  host : Bool := false
  means : Means := .scalar
  atomic : Bool := false
  rel : List Release := []
  epoch : Nat := 0
deriving DecidableEq, Repr

/-- A write that took effect: the bytes that it overwrote, who made it, the releases that a read of it pairs with, as
points of the history, the cores whose tasks made it, read it or come after it, and the tasks whose later loads come after
it (11_order.md R285, R286, R288 to R290). -/
structure Past where
  pa : Nat
  old : List Byte
  writer : Writer
  chain : List Nat
  cores : List Nat
  must : List Nat
deriving DecidableEq, Repr

/-- What is due on the agenda: a happening of the table, or the turn of a core (log entry 2). -/
inductive Due where
  | event (i : Instr)
  | core (ci : Nat)
deriving DecidableEq, Repr

/-- The state of one package. -/
structure State where
  /-- The model's own: happenings due, the core that issues next, the counter that free values are applied to, the
  counter that gives ages. -/
  agenda : List Due
  turn : Nat
  fresh : Nat
  clock : Nat
  /-- Memory of the package by physical address, with the scratchpads at their package-window addresses. -/
  mem : List Host.Cell
  /-- The writes that took effect, oldest first: what loads that are performed earlier still return (11_order.md R287,
  R290). -/
  past : List Past
  /-- Main host memory reached over PCIe (16_system.md R418). -/
  hostMem : List Host.Cell
  tags : Table Tag
  /-- Stored bits in error of a doubleword (15_faults.md R393, R396). -/
  flips : Table Word
  poison : List Nat
  /-- Stores and reductions not yet accepted by their homes, and those accepted and not yet applied. -/
  requests : List Request
  queued : List Request
  reads : List RemoteRead
  /-- Chain packets at nodes of this package (09_memory.md R263, R269). -/
  packets : List Packet
  /-- Arrivals at pod barriers and phases: received from a package, and sent (11_order.md R293, R295). -/
  podArrivals : List (Nat × BarrierMsg)
  podSent : List BarrierMsg
  tasks : List Task
  nextUid : Nat
  cores : Table Core
  quads : Table Quad
  dies : Table Die
  parts : Table Part
  ctxs : Table Ctx
  launches : List Launch
  posts : List Post
  doms : List Dom
  /-- Changes that go over several packages, with the number of the next; confirmations owed; outcomes for those who
  wait (14_containment.md R352). -/
  exchanges : List Exchange
  nextExchange : Nat
  confirms : List Confirm
  answers : List ((Nat × Nat) × CapResult)
  fab : Fabric
  hosts : Table HostCore
  svc : Service
deriving DecidableEq, Repr

/-- The machine right after reset: booted, with no partition enabled and nothing admitted (15_faults.md R406,
16_system.md R412 to R418; log entries 3, 4 and 7). -/
def State.reset : State where
  agenda := []
  turn := 0
  fresh := 0
  clock := 0
  mem := []
  past := []
  hostMem := []
  tags := []
  flips := []
  poison := []
  requests := []
  queued := []
  reads := []
  packets := []
  podArrivals := []
  podSent := []
  tasks := []
  nextUid := 1
  cores := []
  quads := []
  dies := []
  parts := []
  ctxs := []
  launches := []
  posts := []
  doms := []
  exchanges := []
  nextExchange := 1
  confirms := []
  answers := []
  fab := {}
  hosts := []
  svc := {}

end Sys2Proof.Machine
end

