-- ==== Sys2Proof/Machine/Store.lean ====
section
/-! DEFINITION. Sparse tables, memory, the device's tables, homes of lines, and the acceptance of writes at a home. -/

namespace Sys2Proof.Machine

/-- Entry `k` of a table, `d` when none is listed. -/
def Sparse.read {α : Type} (d : α) : Table α → Nat → α
  | [], _ => d
  | (k', v) :: t, k => if k' = k then v else Sparse.read d t k

/-- The table without entry `k`. -/
def Sparse.erase {α : Type} (t : Table α) (k : Nat) : Table α := t.filter fun e => e.1 != k

/-- The table with an entry for `k` put in its place in rising order of keys. -/
def Sparse.insert {α : Type} (k : Nat) (v : α) : Table α → Table α
  | [] => [(k, v)]
  | (k', v') :: t => if k < k' then (k, v) :: (k', v') :: t else (k', v') :: Sparse.insert k v t

/-- The table with `v` as entry `k`; the default value is not listed. -/
def Sparse.write {α : Type} [DecidableEq α] (d : α) (t : Table α) (k : Nat) (v : α) : Table α :=
  if v = d then Sparse.erase t k else Sparse.insert k v (Sparse.erase t k)

/-- The canonical form: keys strictly rising above `lo`, and no default value listed. -/
def Sparse.wfFrom {α : Type} [DecidableEq α] (d : α) : Nat → Table α → Bool
  | _, [] => true
  | lo, (k, v) :: t => lo ≤ k && v != d && Sparse.wfFrom d (k + 1) t

/-- The canonical form of a table. -/
def Sparse.wf {α : Type} [DecidableEq α] (d : α) (t : Table α) : Bool := Sparse.wfFrom d 0 t

/-- The canonical form of memory: addresses strictly rising, no byte listed that holds 0, which an unlisted address
reads as (log entry 3). -/
def Memory.wf (m : List Host.Cell) : Bool := Sparse.wf (0 : Byte) m

/-- One byte of memory; a byte that nothing has written reads as 0 (log entry 3). -/
def Memory.byte (m : List Host.Cell) (a : Nat) : Byte := Sparse.read 0 m a

/-- Bytes of memory from an address on. -/
def Memory.bytes (m : List Host.Cell) (a : Nat) : Nat → List Byte
  | 0 => []
  | n + 1 => Memory.byte m a :: Memory.bytes m (a + 1) n

/-- Writes bytes from an address on. -/
def Memory.setBytes (m : List Host.Cell) (a : Nat) : List Byte → List Host.Cell
  | [] => m
  | b :: bs => Memory.setBytes (Sparse.write 0 m a b) (a + 1) bs

/-- First key of the scratchpad bytes: the package window (07_scratchpad.md R185). -/
def scratchBase : Nat := 0xFFC0000000000000

/-- Size of a core's scratchpad (07_scratchpad.md R187). -/
def scratchSize : Nat := 0x40000

/-- Key of byte `o` of a core's scratchpad: its address in the package window (07_scratchpad.md R185). -/
def scratchKey (ci o : Nat) : Nat := scratchBase + ci * scratchSize + o

/-- Core whose scratchpad holds a key. -/
def scratchCore (key : Nat) : Nat := (key - scratchBase) / scratchSize

/-- Line number of an address. -/
def lineOf (a : Nat) : Nat := a / 64

/-- Home slice of a line, as die × 64 + quad (09_memory.md R251); the port of a core's scratchpad has the number of the
core above 512 (07_scratchpad.md R186). -/
def homePlace (a : Nat) : Nat :=
  if scratchBase ≤ a then 512 + scratchCore a
  else
    let h := field a 6 3 ^^^ field a 15 3 ^^^ field a 24 3 ^^^ field a 33 3
    let q := field a 9 6 ^^^ field a 15 6 ^^^ field a 21 6 ^^^ field a 27 6 ^^^ field a 33 6 ^^^ field a 39 2
    h * 64 + q

/-- An idle core, quad, die, partition, context, send pair and so on: what an unlisted entry reads as. -/
def Core.idle : Core := {}
/-- A quad that nothing has changed. -/
def Quad.idle : Quad := {}
/-- A die that nothing has changed. -/
def Die.idle : Die := {}
/-- A partition that nothing has changed. -/
def Part.idle : Part := {}
/-- A context that nothing has changed. -/
def Ctx.idle : Ctx := {}
/-- A host core that nothing has changed. -/
def HostCore.idle : HostCore := {}

/-- Logical core `ci` = 256·die + 4·quad + core. -/
def State.core (s : State) (ci : Nat) : Core := Sparse.read Core.idle s.cores ci
/-- Replaces a core. -/
def State.setCore (s : State) (ci : Nat) (c : Core) : State :=
  { s with cores := Sparse.write Core.idle s.cores ci c }
/-- Quad `qi` = 64·die + quad. -/
def State.quad (s : State) (qi : Nat) : Quad := Sparse.read Quad.idle s.quads qi
/-- Replaces a quad. -/
def State.setQuad (s : State) (qi : Nat) (q : Quad) : State :=
  { s with quads := Sparse.write Quad.idle s.quads qi q }
/-- Logical die `d`. -/
def State.die (s : State) (d : Nat) : Die := Sparse.read Die.idle s.dies d
/-- Replaces a die. -/
def State.setDie (s : State) (d : Nat) (x : Die) : State := { s with dies := Sparse.write Die.idle s.dies d x }
/-- Partition `p`. -/
def State.part (s : State) (p : Nat) : Part := Sparse.read Part.idle s.parts p
/-- Replaces a partition. -/
def State.setPart (s : State) (p : Nat) (x : Part) : State :=
  { s with parts := Sparse.write Part.idle s.parts p x }
/-- Context `c` = 4·partition + n (16_system.md R410). -/
def State.ctx (s : State) (c : Nat) : Ctx := Sparse.read Ctx.idle s.ctxs c
/-- Replaces a context. -/
def State.setCtx (s : State) (c : Nat) (x : Ctx) : State := { s with ctxs := Sparse.write Ctx.idle s.ctxs c x }
/-- Host chiplet core `c`. -/
def State.hostCore (s : State) (c : Nat) : HostCore := Sparse.read HostCore.idle s.hosts c
/-- Replaces a host chiplet core. -/
def State.setHostCore (s : State) (c : Nat) (h : HostCore) : State :=
  { s with hosts := Sparse.write HostCore.idle s.hosts c h }

/-- Die of a core. -/
def dieOf (ci : Nat) : Nat := ci / 256
/-- Quad, numbered in the package, of a core. -/
def quadOf (ci : Nat) : Nat := ci / 4
/-- Core of a slot, from its `SLOTID` layout (03_encoding.md R65). -/
def coreOf (sid : Nat) : Nat := sid / 16

/-- One more free value is drawn. -/
def State.draw (s : State) : State := { s with fresh := s.fresh + 1 }

/-- One more age is given. -/
def State.tick (s : State) : State := { s with clock := s.clock + 1 }

/-- Adds one to MISUSE (15_faults.md R395). -/
def State.countMisuse (s : State) : State := { s with svc := { s.svc with misuse := s.svc.misuse + 1 } }

/-- A byte of the package's memory or of a scratchpad. -/
def State.byte (s : State) (a : Nat) : Byte := Memory.byte s.mem a
/-- Bytes of the package's memory or of a scratchpad. -/
def State.bytes (s : State) (a n : Nat) : List Byte := Memory.bytes s.mem a n
/-- A little-endian number in the package's memory or in a scratchpad. -/
def State.word (s : State) (a n : Nat) : Nat := leNat (s.bytes a n)

/-- The doublewords that `n` bytes from `a` cover wholly. -/
def wholeDwords (a n : Nat) : List Nat :=
  (List.range ((a + n) / 8 - ceilDiv a 8)).map (· + ceilDiv a 8)

/-- Writes bytes, whose ECC is formed anew where they cover a doubleword; a full line also loses its poison
(15_faults.md R397). -/
def State.poke (s : State) (a : Nat) (bs : List Byte) : State :=
  { s with
    mem := Memory.setBytes s.mem a bs
    flips := (wholeDwords a bs.length).foldl Sparse.erase s.flips
    poison := if a % 64 = 0 ∧ 64 ≤ bs.length then s.poison.filter (· != lineOf a) else s.poison }

/-- Does a write touch `n` bytes from `a`? -/
def Past.touches (p : Past) (a n : Nat) : Bool := p.pa < a + n && a < p.pa + p.old.length

/-- The point of a history after its last write, of those `f` picks, that touches `n` bytes from `a`; 0 if there is
none. -/
def lastWrite (f : Past → Bool) (a n : Nat) : List Past → Nat → Nat
  | [], _ => 0
  | p :: ps, i => match lastWrite f a n ps (i + 1) with
    | 0 => if f p && p.touches a n then i + 1 else 0
    | k => k

/-- The releases that a read of a write pairs with: the write itself, and for an atomic those of the chain that it goes on
(11_order.md R289). -/
def State.chainOf (s : State) (w : Writer) (a n : Nat) : List Nat :=
  (if w.atomic then match s.past[lastWrite (fun _ => true) a n s.past 0 - 1]? with
      | some p => if p.touches a n then p.chain else []
      | none => []
    else []) ++ if w.rel.isEmpty then [] else [s.past.length + 1]

/-- A write joins the history; what no other task can rely on yet, the write of a vector or matrix instruction, a stream or
a copy, becomes known to no core (11_order.md R285, R288). -/
def State.record (s : State) (w : Writer) (a : Nat) (old : List Byte) : State :=
  { s with past := s.past ++ [⟨a, old, w, s.chainOf w a old.length, if w.means = .scalar then w.core.toList else [], []⟩] }

/-- A write takes effect and is remembered (11_order.md R285). -/
def State.write (s : State) (w : Writer) (a : Nat) (bs : List Byte) : State :=
  (s.record w a (s.bytes a bs.length)).poke a bs

/-- Writes a little-endian number of `n` bytes. -/
def State.pokeNat (s : State) (a n v : Nat) : State := s.poke a (leBytes n v)

/-- Sets the owner tag of the line of an address. -/
def State.setTag (s : State) (a : Nat) (t : Tag) : State :=
  { s with tags := Sparse.write Tag.clean s.tags (lineOf a) t }
/-- The owner tag of the line of an address. -/
def State.tag (s : State) (a : Nat) : Tag := Sparse.read Tag.clean s.tags (lineOf a)

/-- The lines that `n` bytes from `a` touch. -/
def linesOf (a n : Nat) : List Nat := (List.range (lineOf (a + n - 1) - lineOf a + 1)).map (· + lineOf a)

/-- Sets the owner tag of every line that `n` bytes from `a` touch. -/
def State.tagLines (s : State) (a n : Nat) (t : Tag) : State :=
  (linesOf a n).foldl (fun s k => s.setTag (64 * k) t) s

/-- A message becomes ready for the fabric (13_fabric.md R324). -/
def State.send (s : State) (dst : Nat) (who : Who) (m : Msg) (cls : Class := .none) (op : Nat := 0) : State :=
  { s with fab := { s.fab with out := s.fab.out ++ [⟨dst, who, m, cls, op⟩] } }

/-- Queue entries blocked on the record at `pa` of a package return to their queues (05_tasks.md R122, R140). -/
def State.unblock (s : State) (pkg pa : Nat) : State :=
  { s with dies := s.dies.map fun (k, d) =>
      (k, { d with queue := d.queue.map fun e =>
        if e.state = .blocked pkg pa then { e with state := .queued } else e }) }

/-- DEPCNT of the record at `pa` has come to 0: entries blocked on it return to their queues, here and in the other
packages of the partition (05_tasks.md R140; log entry 78). -/
def State.releaseRecord (s : State) (who : Who) (pa : Nat) : State :=
  ((s.part who.part).packages.filter (· != s.svc.packageId)).foldl (fun s pkg =>
    s.send pkg { who with task := 0 } (.released who.part pa)) (s.unblock s.svc.packageId pa)

/-- Bytes of a number combined bitwise. -/
def xorBytes (xs ys : List Byte) : List Byte := List.zipWith (· ^^^ ·) xs ys

/-- Do stored bits of `n` bytes from `a` contain an error that ECC does not correct (15_faults.md R396)? -/
def State.unsound (s : State) (a n : Nat) : Bool :=
  s.flips.any fun (k, m) => a < 8 * k + 8 && 8 * k < a + n && 2 ≤ countBits 64 m.toNat

/-- The bytes that an operation touches at its home. -/
def homeBytes : HomeOp → Nat
  | .store bs | .xor bs => bs.length
  | .patch xs => xs.length
  | .combine _ z _ => amoBytes z
  | .dec => 4

/-- Writes of rising addresses as they are made: those with a gap between them inside one doubleword in one piece
(12_copy.md R311; log entry 95). -/
def joinWrites : List (Nat × List Byte) → List (Nat × List (Option Byte))
  | [] => []
  | (a, bs) :: rest =>
    match joinWrites rest with
    | (b, xs) :: more =>
      if a + bs.length < b ∧ (a + bs.length - 1) / 8 = b / 8 then
        (a, bs.map some ++ List.replicate (b - (a + bs.length)) none ++ xs) :: more
      else (a, bs.map some) :: (b, xs) :: more
    | [] => [(a, bs.map some)]

/-- The store of some bytes of a stretch. -/
def storeOp (xs : List (Option Byte)) : HomeOp :=
  if xs.all (·.isSome) then .store (xs.filterMap id) else .patch xs

/-- Does an operation read what it changes (10_atomics.md R277)? -/
def homeReads : HomeOp → Bool
  | .store _ | .patch _ => false
  | .combine .. | .xor _ | .dec => true

/-- Who makes the write of a request: a copy's belongs to its task, and of a task's requests those of a vector or matrix
instruction carry the instruction's number. Writes of hosts and other packages are taken for releases (11_order.md R285,
10_atomics.md R280; log entry 90). -/
def Request.writer (r : Request) : Writer :=
  let atomic := match r.op with
    | .store _ | .patch _ => false
    | _ => true
  if r.index < 0xC000 && r.who.task != 0 then
    { uid := r.who.task, core := some (coreOf r.who.sid), rel := r.rel, epoch := r.epoch, atomic := atomic
      means := if 0x8000 ≤ r.index then .copy else if r.cls = .mx then .matrix else if r.tally = 0 then .scalar else .unit }
  else { uid := 0, core := none, host := 0xC000 ≤ r.index && r.index < 0xE000, atomic := atomic, rel := [⟨.sys, 0⟩] }

/-- A request takes its effect in memory (10_atomics.md R279, 05_tasks.md R140). A reduction on a line that is in error by
then is abandoned with no effect (10_atomics.md R284). -/
def State.applyRequest (s : State) (r : Request) : State :=
  if homeReads r.op && s.unsound r.pa (homeBytes r.op) then s else
  let put := fun (s : State) (bs : List Byte) => s.write r.writer r.pa bs
  let s := match r.op with
    | .store bs => put s bs
    | .patch xs => put s (List.zipWith (fun (x : Option Byte) b => x.getD b) xs (s.bytes r.pa xs.length))
    | .combine op z v =>
      let n := amoBytes z
      put s (leBytes n (amoNew op z (s.word r.pa n) (v.toNat % 2 ^ (8 * n))).1)
    | .xor bs => put s (xorBytes (s.bytes r.pa bs.length) bs)
    | .dec =>
      let c := s.word r.pa 4
      let s := if c = 0 then s else put s (leBytes 4 (c - 1))
      if c = 1 then s.releaseRecord r.who (r.pa - r.pa % 64) else s
  match r.tag with
  | some t => s.setTag r.pa t
  | none => s

/-- Applies requests in the order given. -/
def State.applyAll (s : State) : List Request → State
  | [] => s
  | r :: rs => (s.applyRequest r).applyAll rs

/-- Every queued request of the package is applied, in the order of acceptance. -/
def State.serveEverything (s : State) : State :=
  let s' := s.applyAll s.queued
  { s' with queued := [] }

/-- The die that homes a line, or whose core owns a scratchpad line (01_machine.md R16, 15_faults.md R394). -/
def lineDie (a : Nat) : Nat := if scratchBase ≤ a then dieOf (scratchCore a) else homePlace a / 64 % 8

/-- The home write queue applies what it holds for a line before the slice serves an access to it
(HOME_WRITE_QUEUE_APPLY, 10_atomics.md R279). What was accepted before is applied with it, so that the order of
`State.past` is the order of acceptance (log entry 10). -/
def State.serve (s : State) (a : Nat) : State :=
  if s.queued.any fun r => lineOf r.pa == lineOf a then s.serveEverything else s

/-- A write takes effect at once, after everything accepted before it (11_order.md R285). -/
def State.perform (s : State) (w : Writer) (a : Nat) (bs : List Byte) : State := s.serveEverything.write w a bs

/-- Serves every line of `n` bytes. -/
def State.serveAll (s : State) (a n : Nat) : State :=
  ((List.range (lineOf (a + n - 1) - lineOf a + 1)).map (· + lineOf a)).foldl (fun s l => s.serve (64 * l)) s

/-- Reads served bytes: the state after the home write queue was applied, and the bytes. -/
def State.fetchBytes (s : State) (a n : Nat) : State × List Byte :=
  let s := s.serveAll a n
  (s, s.bytes a n)

/-- Reads a served doubleword, as the walkers and the device's own reads do. -/
def State.fetchDword (s : State) (a : Nat) : State × Nat :=
  let s := s.serve a
  (s, s.word a 8)

end Sys2Proof.Machine
end

