-- ==== Sys2Proof/Machine/Tasks.lean ====
section
/-! DEFINITION. Tasks: registers, the next instruction, slots, ready lists, parking and waking. -/

namespace Sys2Proof.Machine

/-- Reads `g`a; `g0` reads 0 (03_encoding.md R64). -/
def Task.greg (t : Task) (a : GReg) : Word := if a = 0 then 0 else t.g[a.toNat]

/-- Writes `g`d; a write to `g0` is discarded (03_encoding.md R64). -/
def Task.setG (t : Task) (d : GReg) (v : Word) : Task := if d = 0 then t else { t with g := t.g.set d.toNat v }

/-- Reads `p`a; `p0` reads 1 (03_encoding.md R64). -/
def Task.pred (t : Task) (a : Reg3) : Bool := a = 0 || t.p.getLsbD a.toNat

/-- Writes `p`d; a write to `p0` is discarded (03_encoding.md R64). -/
def Task.setP (t : Task) (d : Reg3) (b : Bool) : Task :=
  if d = 0 then t
  else { t with p := if b then t.p ||| (1#8 <<< d.toNat) else t.p &&& ~~~(1#8 <<< d.toNat) }

/-- Accrues flags in `FSR` (02_numbers.md R47, R48). -/
def Task.raise (t : Task) (f : BitVec 6) : Task := { t with fsr := t.fsr ||| f }

/-- The point after the captured word at (i, j) of a frame; `none` at its end (05_tasks.md R147). -/
def Frame.next (f : Frame) : Option Frame :=
  if f.j + 1 < f.words.length then some { f with j := f.j + 1 }
  else if f.i + 1 < f.count then some { f with i := f.i + 1, j := 0 }
  else none

/-- The next instruction of a task that executed one in sequence: the next captured word of a running frame, the word
after the frame, or the next word (05_tasks.md R146, R148). -/
def Task.advance (t : Task) : Task :=
  match t.rep with
  | some f =>
    if f.active then
      match f.next with
      | some f' => { t with rep := some f' }
      | none => { t with rep := none, pc := t.pc + 4 + 4 * BitVec.ofNat 64 f.words.length }
    else { t with pc := t.pc + 4 }
  | none => { t with pc := t.pc + 4 }

/-- Core of a task. -/
def Task.ci (t : Task) : Nat := coreOf t.sid
/-- Die of a task. -/
def Task.die (t : Task) : Nat := dieOf t.ci
/-- Partition of a task (16_system.md R410). -/
def Task.part (t : Task) : Nat := t.ctxid / 4

/-- The task with a number. -/
def State.task? (s : State) (uid : Nat) : Option Task := s.tasks.find? fun t => t.uid == uid

/-- Replaces a task. -/
def State.putTask (s : State) (t : Task) : State :=
  { s with tasks := s.tasks.map fun u => if u.uid = t.uid then t else u }

/-- Changes a task, if it is there. -/
def State.modTask (s : State) (uid : Nat) (f : Task → Task) : State :=
  { s with tasks := s.tasks.map fun u => if u.uid = uid then f u else u }

/-- Changes the tasks with the numbers given. -/
def State.modTasks (s : State) (uids : List Nat) (f : Task → Task) : State :=
  { s with tasks := s.tasks.map fun u => if uids.contains u.uid then f u else u }

/-- The task that issues on the core whose turn it is. -/
def State.current (s : State) : Option Task := (s.core s.turn).running.bind s.task?

/-- Runs `f` for the task that issues; without one there is no instruction to run. -/
def withTask (s : State) (f : Task → Out State) : Out State :=
  match s.current with
  | some t => f t
  | none => .fault .noRunningTask

/-- The issuing task completes its instruction in sequence. -/
def complete (s : State) (t : Task) : Out State := .next (s.putTask { t.advance with wait := .none })

/-- What every request of a task carries (13_fabric.md R327, R345). -/
def State.who (s : State) (t : Task) : Who :=
  ⟨t.uid, t.sid, t.ctxid, (s.part t.part).epoch, t.domain, t.launchid⟩

/-- What a request of the device for a context carries: no task, no domain. -/
def State.deviceWho (s : State) (ctxid : Nat) : Who := ⟨0, 0, ctxid, (s.part (ctxid / 4)).epoch, 0, 0⟩

/-- The owner tag that a task's writes leave (09_memory.md R256). -/
def Task.tag (t : Task) : Tag := .work ⟨t.domain, t.ctxid, t.launchid⟩

/-- The owner tag that the writes of a request leave. -/
def whoTag (w : Who) : Tag := .work ⟨w.dom, w.ctxid, w.launch⟩

/-- Changes a core. -/
def State.modCore (s : State) (ci : Nat) (f : Core → Core) : State := s.setCore ci (f (s.core ci))
/-- Changes a quad. -/
def State.modQuad (s : State) (qi : Nat) (f : Quad → Quad) : State := s.setQuad qi (f (s.quad qi))
/-- Changes a die. -/
def State.modDie (s : State) (d : Nat) (f : Die → Die) : State := s.setDie d (f (s.die d))
/-- Changes a partition. -/
def State.modPart (s : State) (p : Nat) (f : Part → Part) : State := s.setPart p (f (s.part p))
/-- Changes a context. -/
def State.modCtx (s : State) (c : Nat) (f : Ctx → Ctx) : State := s.setCtx c (f (s.ctx c))

/-- Single-bit errors in a range are corrected in place, and counted on the die that homes the line or whose core owns the
scratchpad (15_faults.md R394, R396, R399). -/
def State.correct (s : State) (a n : Nat) : State :=
  let hit := s.flips.filter fun (k, m) => a < 8 * k + 8 && 8 * k < a + n && countBits 64 m.toNat == 1
  hit.foldl (fun s e => s.modDie (lineDie (8 * e.1)) fun x => { x with corrected := x.corrected + 1 })
    { s with flips := s.flips.filter fun e => !hit.contains e }

/-- Does the package run, and a die hold the identity (15_faults.md R400, R401; 16_system.md R427 to R431)? -/
def State.runs (s : State) (d : Nat) : Bool :=
  s.svc.powered && s.svc.stage == .run && (s.svc.dieMap.toList.getD d 0).getLsbD 15

/-- Is every slot of a core HELD or the core without issue: pre-empted, drained, or in reset (05_tasks.md R128, R133,
R154; 15_faults.md R406, R407)? -/
def State.halted (s : State) (ci : Nat) : Bool :=
  !s.runs (dieOf ci) || (s.core ci).preempted || (s.core ci).stopping || (s.core ci).resetting || (s.quad (quadOf ci)).drained
    || (s.die (dieOf ci)).inReset

/-- May the copies of a core move: not pre-empted and not in reset (05_tasks.md R154; 15_faults.md R406, R407)? -/
def State.enginesRun (s : State) (ci : Nat) : Bool :=
  s.runs (dieOf ci) && !(s.core ci).preempted && !(s.core ci).resetting && !(s.die (dieOf ci)).inReset

/-- May the vector and matrix queues and the streams of a core work: neither that nor its quad drained for a scan
(08_matrix.md R232)? -/
def State.unitsRun (s : State) (ci : Nat) : Bool := s.enginesRun ci && !(s.quad (quadOf ci)).drained

/-- A core switches to the head of its ready list when no task runs on it (05_tasks.md R130). -/
def State.switch (s : State) (ci : Nat) : State :=
  let c := s.core ci
  match c.running, c.ready with
  | none, u :: rest =>
    (s.setCore ci { c with running := some u, ready := rest, stalled := false }).modTask u
      ({ · with status := .running })
  | _, _ => s

/-- A task leaves RUNNING on its core, which switches (05_tasks.md R130). -/
def State.leave (s : State) (t : Task) : State :=
  let c := s.core t.ci
  (s.setCore t.ci { c with
    running := if c.running = some t.uid then none else c.running
    ready := c.ready.filter (· != t.uid)
    stalled := if c.running = some t.uid then false else c.stalled }).switch t.ci

/-- A task goes to the tail of its core's ready list (05_tasks.md R129, R130). -/
def State.enterReady (s : State) (t : Task) : State :=
  let s := s.putTask { t with status := .ready }
  s.modCore t.ci fun c => { c with ready := c.ready ++ [t.uid] }

/-- The issuing task parks (05_tasks.md R129); `order` is the start of its park (R131). -/
def State.park (s : State) (t : Task) (k : ParkKind) (w : Wait) : State :=
  let s := s.tick
  (s.putTask { t with status := .parked k, wait := w, order := s.clock }).leave t

/-- Issue of the running task stalls: the instruction executes again later. -/
def State.stall (s : State) (t : Task) (w : Wait) : State :=
  (s.putTask { t with wait := w }).modCore t.ci ({ · with stalled := true })

/-- Is the task a member of a gang that has not been dissolved (05_tasks.md R150, R151)? -/
def Task.inGang (t : Task) : Bool := t.gang.any fun g => !g.members.isEmpty

/-- Does the task execute a word of its gang leader's stream (05_tasks.md R150)? -/
def Task.follows (t : Task) : Bool := t.gang.any fun g => !g.stream.isEmpty

/-- A follower's completed word leaves its stream, and it goes where its leader went; the last word of a dissolved gang
leaves it alone (05_tasks.md R150, R151). -/
def Task.dropWord (t : Task) : Task :=
  match t.gang with
  | none => t
  | some g =>
    match g.stream with
    | [] => t
    | b :: rest =>
      { t with pc := b.pc, rep := b.rep
               gang := if rest.isEmpty && g.members.isEmpty then none else some { g with stream := rest } }

/-- Are faults of a task's queued vector and matrix instructions still to be serviced (07_scratchpad.md R198)? -/
def State.unitFaults (s : State) (t : Task) : Bool :=
  (s.core t.ci).vq.any (fun e => e.uid == t.uid && e.pending != 0)
    || (s.core t.ci).mq.any fun e => e.uid == t.uid && e.pending != 0

/-- The queued instruction of a task that its issue waits for, if there is one (06_vector.md R175, 07_scratchpad.md
R202). -/
def State.syncEntry (s : State) (t : Task) : Option VEntry := (s.core t.ci).vq.find? fun e => e.uid == t.uid && e.sync

/-- Is issue of a task held until a synchronous matrix instruction of it has completed (08_matrix.md R224,
R229)? -/
def State.awaitsMatrix (s : State) (t : Task) : Bool := (s.core t.ci).mq.any fun e => e.uid == t.uid && e.sync

/-- The vector queue of a core changes; the most recent head is remembered (06_vector.md R161). -/
def Core.withQueue (c : Core) (vq : List VEntry) : Core :=
  { c with
    vq := vq
    lastPart := match vq, c.vq with
      | e :: _, _ => some e.part
      | [], e :: _ => some e.part
      | [], [] => c.lastPart }

/-- A parked task's condition holds (PARK_WAKE, 05_tasks.md R129, R132): a task in its slot becomes READY, a spilled one
a ready spilled continuation, and on a halted core the wake is kept in arrival order (R133, R155). While faults of its
queued vector or matrix instructions are to be serviced it parks as FAULT instead (07_scratchpad.md R198), and a member
of a gang then waits for the others (R150). -/
def State.wake (s : State) (t : Task) : State :=
  if s.unitFaults t then s.putTask { t with status := .parked .fault, wait := .unit } else
  let t := { t with wait := if t.inGang then .members else .none }
  if t.inGang then s.putTask t
  else if t.spilled then s.putTask { t with status := .ready }
  else if s.halted t.ci then
    (s.putTask t).modCore t.ci fun c => { c with diverted := c.diverted ++ [.wake t.uid] }
  else s.enterReady t

/-- One operation of a class enters the count of a task (05_tasks.md R143). -/
def Task.count (t : Task) : Class → Task
  | .none => t
  | .ld => { t with ld := t.ld + 1 }
  | .st => { t with st := t.st + 1 }
  | .cp => { t with cp := t.cp + 1 }
  | .mx => { t with mx := t.mx + 1 }
  | .fb => { t with fb := t.fb + 1 }

/-- One operation of a class leaves the count (05_tasks.md R143). -/
def Task.uncount (t : Task) : Class → Task
  | .none => t
  | .ld => { t with ld := t.ld - 1 }
  | .st => { t with st := t.st - 1 }
  | .cp => { t with cp := t.cp - 1 }
  | .mx => { t with mx := t.mx - 1 }
  | .fb => { t with fb := t.fb - 1 }

/-- One operation of a class of a task completes. -/
def State.retire (s : State) (uid : Nat) (c : Class) : State := s.modTask uid (·.uncount c)

/-- Part of an operation of a task is done: the operation leaves its class when no request and no message of it remains;
an operation 0 has one part (05_tasks.md R143). -/
def State.settle (s : State) (uid : Nat) (c : Class) (op : Nat) : State :=
  if c = .none then s
  else if op ≠ 0 && (s.requests.any (fun r => r.tally == op && r.who.task == uid && r.cls == c)
      || s.fab.out.any (fun m => m.op == op && m.who.task == uid && m.cls == c)) then s
  else s.retire uid c

/-- Are writes of a task's vector or matrix stores still on their way: the instructions they belong to have not completed
(05_tasks.md R143, 08_matrix.md R224)? -/
def State.unitWriting (s : State) (uid : Nat) : Bool :=
  s.requests.any (fun r => r.tally != 0 && r.index < 0x8000 && r.who.task == uid)
    || s.fab.out.any fun m => m.op != 0 && (m.cls == .fb || m.cls == .mx) && m.who.task == uid

/-- Is a class at its limit (05_tasks.md R144)? -/
def Task.full (t : Task) : Class → Bool
  | .none => false
  | .ld => 62 ≤ t.ld
  | .st => 62 ≤ t.st
  | .cp => 30 ≤ t.cp
  | .mx => 30 ≤ t.mx
  | .fb => 14 ≤ t.fb

/-- A core with its die, quad and number in the `SLOTID` layout, and the slot (03_encoding.md R65). -/
def State.freeSlots (s : State) (ci : Nat) : List Nat :=
  (List.range 16).filter fun n => s.tasks.all fun t => t.spilled || t.sid != ci * 16 + n

end Sys2Proof.Machine
end

