-- ==== Sys2Proof/Machine/Space.lean ====
section
/-! DEFINITION. The address space: canonical form, scratchpad windows, declared ranges, the page walk and its checks
(09_memory.md R235 to R247). -/

namespace Sys2Proof.Machine

/-- Kinds of access, as ACC of a fault entry names them (15_faults.md R386); `other` is a store that is not a scalar `ST`
(09_memory.md R240). -/
inductive Acc where
  | load | store | fetch | atomic | red | chainStep | chainFinal | copySrc | copyDst | lease
  | vload | vstore | mread | mwrite | record | other
deriving DecidableEq, Repr

/-- ACC of a fault entry (15_faults.md R386). -/
def Acc.code : Acc → BitVec 4
  | .load => 0 | .store => 1 | .fetch => 2 | .atomic => 3 | .red => 4 | .chainStep => 5 | .chainFinal => 6
  | .copySrc => 7 | .copyDst => 8 | .lease => 9 | .vload => 10 | .vstore => 11 | .mread => 12 | .mwrite => 13
  | .record => 14 | .other => 1

/-- Is it a write for the checks of R240 (09_memory.md R240, 10_atomics.md R273)? -/
def Acc.writes : Acc → Bool
  | .store | .other | .atomic | .red | .copyDst | .vstore | .mwrite => true
  | _ => false

/-- A translation that fails: PAGEF or PROT, with WHY and LEVEL of the fault entry (15_faults.md R386). -/
structure PageFault where
  prot : Bool
  why : BitVec 8
  level : BitVec 2
deriving DecidableEq, Repr

/-- Cause code of a page fault (15_faults.md R381). -/
def PageFault.cause (f : PageFault) : BitVec 8 := if f.prot then 0x09 else 0x08

/-- Where an access goes: a scratchpad byte, or a physical address of a package with the leaf that maps it. -/
structure Loc where
  pkg : Nat
  pa : Nat
  leaf : Nat
deriving DecidableEq, Repr

/-- Is the location a scratchpad's? -/
def Loc.scratch (l : Loc) : Bool := scratchBase ≤ l.pa
/-- Memory type of a leaf (09_memory.md R239). -/
def leafMT (e : Nat) : Nat := field e 4 2
/-- APER of a leaf. -/
def leafAper (e : Nat) : Nat := field e 10 10
/-- OPEN of a leaf. -/
def leafOpen (e : Nat) : Bool := e.testBit 9
/-- RAP of a leaf. -/
def leafRap (e : Nat) : Bool := e.testBit 8

/-- Bytes as the home would serve them, with its queued requests applied (10_atomics.md R279). -/
def State.look (s : State) (a n : Nat) : List Byte := (s.serveAll a n).bytes a n
/-- A number as the home would serve it. -/
def State.lookNat (s : State) (a n : Nat) : Nat := leNat (s.look a n)

/-- Device space (09_memory.md R242). -/
def inDevice (pa : Nat) : Bool := 0x1E000000000 ≤ pa && pa < 0x20000000000
/-- Populated space: HBM and device space (09_memory.md R242). -/
def populated (pa : Nat) : Bool := pa < 0x0C000000000 || inDevice pa

/-- Canonical addresses (09_memory.md R235). -/
def canonical (a : Word) : Bool := let t := field a.toNat 54 10; t == 0 || t == 0x3FF

/-- What a walk found: a leaf with the address of its entry and its level, or a fault. -/
inductive Walk where
  | leaf (entry : Nat) (value : Nat) (shift : Nat)
  | fault (f : PageFault)
deriving DecidableEq, Repr

/-- Reserved bits set in a table entry or leaf, or an impossible TYPE, table level or PFN (09_memory.md R240). -/
def malformedEntry (e level shift : Nat) : Bool :=
  field e 48 8 != 0
    || (if field e 20 3 = 1 then field e 1 19 != 0 || level == 3
        else field e 20 3 != 0 || field e 23 25 % 2 ^ (shift - 16) != 0 || (level == 1 && field e 23 25 != 0))

/-- The walk from a table at `base` through the levels given (09_memory.md R237, R238). -/
def State.walk (s : State) (va : Word) : Nat → List (Nat × Nat) → Walk
  | _, [] => .fault ⟨true, 8, 3⟩
  | base, (level, shift) :: rest =>
    let at_ := base + 8 * field va.toNat shift 13
    let e := s.lookNat at_ 8
    if e % 2 = 0 then .fault ⟨false, 0, BitVec.ofNat 2 level⟩
    else if malformedEntry e level shift then .fault ⟨true, 8, BitVec.ofNat 2 level⟩
    else if field e 20 3 = 1 then s.walk va (field e 23 25 * 0x10000) rest
    else .leaf at_ e shift

/-- The levels of a walk with the lowest index bit of each (09_memory.md R237). -/
def walkLevels : List (Nat × Nat) := [(1, 42), (2, 29), (3, 16)]

/-- The checks of a well-formed leaf for an access at `pa`: WHY of the first failing row (09_memory.md R240). -/
def leafFault (s : State) (e pa : Nat) (acc : Acc) : Option (BitVec 8) :=
  if e.testBit 3 then some 1
  else if 2 ^ 41 ≤ pa || !populated pa then some 2
  else if (leafMT e == 3) != inDevice pa then some 3
  else if leafMT e == 3 && leafAper e != s.svc.packageId then some 4
  else if leafMT e == 3 && acc != .load && acc != .store then some 5
  else if acc.writes && !e.testBit 1 then some 6
  else if acc == .fetch && !e.testBit 2 then some 7
  else none

/-- Translates an address with a context's page table for an access: no bit is set yet (09_memory.md R237 to R240). -/
def State.lookup (s : State) (ctxid : Nat) (acc : Acc) (va : Word) : Except PageFault (Nat × Loc) :=
  match s.walk va (s.ctx ctxid).ptroot.toNat walkLevels with
  | .fault f => .error f
  | .leaf at_ e shift =>
    let pa := field e 23 25 * 0x10000 + va.toNat % 2 ^ shift
    match leafFault s e pa acc with
    | some w => .error ⟨true, w, 0⟩
    | none => .ok (at_, ⟨leafAper e, pa, e⟩)

/-- Sets A, and D for a write, in the leaf at a physical address (09_memory.md R243). -/
def State.setAccessed (s : State) (at_ : Nat) (write : Bool) : State :=
  let s := s.serve at_
  let e := s.word at_ 8
  let e' := e ||| 0x40 ||| (if write then 0x80 else 0)
  if e' = e then s else s.pokeNat at_ 8 e'

/-- The table entries that a walk reads (09_memory.md R237, R238). -/
def State.walkEntries (s : State) (va : Word) : Nat → List (Nat × Nat) → List Nat
  | _, [] => []
  | base, (level, shift) :: rest =>
    let at_ := base + 8 * field va.toNat shift 13
    let e := s.lookNat at_ 8
    at_ :: if e % 2 = 0 || malformedEntry e level shift || field e 20 3 != 1 then []
      else s.walkEntries va (field e 23 25 * 0x10000) rest

/-- Single-bit errors that a walk meets are corrected and counted (15_faults.md R399). -/
def State.correctWalk (s : State) (ctxid : Nat) (va : Word) : State :=
  if s.flips.isEmpty then s
  else (s.walkEntries va (s.ctx ctxid).ptroot.toNat walkLevels).foldl (fun s a => s.correct a 8) s

/-- Translates an address for an access and sets A and D (09_memory.md R237 to R243). -/
def State.translate (s : State) (ctxid : Nat) (acc : Acc) (va : Word) : State × Except PageFault Loc :=
  let s := s.correctWalk ctxid va
  match s.lookup ctxid acc va with
  | .error f => (s, .error f)
  | .ok (at_, l) => (s.setAccessed at_ acc.writes, .ok l)

/-- Do two leaves differ in nothing but A and D (09_memory.md R243)? -/
def sameLeaf (e f : Nat) : Bool := e % 64 == f % 64 && e / 256 == f / 256

/-- The leaves for an address that a quad may still use for an access: for a write those with D (09_memory.md R243 to
R245). -/
def State.cached (s : State) (qi ctxid : Nat) (va : Word) (write : Bool) : List CachedLeaf :=
  (s.quad qi).tlb.filter fun c => c.ctxid == ctxid && c.page == va.toNat / 2 ^ c.shift && (!write || c.entry.testBit 7)

/-- The leaf that a walk of an address finds is cached in a quad; not-present and malformed entries never are
(09_memory.md R244). -/
def State.remember (s : State) (qi ctxid : Nat) (va : Word) : State :=
  match s.walk va (s.ctx ctxid).ptroot.toNat walkLevels with
  | .fault _ => s
  | .leaf _ e shift =>
    let c : CachedLeaf := ⟨ctxid, va.toNat / 2 ^ shift, shift, e⟩
    if (s.quad qi).tlb.contains c then s else s.modQuad qi fun q => { q with tlb := q.tlb ++ [c] }

/-- Translates an address by a cached leaf. -/
def State.byLeaf (s : State) (c : CachedLeaf) (acc : Acc) (va : Word) : Except PageFault Loc :=
  let pa := field c.entry 23 25 * 0x10000 + va.toNat % 2 ^ c.shift
  match leafFault s c.entry pa acc with
  | some w => .error ⟨true, w, 0⟩
  | none => .ok ⟨leafAper c.entry, pa, c.entry⟩

/-- A counter of a frame's hotness record gains `n`, saturating; the record is that of the table at HOTBASE, and without
a table (HOTBASE 0) nothing is counted, which is the model's choice (09_memory.md R254, R260; log entry 87). -/
def State.heat (s : State) (pa offset bytes n : Nat) : State :=
  if s.svc.hotbase = 0 then s
  else
    let a := s.svc.hotbase.toNat + 16 * (pa / 0x10000) + offset
    let s := s.serve a
    s.pokeNat a bytes (min (s.word a bytes + n) (2 ^ (8 * bytes) - 1))

/-- The counter of a frame's record for a requester: LOCAL for this package, else that of its group of packages
(09_memory.md R254). -/
def State.heatFrom (s : State) (src : Option Nat) (pa n : Nat) : State :=
  match src with
  | none => s.heat pa 4 4 n
  | some p => s.heat pa (8 + 2 * (p / 256)) 2 n

/-- `HINT.near` at the home of a frame: the counter that a miss by the issuer would increment gains 256 (09_memory.md
R260). -/
def State.nearHint (s : State) (src : Option Nat) (pa : Nat) : State := s.heatFrom src pa 256

/-- Is an address in the hotness table (09_memory.md R254)? -/
def State.inHotTable (s : State) (a : Nat) : Bool :=
  s.svc.hotbase.toNat ≤ a && a < s.svc.hotbase.toNat + 16 * 12582912

/-- An access to a line of HBM at its home slice; whether it misses in L2 is a free value, and a miss counts in the
frame's record, but for the table's own lines (09_memory.md R254; log entry 87). -/
def State.mayMiss (s : State) (src : Option Nat) (pa : Nat) : State :=
  if s.svc.hotbase = 0 || scratchBase ≤ pa || s.inHotTable pa then s
  else if Config.l2Miss s.fresh then (s.draw.heat pa 0 4 1).heatFrom (src.filter (· != s.svc.packageId)) pa 1 else s.draw

/-- An access of this package that has a location may miss in the L2 of its home slice, when that is here and the line
normal or protected (09_memory.md R254). -/
def State.noteAccess (s : State) (l : Loc) : State :=
  if l.pkg = s.svc.packageId && (leafMT l.leaf == 0 || leafMT l.leaf == 2) then s.mayMiss none l.pa else s

/-- Translates an address by a walk, whose leaf the quad then holds (09_memory.md R243, R245). -/
def State.walked (s : State) (qi ctxid : Nat) (acc : Acc) (va : Word) : State × Except PageFault Loc :=
  let (s, r) := s.translate ctxid acc va
  (s.remember qi ctxid va, r)

/-- Translates an address for an access of a quad's core: by a walk, or by a leaf that a TLB or an L1 still holds. Which
one is a free value where they differ; where they do not, and A and D stand, both come to the same (09_memory.md R243 to
R245; log entry 88). -/
def State.access (s : State) (qi ctxid : Nat) (acc : Acc) (va : Word) : State × Except PageFault Loc :=
  let old := s.cached qi ctxid va acc.writes
  let agrees := match s.lookup ctxid acc va with
    | .ok (_, l) => l.leaf.testBit 6 && (!acc.writes || l.leaf.testBit 7) && old.all fun c => sameLeaf c.entry l.leaf
    | .error _ => false
  let (s, r) :=
    if old.isEmpty || agrees then s.walked qi ctxid acc va
    else match old[Config.translation s.fresh % (old.length + 1)]? with
      | some c => (s.draw, s.byLeaf c acc va)
      | none => s.draw.walked qi ctxid acc va
  match r with
  | .ok l => (s.noteAccess l, r)
  | .error _ => (s, r)

/-- Every leaf cached for a page of 64 KiB of the contexts chosen is dropped (15_faults.md R391). -/
def State.forget (s : State) (ctxs : Nat → Bool) (page : Option Nat) : State :=
  { s with quads := s.quads.map fun (k, q) => (k, { q with tlb := q.tlb.filter fun c =>
      !(ctxs c.ctxid && page.all fun p => p / 2 ^ (c.shift - 16) == c.page) }) }

/-- Partition that a scratchpad segment of a core is allotted to (07_scratchpad.md R187). -/
def State.segmentPart (s : State) (ci o : Nat) : Nat := field (s.core ci).spallot.toNat (4 * (o / 0x4000)) 4

/-- Core and offset of a scratchpad address, for a task of core `own` (07_scratchpad.md R185). -/
def scratchOf (own : Nat) (a : Word) : Option (Nat × Nat) :=
  let n := a.toNat
  if 0xFFFFFFFFFFFC0000 ≤ n then some (own, n - 0xFFFFFFFFFFFC0000)
  else if scratchBase ≤ n ∧ n < scratchBase + 0x20000000 then
    some ((n - scratchBase) / scratchSize, (n - scratchBase) % scratchSize)
  else none

/-- The reserved window (09_memory.md R235). -/
def reservedWindow (a : Word) : Bool :=
  scratchBase + 0x20000000 ≤ a.toNat && a.toNat ≤ 0xFFC00000FFFFFFFF

/-- Does a range hold a byte? -/
def rangeHolds (r : Range) (a : Nat) : Bool := r.base ≤ a && a < r.base + r.len

/-- The always-open ranges of a context in translated memory: stack and arena (09_memory.md R247). -/
def State.openRanges (s : State) (ctxid : Nat) : List Range :=
  let c := s.ctx ctxid
  [⟨c.stkbase.toNat, c.stklen.toNat, true⟩, ⟨c.arbase.toNat, c.arlen.toNat, true⟩]

/-- Does every byte of an access lie in a declared or always-open range (09_memory.md R247)? -/
def State.inRanges (s : State) (rs : List Range) (ctxid : Nat) (va : Word) (n : Nat) : Bool :=
  (List.range n).all fun i => (rs ++ s.openRanges ctxid).any fun r => rangeHolds r ((va.toNat + i) % 2 ^ 64)

/-- Why a data access does not go on (09_memory.md R236). -/
inductive Denied where
  | align
  | range
  | page (f : PageFault)
  | rapv
  | capv
  /-- The capability entry of a page must be fetched from another package (14_containment.md R348). -/
  | fetch (page : Nat)
deriving DecidableEq, Repr

/-- Checks 2 to 5 of R236 on an access of a context with declared ranges, by a task of core `own`. -/
def State.place (s : State) (own ctxid : Nat) (rs : List Range) (acc : Acc) (va : Word) (n : Nat) :
    State × Except Denied Loc :=
  if !canonical va || reservedWindow va then (s, .error .range)
  else match scratchOf own va with
    | some (ci, o) =>
      if s.segmentPart ci o = ctxid / 4 then (s, .ok ⟨s.svc.packageId, scratchKey ci o, 0⟩) else (s, .error .range)
    | none =>
      if s.inRanges rs ctxid va n then
        match s.access (quadOf own) ctxid acc va with
        | (s', .ok l) => (s', .ok l)
        | (s', .error f) => (s', .error (.page f))
      else (s, .error .range)

end Sys2Proof.Machine
end

