-- ==== Sys2Proof/Machine/Faults.lean ====
section
/-! DEFINITION. Interrupt vectors, the fault buffer, messages to other packages and remote reads. -/

namespace Sys2Proof.Machine

/-- Sends an MSI-X vector of a partition; one to a lost host is dropped and counted (16_system.md R417; 15_faults.md
R408). -/
def State.sendVector (s : State) (p v : Nat) : State :=
  if s.svc.hostLost && !s.svc.self then { s with svc := { s.svc with dropped := s.svc.dropped + 1 } }
  else s.modPart p fun x => { x with sent := Sparse.write 0 x.sent v (Sparse.read 0 x.sent v + 1) }

/-- Raises an MSI-X vector of a partition: a masked one is held pending (16_system.md R417). -/
def State.raiseVector (s : State) (p v : Nat) : State :=
  if (s.part p).masked.getLsbD v then s.modPart p fun x => { x with pending := x.pending ||| (1#5 <<< v) }
  else s.sendVector p v

/-- Is an area absent: does its register hold no base (16_system.md R412)? -/
def areaAbsent (v : Word) : Bool := field v.toNat 16 25 == 0

/-- What stalls on an absent area: a queue entry, a task, a core, a launch, a message of a core, each by its number. -/
def stalledEntry (age : Nat) : Nat := 8 * age
/-- A task. -/
def stalledTask (uid : Nat) : Nat := 8 * uid + 1
/-- A core. -/
def stalledCore (ci : Nat) : Nat := 8 * ci + 2
/-- A launch. -/
def stalledLaunch (id : BitVec 32) : Nat := 8 * id.toNat + 3
/-- A message. -/
def stalledSend (order : Nat) : Nat := 8 * order + 4

/-- Work of a partition stalls on an absent area, named by the offset of its register: vector 4, once for each thing that
stalls until an area is written (16_system.md R412, R417). -/
def State.noteArea (s : State) (p area what : Nat) : State :=
  if (s.part p).noted.contains (area, what) then s
  else (s.modPart p fun x => { x with noted := x.noted ++ [(area, what)] }).raiseVector p 4

/-- Entries of a fault buffer that a partition holds (15_faults.md R388). -/
def Die.heldBy (x : Die) (p : Nat) : Nat := (x.entries.filter fun e => e.2.part == p).length

/-- Entries of a partition in a die's buffer that have not been read (15_faults.md R385). -/
def Die.unreadOf (x : Die) (p : Nat) : Nat := (x.entries.filter fun e => e.2.part == p && !e.2.read).length

/-- May an entry of partition `p` be written now (15_faults.md R388)? -/
def Die.mayWrite (x : Die) (p : Nat) : Bool :=
  let owed := (((List.range 16).filter (· != p)).map fun q => 128 - x.heldBy q).sum
  owed < 4096 - x.entries.length

/-- The index a new entry takes: one of the free ones, which one is a free value (15_faults.md R385). -/
def State.freeIndex (s : State) (d : Nat) : Nat :=
  let used := (s.die d).entries.map (·.1)
  let free := (List.range 4096).filter fun i => !used.contains i
  free.getD (Config.faultIndex s.fresh % free.length) 0

/-- Writes an entry into the fault buffer of a die and raises vector 1 when the partition has
no other unread one on any die (15_faults.md R385). -/
def State.writeEntry (s : State) (d : Nat) (e : FaultEntry) : State :=
  let first := s.dies.all fun x => x.2.unreadOf e.part == 0
  let i := s.freeIndex d
  let s := s.draw.modDie d fun x => { x with entries := Sparse.insert i e x.entries }
  if first then s.raiseVector e.part 1 else s

/-- The task that parks for a fault: the one whose access it is, or that pushed the instruction (15_faults.md R388,
07_scratchpad.md R198). -/
def State.parksFor (s : State) : FaultTarget → Option Nat
  | .task u | .lanes u _ => some u
  | .vector ci n => ((s.core ci).vq.find? (·.serial == n)).map (·.uid)
  | .matrix ci n => ((s.core ci).mq.find? (·.serial == n)).map (·.uid)
  | _ => none

/-- The unreported mark of the task that parks for a fault is set or, with none of its faults left waiting, taken away
(05_tasks.md R129, 15_faults.md R388). -/
def State.markUnreported (s : State) (tg : FaultTarget) : State :=
  match s.parksFor tg with
  | none => s
  | some u =>
    let waits := s.dies.any fun x => x.2.unreported.any fun e => s.parksFor e.target == some u
    s.modTask u ({ · with unreported := waits })

/-- A fault or notice is written, or waits unreported (FAULT_BUFFER_ENTRY, 15_faults.md R388). -/
def State.postEntry (s : State) (d : Nat) (e : FaultEntry) : State :=
  let e := { e with age := s.clock }
  let s := s.tick
  if (s.die d).mayWrite e.part && (s.die d).unreported.all (·.part != e.part) then s.writeEntry d e
  else
    let s := s.modDie d fun x => { x with unreported := x.unreported ++ [e], ovfcnt := x.ovfcnt + 1 }
    (s.markUnreported e.target).raiseVector e.part 1

/-- Does a fault of die `d` for this target wait unreported? -/
def State.waitsUnreported (s : State) (d : Nat) (tg : FaultTarget) : Bool :=
  (s.die d).unreported.any fun e => e.target == tg

/-- Entries and waiting faults of every die that `f` picks are changed by `g`. -/
def State.mapEntries (s : State) (f : FaultEntry → Bool) (g : FaultEntry → FaultEntry) : State :=
  { s with dies := s.dies.map fun (k, x) =>
      (k, { x with
        entries := x.entries.map fun (i, e) => (i, if f e then g e else e)
        unreported := x.unreported.map fun e => if f e then g e else e }) }

/-- The faulting operation was cancelled: its entries are marked VOID (15_faults.md R386, R409). -/
def State.voidEntries (s : State) (f : FaultTarget → Bool) : State :=
  s.mapEntries (fun e => f e.target) ({ · with void := true })

/-- A notice to a partition in the fault buffer of a die (15_faults.md R389). -/
def State.notice (s : State) (d p note : Nat) (vaddr record : Word) : State :=
  s.postEntry d { target := .notice, part := p, ctxid := 4 * p, sid := 0, vaddr := vaddr, record := record,
                  cause := 0, kind := 2, note := BitVec.ofNat 16 note }

/-- Does an address lie in a lease page of a task (09_memory.md R248, R249)? -/
def Task.leases (t : Task) (va : Word) : Bool :=
  t.ranges.any fun r => !r.roam && r.len != 0 && r.base / 0x10000 ≤ va.toNat / 0x10000
    && va.toNat / 0x10000 ≤ (r.base + r.len - 1) / 0x10000

/-- The fault entry of an access of a task, with the lease mark on a lease page (15_faults.md R386, 09_memory.md
R249). -/
def Task.faultEntry (t : Task) (tg : FaultTarget) (acc : Acc) (va : Word) (cause : BitVec 8) (f : PageFault) :
    FaultEntry :=
  { target := tg, part := t.part, ctxid := t.ctxid, sid := t.sid, vaddr := va, record := t.taskrec,
    cause := cause, kind := if t.leases va then 1 else 0, acc := acc.code, why := f.why, level := f.level }

/-- A recoverable fault of the issuing task: an entry is written and the task parks as FAULT. Its instruction executes
again when the entry is serviced (09_memory.md R250, log entry 8). -/
def State.faultPark (s : State) (t : Task) (acc : Acc) (va : Word) (cause : BitVec 8) (f : PageFault) : State :=
  let s := s.park t .fault .service
  s.postEntry t.die (t.faultEntry (.task t.uid) acc va cause f)

/-- The waiter of remote reads of a task, of a queued vector or matrix instruction, of a copy, of a launch. -/
def tokenTask (uid : Nat) : Nat := 8 * uid
/-- Of a vector queue entry. -/
def tokenVector (serial : Nat) : Nat := 8 * serial + 1
/-- Of a matrix queue entry. -/
def tokenMatrix (serial : Nat) : Nat := 8 * serial + 2
/-- Of a copy. -/
def tokenCopy (serial : Nat) : Nat := 8 * serial + 3
/-- Of a line that is being rebuilt. -/
def tokenRebuild (line : Nat) : Nat := 8 * line + 4

/-- The line read for a waiter, if its request was made. -/
def State.read? (s : State) (token pkg pa : Nat) : Option RemoteRead :=
  s.reads.find? fun r => r.token == token && r.pkg == pkg && r.pa == pa

/-- Requests a line of another package, once (09_memory.md R253, 13_fabric.md R324). -/
def State.request (s : State) (who : Who) (token pkg pa : Nat) : State :=
  match s.read? token pkg pa with
  | some _ => s
  | none =>
    let r : RemoteRead := ⟨s.clock, token, who.part, pkg, pa, none⟩
    { s.tick.send pkg who (.loadReq ⟨who, pa, 64, .part token r.id⟩) with reads := s.reads ++ [r] }

/-- Bytes of a location: at once when homed here, else from the replies to remote reads; `none` while some are
outstanding, whose requests are then made. -/
def State.readAt (s : State) (who : Who) (token : Nat) (l : Loc) (n : Nat) : State × Option (List Byte) :=
  if l.pkg = s.svc.packageId then
    let (s, bs) := (s.correct l.pa n).fetchBytes l.pa n
    (s, some bs)
  else
    let lines := (linesOf l.pa n).map (64 * ·)
    let s := lines.foldl (fun s a => s.request who token l.pkg a) s
    let vs := lines.map fun a => (s.read? token l.pkg a).bind (·.value)
    if vs.all (·.isSome) then (s, some (((vs.flatMap fun v => v.getD []).drop (l.pa % 64)).take n))
    else (s, none)

/-- Drops the remote reads of a waiter. -/
def State.dropReads (s : State) (token : Nat) : State :=
  { s with reads := s.reads.filter fun r => r.token != token }

/-- Has every remote read of a waiter come? -/
def State.readsCome (s : State) (token : Nat) : Bool := s.reads.all fun r => r.token != token || r.value.isSome

end Sys2Proof.Machine
end

