-- ==== Sys2Proof/Machine/Records.lean ====
section
/-! DEFINITION. Task records, range tables, domain records and launch records (05_tasks.md R118, R119; 03_encoding.md
R94, R96; 14_containment.md R359; 01_machine.md R23). -/

namespace Sys2Proof.Machine

/-- Reads a task record, checked by R119 but for its range table; SEQ must be zero when `fresh`. -/
def parseTask (bs : List Byte) (fresh : Bool) : Option TaskRecord :=
  let n := leNat bs
  let dw i := BitVec.ofNat 64 (field n (64 * i) 64)
  let affv := n.testBit 431
  let affq := field n 424 6
  if field n 432 16 != 0 || n.testBit 430 || field n 419 5 != 0 || (fresh && field n 448 64 != 0)
      || (!affv && affq != 0) || field n 0 6 != 0 || field n 64 6 != 0 then none
  else some ⟨dw 0, dw 1, [dw 2, dw 3, dw 4, dw 5], field n 384 32, field n 416 3, if affv then some affq else none,
             field n 448 64⟩

/-- One entry of a range table: base, length, roam; `none` when malformed (03_encoding.md R94). -/
def parseRange (n : Nat) : Option Range :=
  if field n 113 15 != 0 || field n 0 6 != 0 || field n 64 6 != 0 then none
  else some ⟨field n 0 64, field n 64 48, n.testBit 112⟩

/-- Every element parsed, or none. -/
def allSome {α : Type} : List (Option α) → Option (List α)
  | [] => some []
  | some x :: xs => (allSome xs).map (x :: ·)
  | none :: _ => none

/-- Reads a range table; entries of length 0 are unused (03_encoding.md R94). -/
def parseRanges (bs : List Byte) : Option (List Range) :=
  let n := leNat bs
  (allSome ((List.range 4).map fun i => parseRange (field n (128 * i) 128))).map (·.filter (·.len != 0))

/-- One range of a domain record in use (03_encoding.md R96, 14_containment.md R359). -/
def parseDomRange (n : Nat) : Option DomRange :=
  let kind := match field n 112 2 with
    | 0 => some RangeKind.frozen
    | 1 => some RangeKind.copied
    | 2 => some RangeKind.owned
    | _ => none
  if field n 114 14 != 0 || field n 0 6 != 0 || field n 64 6 != 0 || field n 64 48 = 0 then none
  else kind.map fun k => ⟨k, field n 0 64, field n 64 48⟩

/-- Do two ranges share a byte? -/
def DomRange.overlaps (a b : DomRange) : Bool := a.base < b.base + b.len && b.base < a.base + a.len

/-- Do two ranges share a 64 KiB page? -/
def DomRange.sharesPage (a b : DomRange) : Bool :=
  a.base / 0x10000 ≤ (b.base + b.len - 1) / 0x10000 && b.base / 0x10000 ≤ (a.base + a.len - 1) / 0x10000

/-- Ranges that break no rule of R359 among themselves. -/
def rangesAgree : List DomRange → Bool
  | [] => true
  | r :: rs => rs.all (fun x => !r.overlaps x && ((r.kind == .frozen) == (x.kind == .frozen) || !r.sharesPage x))
      && rangesAgree rs

/-- Reads a domain record; `none` when it is malformed by the rules of R359 that need nothing but the record. The root
must be there unless the domain is a launch's outer one. -/
def parseDomain (bs : List Byte) (outer : Bool) : Option DomRecord :=
  let n := leNat bs
  let k := field n 200 4
  let root := BitVec.ofNat 64 (field n 0 64)
  let save := field n 128 64
  if field n 205 51 != 0 || k = 0 || 14 < k || field n (256 + 128 * k) (128 * (14 - k)) != 0
      || (!outer && root = 0) || save % 64 != 0 then none
  else
    match allSome ((List.range k).map fun i => parseDomRange (field n (256 + 128 * i) 128)) with
    | none => none
    | some rs =>
      if !rangesAgree rs || (rs.any (·.kind == .copied) != (save != 0)) then none
      else some ⟨root, BitVec.ofNat 64 (field n 64 64), BitVec.ofNat 64 save, field n 192 8, n.testBit 204, rs⟩

/-- What a launch record says (01_machine.md R23). -/
structure LaunchRecord where
  root : Word
  domrec : Word
  key : Word
  prio : Nat
  det : Bool
  nomix : Bool
  rootDie : Nat
  tag : BitVec 32
deriving DecidableEq, Repr

/-- The fields of a launch record, and whether it passes the checks of admission (01_machine.md R23, R24). -/
def parseLaunch (bs : List Byte) : LaunchRecord × Bool :=
  let n := leNat bs
  let rootDie := field n 200 4
  (⟨BitVec.ofNat 64 (field n 0 64), BitVec.ofNat 64 (field n 64 64), BitVec.ofNat 64 (field n 128 64), field n 192 3,
    n.testBit 197, n.testBit 198, rootDie, BitVec.ofNat 32 (field n 224 32)⟩,
   field n 256 256 = 0 && field n 204 20 = 0 && !n.testBit 199 && field n 195 2 = 0 && field n 0 64 != 0
     && field n 0 6 = 0 && field n 64 6 = 0 && (rootDie ≤ 7 || rootDie = 15))

/-- The pages of 64 KiB that a range covers. -/
def pagesOf (base len : Nat) : List Nat :=
  if len = 0 then []
  else (List.range ((base + len - 1) / 0x10000 - base / 0x10000 + 1)).map (· + base / 0x10000)

/-- The copied ranges with where the snapshot of each begins (14_containment.md R361). -/
def copiedRanges (save : Nat) : List DomRange → List (DomRange × Nat)
  | [] => []
  | r :: rs => if r.kind = .copied then (r, save) :: copiedRanges (save + r.len) rs else copiedRanges save rs

/-- Total of the copied ranges. -/
def copiedLength (rs : List DomRange) : Nat := ((rs.filter (·.kind == .copied)).map (·.len)).sum

end Sys2Proof.Machine
end

