-- ==== Sys2Proof/Machine/Domains.lean ====
section
/-! DEFINITION. Containment domains and writer capabilities: lookups, the capability table, the check of stores, marks
(14_containment.md R348 to R358). -/

namespace Sys2Proof.Machine

/-- HOLDER of a save area (14_containment.md R349). -/
def preserved : Nat := 0xFFFFFFFF

/-- The domain with an id in a context; a freed one is absent (14_containment.md R357). -/
def State.dom? (s : State) (ctxid id : Nat) : Option Dom := s.doms.find? fun d => d.ctxid == ctxid && d.id == id

/-- Changes a domain. -/
def State.modDom (s : State) (ctxid id : Nat) (f : Dom → Dom) : State :=
  { s with doms := s.doms.map fun d => if d.ctxid = ctxid ∧ d.id = id then f d else d }

/-- A domain and its ancestors, nearest first; at most eight (14_containment.md R357). -/
def State.lineage (s : State) (ctxid : Nat) : Nat → Nat → List Dom
  | 0, _ => []
  | n + 1, id =>
    match s.dom? ctxid id with
    | some d => d :: s.lineage ctxid n d.parent
    | none => []

/-- The domain and its ancestors of a task in domain `id`. -/
def State.ancestors (s : State) (ctxid id : Nat) : List Dom := s.lineage ctxid 8 id

/-- Is domain `id` the domain `top` or a descendant of it? -/
def State.within (s : State) (ctxid id top : Nat) : Bool := (s.ancestors ctxid id).any (·.id == top)

/-- The outermost domain of a domain's tree. -/
def State.outermost (s : State) (ctxid id : Nat) : Option Dom := (s.ancestors ctxid id).getLast?

/-- Does a copied input of a domain contain a byte? -/
def Dom.copies (d : Dom) (a : Nat) : Bool :=
  d.ranges.any fun r => r.kind == .copied && r.base ≤ a && a < r.base + r.len

/-- A capability entry as the issuer sees it; the table may lie in another package (14_containment.md R348, R349). -/
inductive CapView where
  | absent
  | entry (holder frz : Nat)
  | remote
deriving DecidableEq, Repr

/-- Address of the capability entry of a page, when its tables are present (14_containment.md R348). -/
def State.capSlot (s : State) (page : Nat) : Nat → List Nat → Option Nat
  | base, [] => some (base + 8 * (page % 8192))
  | base, sh :: rest =>
    let e := s.lookNat (base + 8 * (page / 2 ^ sh % 8192)) 8
    if e % 2 = 1 && field e 20 3 == 1 && field e 48 8 == 0 && field e 1 19 == 0 then
      s.capSlot page (field e 23 25 * 0x10000) rest
    else none

/-- Package that holds a context's capability table (16_system.md R418). -/
def State.capHome (s : State) (ctxid : Nat) : Nat := field (s.ctx ctxid).caproot.toNat 48 10

/-- Does the table lie in this package? -/
def State.capLocal (s : State) (ctxid : Nat) : Bool := s.capHome ctxid == s.svc.packageId

/-- Address of the entry of a page in this package's table. -/
def State.capAddr (s : State) (ctxid page : Nat) : Option Nat :=
  s.capSlot page (field (s.ctx ctxid).caproot.toNat 0 41) [26, 13]

/-- A capability entry from its bits (14_containment.md R349). -/
def capOf (e : Nat) : CapView :=
  if e % 2 = 0 || field e 1 23 != 0 then .absent else .entry (field e 32 32) (field e 24 8)

/-- Page number of an address within the 55-bit space. -/
def pageOf (va : Word) : Nat := field va.toNat 16 39

/-- The capability entry of a page, from the table or, when that lies elsewhere, from the quad's cache. -/
def State.capView (s : State) (qi ctxid page : Nat) : CapView :=
  if s.capLocal ctxid then
    match s.capAddr ctxid page with
    | some a => capOf (s.lookNat a 8)
    | none => .absent
  else
    match (s.quad qi).caps.find? fun e => e.1 == ctxid && e.2.1 == page with
    | some e => capOf e.2.2.toNat
    | none => .remote

/-- Cached copies of an entry are invalidated in every quad (14_containment.md R352). -/
def State.dropCaps (s : State) (f : Nat → Nat → Bool) : State :=
  { s with quads := s.quads.map fun (k, q) => (k, { q with caps := q.caps.filter fun e => !f e.1 e.2.1 }) }

/-- Nesting depth of a domain of a context; 0 for none (14_containment.md R357). -/
def State.depthOf (s : State) (ctxid id : Nat) : Nat := ((s.dom? ctxid id).map (·.depth)).getD 0

/-- Of two escalation targets the one nearer the root; NONE, which is 0, is nearer than every domain (14_containment.md
R350). -/
def State.nearer (s : State) (ctxid a b : Nat) : Nat :=
  if a = 0 || s.depthOf ctxid a ≤ s.depthOf ctxid b then a else b

/-- Marks a domain with an escalation target (14_containment.md R350). -/
def State.mark (s : State) (ctxid id target : Nat) : State :=
  s.modDom ctxid id fun d => { d with esc := s.nearer ctxid d.esc target }

/-- The escalation target of a domain, with the marks of far atomics of its tasks that may still write
(14_containment.md R350, 10_atomics.md R284). -/
def State.escOf (s : State) (d : Dom) : Nat :=
  s.tasks.foldl (fun x t => match t.wait with
    | .atomic _ _ _ _ _ _ _ (some m) => if t.ctxid = d.ctxid ∧ t.domain = d.id then s.nearer d.ctxid x m else x
    | _ => x) d.esc

/-- Check 7 of R236 on a write of a task to a location (14_containment.md R350). -/
def State.capCheck (s : State) (qi ctxid dom : Nat) (va : Word) (leaf : Nat) : State × Except Denied Unit :=
  let page := pageOf va
  let outer := s.outermost ctxid dom
  let unpreserved := leafMT leaf == 2 && !(outer.any fun d => d.copies va.toNat)
  match s.capView qi ctxid page with
  | .remote => (s, .error (.fetch page))
  | v =>
    let frozen := match v with
      | .entry _ f => f != 0
      | _ => false
    if frozen || unpreserved then (s, .error .capv)
    else if leafOpen leaf then (s.mark ctxid dom ((outer.map (·.id)).getD 0), .ok ())
    else match v with
      | .entry h _ =>
        if dom = 0 then if h = 0 then (s, .ok ()) else (s, .error .capv)
        else if h = dom then (s, .ok ())
        else if s.within ctxid dom h then (s.mark ctxid dom h, .ok ())
        else (s, .error .capv)
      | _ => (s, .error .capv)

/-- The capability rule of an atomic or reduction: CAPV on a frozen page (14_containment.md R351). -/
def State.capFrozen (s : State) (qi ctxid : Nat) (va : Word) : Except Denied Unit :=
  match s.capView qi ctxid (pageOf va) with
  | .remote => .error (.fetch (pageOf va))
  | .entry _ f => if f = 0 then .ok () else .error .capv
  | .absent => .ok ()

/-- The mark that an atomic or reduction of domain `dom` leaves when it writes: none for a page that the domain holds and
that is not OPEN; else the nearest of the domain and its ancestors that preserves the byte, 0 being NONE
(14_containment.md R351, 10_atomics.md R273; log entry 89). -/
def State.atomicTarget (s : State) (qi ctxid dom : Nat) (va : Word) (leaf : Nat) : Option Nat :=
  let own := match s.capView qi ctxid (pageOf va) with
    | .entry h _ => h == dom
    | _ => false
  if dom = 0 || (own && !leafOpen leaf) then none
  else some ((((s.ancestors ctxid dom).find? fun d => d.copies va.toNat).map (·.id)).getD 0)

/-- A domain is marked, if there is a target. -/
def State.markTo (s : State) (ctxid dom : Nat) (target : Option Nat) : State :=
  match target with
  | some x => s.mark ctxid dom x
  | none => s

/-- The rule of a reduction, which writes: CAPV or its mark (14_containment.md R351). -/
def State.capMark (s : State) (qi ctxid dom : Nat) (va : Word) (leaf : Nat) : State × Except Denied Unit :=
  match s.capFrozen qi ctxid va with
  | .error d => (s, .error d)
  | .ok () => (s.markTo ctxid dom (s.atomicTarget qi ctxid dom va leaf), .ok ())

/-- The next domain id of a context from `n` on that is not live (14_containment.md R357). -/
def nextDomId (live : List Nat) : Nat → Nat → Nat
  | 0, n => n
  | fuel + 1, n => if live.contains n then nextDomId live fuel (if n = 0xFFFFFFFE then 1 else n + 1) else n

/-- Draws a domain id from the context's counter (14_containment.md R357). -/
def State.drawId (s : State) (ctxid : Nat) : State × Nat :=
  let c := s.ctx ctxid
  let id := nextDomId c.liveIds (c.liveIds.length + 1) c.nextDom
  (s.setCtx ctxid { c with nextDom := if id = 0xFFFFFFFE then 1 else id + 1, liveIds := c.liveIds ++ [id] }, id)

/-- The live bit of a domain id is cleared, in the package that holds the context's counter (14_containment.md R357); the
last id drawn, when it was drawn for nothing, goes back to the counter (R360). -/
def State.freeId (s : State) (ctxid id : Nat) (unused : Bool := false) : State :=
  if s.capLocal ctxid then s.modCtx ctxid fun c => { c with
    liveIds := c.liveIds.filter (· != id)
    nextDom := if unused && c.nextDom == (if id = 0xFFFFFFFE then 1 else id + 1) then id else c.nextDom }
  else s.send (s.capHome ctxid) (s.deviceWho ctxid) (.idFree ctxid id unused)

/-- Frees the table entry of a domain and clears its live bit (14_containment.md R357). -/
def State.freeDom (s : State) (ctxid id : Nat) : State :=
  { s.freeId ctxid id with doms := s.doms.filter fun d => !(d.ctxid == ctxid && d.id == id) }

end Sys2Proof.Machine
end

