-- ==== Sys2Proof/Machine/Exchange.lean ====
section
/-! DEFINITION. Changes of the capability table and invalidations, within one package and over several
(14_containment.md R352, 15_faults.md R391). -/

namespace Sys2Proof.Machine

/-- Does a partition span other packages (16_system.md R410)? -/
def State.spans (s : State) (p : Nat) : Bool := (s.part p).packages.any (· != s.svc.packageId)

/-- The other packages of a partition. -/
def State.otherPackages (s : State) (p : Nat) : List Nat := (s.part p).packages.filter (· != s.svc.packageId)

/-- Is every access of a partition that was translated and checked performed at its home: nothing stands in a buffer or
in the fabric interface, and no reply of another package is awaited (14_containment.md R352, 15_faults.md R391,
10_atomics.md R284)? -/
def State.drained (s : State) (p : Nat) : Bool :=
  s.requests.all (·.who.part != p) && s.fab.out.all (fun m => m.who.part != p)
    && s.reads.all (fun r => r.part != p || r.value.isSome) && s.packets.all (·.who.part != p)
    && s.tasks.all fun t => t.part != p || match t.wait with
      | .load .. | .atomic .. => false
      | _ => true
    && s.fab.stray.all (·.2 != p)

/-- What a step comes to on an entry. -/
def judgeStep (c : CapStep) : CapView → Verdict
  | .entry h f => if c.holders.all (·.contains h) && f ≤ c.top then .done else .conflict
  | _ => .noentry

/-- The bits of an entry after a step (14_containment.md R349). -/
def entryAfter (c : CapStep) (holder frz : Nat) : Nat :=
  let f := match c.frz with
    | .keep => frz
    | .up => frz + 1
    | .down => frz - 1
  c.new.getD holder * 2 ^ 32 + f * 2 ^ 24 + 1

/-- Makes a step on the table, which lies here. -/
def State.capStep (s : State) (ctxid : Nat) (c : CapStep) : State × Verdict × Word :=
  match s.capAddr ctxid c.page with
  | none => (s, .noentry, 0)
  | some a =>
    let e := s.lookNat a 8
    match capOf e, judgeStep c (capOf e) with
    | .entry h f, .done =>
      (if entryAfter c h f = e then s else (s.serve a).pokeNat a 8 (entryAfter c h f), .done, BitVec.ofNat 64 e)
    | _, v => (s, v, BitVec.ofNat 64 e)

/-- Makes steps in order. -/
def State.capSteps (s : State) (ctxid : Nat) : List CapStep → State × List (Verdict × Word)
  | [] => (s, [])
  | c :: rest =>
    let (s, x) := s.capStep ctxid c
    let (s, xs) := s.capSteps ctxid rest
    (s, x :: xs)

/-- The outcome of a change: a step that must be met refuses it, NOENTRY before CONFLICT (14_containment.md R360). -/
def outcomeOf (steps : List CapStep) (xs : List (Verdict × Word)) : CapResult :=
  let bad := fun v => (steps.zip xs).any fun (c, x) => c.strict && x.1 == v
  ⟨if bad .noentry then .noentry else if bad .conflict then .conflict else .done, xs⟩

/-- The moves that steps made: page, old and new holder. -/
def movesOf (steps : List CapStep) (xs : List (Verdict × Word)) : List (Nat × Nat × Nat) :=
  (steps.zip xs).filterMap fun (c, x) =>
    let old := field x.2.toNat 32 32
    match c.new with
    | some n => if x.1 = .done ∧ old ≠ n then some (c.page, old, n) else none
    | none => none

/-- The pages whose entries steps changed, with their new holders. -/
def changesOf (steps : List CapStep) (xs : List (Verdict × Word)) : List (Nat × Option Nat) :=
  (steps.zip xs).filterMap fun (c, x) =>
    if x.1 = .done ∧ (c.frz ≠ .keep ∨ c.new.any (· != field x.2.toNat 32 32)) then some (c.page, c.new) else none

/-- Cached copies of changed entries are dropped, and the domains here know what they hold (14_containment.md R352). -/
def State.entriesChanged (s : State) (ctxid : Nat) (ms : List (Nat × Option Nat)) : State :=
  let s := s.dropCaps fun c p => c == ctxid && ms.any (·.1 == p)
  { s with doms := s.doms.map fun d => if d.ctxid ≠ ctxid then d else { d with
      pages := ms.foldl (fun ps (page, new) => match new with
        | none => ps
        | some n => ps.filter (· != page) ++ (if n = d.id then [page] else [])) d.pages } }

/-- The moves of a change enter the move log of a domain (14_containment.md R353, R366). -/
def State.logMoves (s : State) (ctxid log : Nat) (ms : List (Nat × Nat × Nat)) : State :=
  ms.foldl (fun s (page, old, new) =>
    s.tick.modDom ctxid log fun d => { d with moves := d.moves ++ [⟨s.tick.clock, page, old, new⟩] }) s

/-- Has the recipient that some step names left PROVISIONAL, as the table here shows (14_containment.md R353)? -/
def State.recipientGone (s : State) (ctxid : Nat) (steps : List CapStep) : Bool :=
  steps.any fun c => c.recipient.any fun h => (s.dom? ctxid h).any (·.state != .provisional)

/-- Asks packages to drop what they have cached, and remembers who waits for their confirmations. -/
def State.openExchange (s : State) (kind : ExchangeKind) (key origin : Option (Nat × Nat)) (ctxid log : Nat)
    (steps : List CapStep) (left : List Nat) (r : CapResult) (m : Nat → Msg) (to_ : List Nat) : State :=
  let id := s.nextExchange
  to_.foldl (fun s p => s.send p (s.deviceWho ctxid) (m id))
    { s with nextExchange := id + 1, exchanges := s.exchanges ++ [⟨id, kind, key, origin, ctxid, log, steps, left, r⟩] }

/-- Begins a change: at once where the table lies here and the partition does not span packages, once every access
checked under an old entry has been performed; else the change is made here, or asked of the table's home, and goes over
the packages (14_containment.md R352). Nobody waits for a change without a key. -/
def State.beginChange (s : State) (key : Option (Nat × Nat)) (ctxid log : Nat) (steps : List CapStep) :
    State × Option CapResult :=
  if !s.capLocal ctxid then
    (s.openExchange .asked key none ctxid log steps [] ⟨.done, []⟩ (fun id => .capChange id ctxid steps) [s.capHome ctxid],
      none)
  else
    let (s', xs) := s.capSteps ctxid steps
    let r := outcomeOf steps xs
    let cs := changesOf steps xs
    let made := (s'.entriesChanged ctxid cs).logMoves ctxid log (movesOf steps xs)
    if r.verdict ≠ .done ∨ cs = [] then (s, some r)
    else if !s.spans (ctxid / 4) then if s.drained (ctxid / 4) || key.isNone then (made, some r) else (s, none)
    else
      let others := s.otherPackages (ctxid / 4)
      (made.openExchange .made key none ctxid log steps others r (fun id => .invalidate id ctxid (.caps cs)) others, none)

/-- Takes the outcome that came for a waiter. -/
def State.takeAnswer (s : State) (key : Nat × Nat) : State × Option CapResult :=
  match s.answers.find? (·.1 == key) with
  | some a => ({ s with answers := s.answers.filter (·.1 != key) }, some a.2)
  | none => (s, none)

/-- A change for a waiter: its outcome, or none while the waiter has to wait; it asks again then. -/
def State.transact (s : State) (key : Nat × Nat) (ctxid log : Nat) (steps : List CapStep) : State × Option CapResult :=
  match s.takeAnswer key with
  | (s, some r) => (s, some r)
  | (s, none) =>
    if s.exchanges.any (·.key == some key) then (s, none) else s.beginChange (some key) ctxid log steps

/-- A change that nobody waits for. -/
def State.change (s : State) (ctxid log : Nat) (steps : List CapStep) : State :=
  if steps.isEmpty then s else (s.beginChange none ctxid log steps).1

/-- Is a domain that is not in the table here PROVISIONAL in another package (14_containment.md R353)? -/
def State.askDomain (s : State) (key : Nat × Nat) (ctxid dom : Nat) : State × Option CapResult :=
  match s.takeAnswer key with
  | (s, some r) => (s, some r)
  | (s, none) =>
    if s.exchanges.any (·.key == some key) then (s, none)
    else
      let others := s.otherPackages (ctxid / 4)
      (s.openExchange .query (some key) none ctxid 0 [] others ⟨.conflict, []⟩ (fun id => .domQuery id ctxid dom) others,
        none)

/-- Waiter of the remote reads of a launch. -/
def tokenLaunch (p : Nat) (id : BitVec 32) : Nat := 8 * (p * 2 ^ 32 + id.toNat) + 6

/-- Is anybody there for a token (task, domain, launch)? -/
def State.awaits (s : State) (token : Nat) : Bool :=
  if token % 8 = 0 then (s.task? (token / 8)).isSome
  else if token % 8 = 7 then s.doms.any fun d => d.ctxid * 2 ^ 32 + d.id == token / 8
  else s.launches.any fun l => tokenLaunch l.part l.id == token

/-- An outcome reaches its waiter; a task that parked for it becomes READY. -/
def State.answerTo (s : State) (key : Nat × Nat) (r : CapResult) : State :=
  if !s.awaits key.1 then s
  else
    let s : State := { s with answers := s.answers ++ [(key, r)] }
    if key.1 % 8 ≠ 0 then s
    else match s.task? (key.1 / 8) with
      | none => s
      | some t => if t.wait = .capChange ∨ t.wait = .tlbinv ∨ t.wait = .claim then s.wake t else s

/-- An exchange is over: its outcome goes to whoever waits here, or to the package that asked. -/
def State.endExchange (s : State) (x : Exchange) (r : CapResult) : State :=
  let s : State := { s with exchanges := s.exchanges.filter (·.id != x.id) }
  match x.origin, x.key with
  | some (p, id), _ => s.send p (s.deviceWho x.ctxid) (.capResult id r)
  | none, some k => s.answerTo k r
  | none, none => s

/-- Is an exchange over: every package has confirmed, and here every access checked before has been performed? -/
def State.over (s : State) (x : Exchange) : Bool :=
  x.left.isEmpty && match x.kind with
    | .asked => false
    | .made => s.drained (x.ctxid / 4)
    | .query => true

/-- A change that another package asked for is made on the table, which lies here (14_containment.md R352). -/
def State.makeChange (s : State) (src id ctxid : Nat) (steps : List CapStep) : State :=
  let (s', xs) := s.capSteps ctxid steps
  let r := outcomeOf steps xs
  let cs := changesOf steps xs
  if s.recipientGone ctxid steps then s.send src (s.deviceWho ctxid) (.capResult id ⟨.gone, []⟩)
  else if r.verdict ≠ .done ∨ cs = [] then s.send src (s.deviceWho ctxid) (.capResult id r)
  else
    let others := (s.otherPackages (ctxid / 4) ++ [src]).eraseDups
    (s'.entriesChanged ctxid cs).openExchange .made none (some (src, id)) ctxid 0 steps others r
      (fun id => .invalidate id ctxid (.caps cs)) others

/-- An exchange that is over: a question about a recipient, on behalf of a change that another package asked for, leads to
the change (14_containment.md R353). -/
def State.finishExchange (s : State) (x : Exchange) : State :=
  match x.kind, x.origin with
  | .query, some (src, id) =>
    let s : State := { s with exchanges := s.exchanges.filter (·.id != x.id) }
    if x.result.verdict = .done then s.makeChange src id x.ctxid x.steps
    else s.send src (s.deviceWho x.ctxid) (.capResult id ⟨.gone, []⟩)
  | _, _ => s.endExchange x x.result

/-- Exchanges that are over end, and confirmations that are owed are sent. -/
def State.settleExchanges (s : State) : State :=
  let s := (s.exchanges.filter s.over).foldl (fun s x => s.finishExchange x) s
  let (due, rest) := s.confirms.partition fun c => s.drained (c.ctxid / 4)
  due.foldl (fun s c => s.send c.pkg (s.deviceWho c.ctxid) (.confirmed c.id)) { s with confirms := rest }

/-- Changes an exchange. -/
def State.modExchange (s : State) (id : Nat) (f : Exchange → Exchange) : State :=
  { s with exchanges := s.exchanges.map fun x => if x.id = id then f x else x }

/-- A package has confirmed. -/
def State.takeConfirmed (s : State) (src id : Nat) : State :=
  s.modExchange id fun x => { x with left := x.left.filter (· != src) }

/-- What an invalidation reaches is dropped here; for a page, every leaf that translates a byte of it. -/
def State.dropReach (s : State) (ctxid : Nat) : Reach → State
  | .caps ms => s.entriesChanged ctxid ms
  | .leaves (some page) => s.forget (· / 4 == ctxid / 4) (some page)
  | .leaves none => (s.forget (· / 4 == ctxid / 4) none).dropCaps fun c _ => c / 4 == ctxid / 4

/-- An invalidation of another package: the entries are dropped, and the confirmation is owed. -/
def State.takeInvalidate (s : State) (src id ctxid : Nat) (reach : Reach) : State :=
  let s := s.dropReach ctxid reach
  { s with confirms := s.confirms ++ [⟨src, id, ctxid⟩] }

/-- Another package asks for a change of the table that lies here. The recipient of a give is checked here, at the entry:
where the table of domains here does not hold it, the other packages are asked first (14_containment.md R352, R353). -/
def State.takeChange (s : State) (src id ctxid : Nat) (steps : List CapStep) : State :=
  match (steps.findSome? (·.recipient)).filter fun h => (s.dom? ctxid h).isNone with
  | none => s.makeChange src id ctxid steps
  | some h =>
    let others := s.otherPackages (ctxid / 4)
    s.openExchange .query none (some (src, id)) ctxid 0 steps others ⟨.conflict, []⟩ (fun id => .domQuery id ctxid h) others

/-- The outcome of a change asked of the table's home. -/
def State.takeResult (s : State) (id : Nat) (r : CapResult) : State :=
  match s.exchanges.find? (·.id == id) with
  | none => s
  | some x =>
    let s := if r.verdict = .done then s.logMoves x.ctxid x.log (movesOf x.steps r.steps) else s
    s.endExchange x r

/-- The answer to a question about a domain. -/
def State.takeDomAnswer (s : State) (src id : Nat) (yes : Bool) : State :=
  s.modExchange id fun x => { x with
    left := if yes then [] else x.left.filter (· != src), result := if yes then ⟨.done, []⟩ else x.result }

/-- A change or invalidation of a task has been made in every package (CAPABILITY_CHANGE_COMPLETE, TLBINV_COMPLETE): it
ends once the accesses checked before have been performed here. -/
def State.confirmAll (s : State) (uid : Nat) : State :=
  (s.exchanges.filter fun x => x.kind == .made && x.key.any (·.1 == tokenTask uid)).foldl (fun s x =>
    if s.drained (x.ctxid / 4) then s.endExchange x x.result else s.modExchange x.id ({ · with left := [] })) s

/-- Purposes of the changes that one waiter may wait for. -/
def forChange : Nat := 0
/-- The question about a recipient. -/
def forQuery : Nat := 1
/-- The commit of a domain. -/
def forCommit : Nat := 2
/-- The clearance of a domain. -/
def forClear : Nat := 3
/-- The moves undone by a replay. -/
def forUndo : Nat := 4
/-- The claim of a slice. -/
def forClaim : Nat := 5
/-- An invalidation of translations. -/
def forLeaves : Nat := 6
/-- The pages of a domain to be opened, in a table of another package. -/
def forCheck : Nat := 7

end Sys2Proof.Machine
end

