-- ==== Sys2Proof/Machine/Launches.lean ====
section
/-! DEFINITION. Ends of work: discarded tasks, failed launches, replays of domains, clearance (01_machine.md R28 to R31;
14_containment.md R363 to R377). -/

namespace Sys2Proof.Machine

/-- Dissolves a gang: each member goes on alone once it has executed what it holds of the leader's stream
(05_tasks.md R151). -/
def State.dissolve (s : State) (uid : Nat) : State :=
  match (s.task? uid).bind (·.gang) with
  | none => s
  | some g =>
    { s with tasks := s.tasks.map fun t =>
        if g.members.contains t.uid then
          match t.gang with
          | some h => { t with gang := if h.stream.isEmpty then none else some { h with members := [] } }
          | none => t
        else t }

/-- Tasks in the slots of a core. -/
def State.slotTasks (s : State) (ci : Nat) : List Task := s.tasks.filter fun t => !t.spilled && t.ci == ci

/-- Steps 1 and 2 of a pre-emption: issue stops, the gangs on the core dissolve; a core that is pre-empted already is
left as it is (05_tasks.md R154, 15_faults.md R392). `notices` are the partitions told beside those with tasks on it. -/
def State.stopCore (s : State) (ci : Nat) (notices : List Nat) (quiet : Bool) : State :=
  if (s.core ci).preempted || (s.core ci).stopping then s
  else
    let s := (s.slotTasks ci).foldl (fun s t => s.dissolve t.uid) s
    s.modCore ci fun c => { c with stopping := true, notices := notices, quiet := quiet }

/-- A pre-emption asked for by a partition's `MIRQ`, or by no partition (05_tasks.md R154). -/
def State.requestPreempt (s : State) (ci : Nat) (by_ : Option Nat) : State := s.stopCore ci by_.toList false

/-- Copies of a task still queued on a core's channels are cancelled (12_copy.md R316). -/
def CopyChan.cancel (c : CopyChan) (f : Nat → Bool) : CopyChan :=
  { c with copies := c.copies.filter fun x => !f x.uid }

/-- What a core drops when tasks are discarded: slots, ready list, queued instructions that have not started, copies;
started instructions complete and drop their flags (14_containment.md R366; 06_vector.md R167; 08_matrix.md R232).
`started` says which matrix instructions have asked for bytes of other packages; they go on for the task they had. -/
def Core.drop (c : Core) (f started : Nat → Bool) (issuer : Nat → Option Task) : Core :=
  { c.withQueue ((c.vq.filter fun e => !f e.uid || e.started).map fun e =>
      if f e.uid then { e with dropped := true } else e) with
    running := c.running.filter fun u => !f u
    ready := c.ready.filter fun u => !f u
    stalled := c.stalled && !(c.running.any f)
    mq := (c.mq.filter fun e => !f e.uid || e.steps != 0 || e.placed || e.stored || started e.serial).map
      fun e => if f e.uid then { e with dropped := true, issuer := e.issuer.or (issuer e.uid) } else e
    chans := c.chans.map (·.cancel f)
    diverted := c.diverted.filter fun
      | .wake u | .resend u _ => !f u
      | .chainEnd m => !f m.task
      | .chainFault m => !f m.task
      | _ => true }

/-- Arrivals of discarded tasks are withdrawn from a table of barriers (11_order.md R303). -/
def withdraw (f : Nat → Bool) (bs : Table Barrier) : Table Barrier :=
  (bs.map fun (k, b) => (k, { b with arrived := b.arrived.filter fun u => !f u })).filter fun e => e.2 != {}

/-- Who a fault target belongs to, when it is a task. -/
def FaultTarget.ofTask (f : Nat → Bool) : FaultTarget → Bool
  | .task u | .lanes u _ => f u
  | _ => false

/-- Ended tasks of which vector instructions are still queued (13_fabric.md R344). -/
def State.orphans (s : State) : List Task := s.cores.flatMap fun x => x.2.vq.filterMap (·.issuer)

/-- The far atomic that a task waits for, as its task goes: it may still write, which marks the domain, and it is in flight
until its reply is dropped (10_atomics.md R284). -/
def State.abandonAtomic (s : State) (t : Task) : State :=
  match t.wait with
  | .atomic _ _ _ _ _ _ _ target =>
    let s := s.markTo t.ctxid t.domain target
    { s with fab := { s.fab with stray := s.fab.stray ++ [(t.uid, t.part)] } }
  | _ => s

/-- Discards tasks: their slots become FREE, replies to them are dropped, their fault entries become VOID
(14_containment.md R366 step 1; 15_faults.md R409). -/
def State.discardTasks (s : State) (f : Task → Bool) : State :=
  let gone := s.tasks.filter f
  let uids := gone.map (·.uid) ++ (s.orphans.filter f).map (·.uid)
  let isGone := fun u => uids.contains u
  let s := gone.foldl (fun s t => (s.dissolve t.uid).abandonAtomic t) s
  let vserials := s.cores.flatMap fun (_, c) => (c.vq.filter fun e => isGone e.uid).map fun e => e.serial
  let asked := fun n => s.reads.any fun r => r.token == tokenMatrix n
  let mserials := s.cores.flatMap fun (_, c) => (c.mq.filter fun e => isGone e.uid && !asked e.serial).map fun e => e.serial
  let cserials := s.cores.flatMap fun (_, c) =>
    c.chans.toList.flatMap fun ch => (ch.copies.filter fun x => isGone x.uid).map fun x => x.serial
  let s := s.voidEntries fun tg => tg.ofTask isGone || match tg with
    | .vector _ n => vserials.contains n
    | .matrix _ n => mserials.contains n
    | .copy _ _ n => cserials.contains n
    | _ => false
  let s := { s with
    tasks := s.tasks.filter fun t => !f t
    reads := s.reads.filter fun r => !((r.token % 8 = 0 && isGone (r.token / 8))
      || (r.token % 8 = 1 && vserials.contains (r.token / 8)) || (r.token % 8 = 2 && mserials.contains (r.token / 8))
      || (r.token % 8 = 3 && cserials.contains (r.token / 8)))
    cores := s.cores.map fun (k, c) => (k, { c.drop isGone asked s.task? with barriers := withdraw isGone c.barriers })
    quads := s.quads.map fun (k, q) => (k, { q with barriers := withdraw isGone q.barriers })
    dies := s.dies.map fun (k, d) => (k, { d with barriers := withdraw isGone d.barriers })
    parts := s.parts.map fun (k, p) => (k, { p with barriers := withdraw isGone p.barriers }) }
  (gone.map (·.ci)).foldl (fun s ci => s.switch ci) s

/-- Removes queue entries; fault entries for them become VOID. -/
def State.discardEntries (s : State) (f : QEntry → Bool) : State :=
  let ages := s.dies.flatMap fun (_, d) => (d.queue.filter f).map (·.age)
  let s := s.voidEntries fun
    | .lease _ a | .record _ a => ages.contains a
    | _ => false
  { s with dies := s.dies.map fun (k, d) => (k, { d with queue := d.queue.filter fun e => !f e }) }

/-- The launch with an id. -/
def State.launch? (s : State) (p : Nat) (id : BitVec 32) : Option Launch :=
  s.launches.find? fun l => l.part == p && l.id == id

/-- Context of a launch, as an index of `ctxs`. -/
def Launch.ctxid (l : Launch) : Nat := 4 * l.part + l.ctx

/-- Changes a launch. -/
def State.modLaunch (s : State) (p : Nat) (id : BitVec 32) (f : Launch → Launch) : State :=
  { s with launches := s.launches.map fun l => if l.part = p ∧ l.id = id then f l else l }

/-- An event of a launch is to be posted (01_machine.md R28, R30): 1 DONE, 2 CLEARED, 3 REPLAY, 4 FAILED. -/
def State.postEvent (s : State) (l : Launch) (event status cause : BitVec 8) (sid : Nat) : State :=
  { s with posts := s.posts ++ [⟨l.part, l.ctx, if cause = 0 then 0 else sid, cause, status, event, l.tag, l.id⟩] }

/-- Clears every claim of a context's arena (14_containment.md R375): the headers of slices `from_` on. -/
def State.clearClaims (s : State) (ctxid first count : Nat) : State :=
  let c := s.ctx ctxid
  let ss := 2 ^ field c.alloccfg.toNat 0 5
  (List.range count).foldl (fun s i =>
    match s.lookup ctxid .load (c.arbase + BitVec.ofNat 64 ((first + i) * ss)) with
    | .ok (_, l) =>
      if l.pkg = s.svc.packageId then
        let s := s.serve l.pa
        let w := s.word (l.pa + 8) 8
        if w % 2 = 1 then s.pokeNat (l.pa + 8) 8 (w - 1) else s
      else s.send l.pkg (s.deviceWho ctxid) (.store ⟨s.deviceWho ctxid, [(l.pa + 8, leBytes 8 0)]⟩)
    | .error _ => s) s

/-- Slices of one generation region of a context's arena, NS (14_containment.md R373). -/
def State.slices (s : State) (ctxid : Nat) : Nat :=
  let c := s.ctx ctxid
  c.arlen.toNat / (4 * 2 ^ field c.alloccfg.toNat 0 5)

/-- A launch reaches its final event: the claims of its arena are cleared (14_containment.md R375). -/
def State.endLaunch (s : State) (l : Launch) : State :=
  let s := { s with launches := s.launches.filter fun x => !(x.part == l.part && x.id == l.id) }
  let n := s.slices l.ctxid
  if n = 0 then s else s.clearClaims l.ctxid 0 (4 * n)

/-- The capabilities a domain holds go to `to_`. -/
def Dom.releaseSteps (d : Dom) (to_ : Nat) : List CapStep :=
  d.pages.map fun p => { page := p, holders := some [d.id], new := some to_ }

/-- The pages of a domain's save area (14_containment.md R361). -/
def Dom.savePages (d : Dom) : List Nat := pagesOf d.save (copiedLength d.ranges)

/-- The save area's capabilities go to `to_`. -/
def Dom.saveSteps (d : Dom) (to_ : Nat) : List CapStep :=
  d.savePages.map fun p => { page := p, holders := some [preserved], new := some to_ }

/-- The pages of a domain's frozen inputs, each once. -/
def Dom.frozenPages (d : Dom) : List Nat :=
  ((d.ranges.filter (·.kind == .frozen)).flatMap fun r => pagesOf r.base r.len).eraseDups

/-- FRZ falls by one on each frozen page. -/
def Dom.thawSteps (d : Dom) : List CapStep := d.frozenPages.map fun p => { page := p, frz := .down }

/-- Does a domain still hold its preserved inputs (14_containment.md R358)? -/
def Dom.preserves (d : Dom) : Bool := d.state == .provisional || d.state == .committed

/-- Waiter of the remote reads made for a domain. -/
def tokenDom (d : Dom) : Nat := 8 * (d.ctxid * 2 ^ 32 + d.id) + 7

/-- Has the clearance of a domain been made, or is it under way: its save area is given away and its frozen counts are
removed once (14_containment.md R352, R368)? -/
def State.clearanceBegun (s : State) (d : Dom) : Bool :=
  s.exchanges.any (·.key == some (tokenDom d, forClear)) || s.answers.any (·.1 == (tokenDom d, forClear))

/-- Domains of a launch or partition are discarded without replay: capabilities and save areas to the free pool, frozen
counts removed, those of one that a replay discarded and has not undone among them (14_containment.md R377). -/
def State.discardDoms (s : State) (f : Dom → Bool) : State :=
  (s.doms.filter f).foldl (fun s d =>
    (s.change d.ctxid 0 (d.releaseSteps 0 ++
      if (d.preserves || d.held) && !s.clearanceBegun d then d.saveSteps 0 ++ d.thawSteps else [])).freeDom d.ctxid d.id) s

/-- Ends a launch with FAILED: its tasks and queue entries are discarded, its domains discarded without replay
(01_machine.md R31, 14_containment.md R377). A launch marked by a partition reset keeps its record for step 6 of the
reset (16_system.md R414). -/
def State.failLaunch (s : State) (p : Nat) (id : BitVec 32) (status cause : BitVec 8) (sid : Nat) : State :=
  match s.launch? p id with
  | none => s
  | some l =>
    let s := s.discardTasks fun t => t.part == p && t.launchid == id
    let s := s.discardEntries fun e => e.ctxid / 4 == p && e.launch == id
    let s := s.voidEntries fun
      | .launch i => i == id
      | _ => false
    let s := s.discardDoms fun d => d.ctxid / 4 == p && d.launch == id
    if (s.part p).resetting then s else (s.postEvent l 4 status cause sid).endLaunch l

/-- Adds one to a field of the partition's statistics block, saturating (14_containment.md R376). -/
def State.statistic (s : State) (p index : Nat) : State :=
  let area := field (s.part p).domarea.toNat 16 25 * 0x10000
  if area = 0 then s
  else
    let s := s.serve area
    let v := s.word (area + 8 * index) 8
    if v = 2 ^ 64 - 1 then s else s.pokeNat (area + 8 * index) 8 (v + 1)

/-- Outcome of a device read of a record (09_memory.md R449). -/
inductive RecordRead where
  | bytes (bs : List Byte)
  | pending
  | fault (va : Word) (f : PageFault)
deriving DecidableEq, Repr

/-- Reads `n` bytes in pieces of 64 with a context's page table, unchecked against ranges (09_memory.md R449). -/
def State.recordRead (s : State) (ctxid token : Nat) (who : Who) (va : Word) : Nat → State × RecordRead
  | 0 => (s, .bytes [])
  | n + 1 =>
    match s.translate ctxid .record va with
    | (s, .error f) => (s, .fault va f)
    | (s, .ok l) =>
      match (s.noteAccess l).readAt who token l 64 with
      | (s, none) => (s, .pending)
      | (s, some bs) =>
        match s.recordRead ctxid token who (va + 64) n with
        | (s, .bytes rest) => (s, .bytes (bs ++ rest))
        | r => r

/-- Waiter of the remote reads of a queue entry. -/
def tokenEntry (age : Nat) : Nat := 8 * age + 5

/-- Who reads for a queue entry. -/
def State.entryWho (s : State) (e : QEntry) : Who :=
  ⟨0, 0, e.ctxid, (s.part (e.ctxid / 4)).epoch, e.domain, e.launch⟩

/-- A device write of a doubleword of a record: unchecked, with the owner tag given (05_tasks.md R120). -/
def State.deviceWrite (s : State) (ctxid : Nat) (who : Who) (va v : Word) (tag : Tag) : State :=
  match s.lookup ctxid .record va with
  | .error _ => s
  | .ok (_, l) =>
    if l.pkg = s.svc.packageId then ((s.serve l.pa).pokeNat l.pa 8 v.toNat).setTag l.pa tag
    else s.send l.pkg who (.store ⟨who, [(l.pa, leBytes 8 v.toNat)]⟩)

/-- What came of reading the record of a root task or respawned task. -/
inductive Prepared where
  | ready (e : QEntry)
  | wait (e : QEntry)
  | malformed
deriving DecidableEq, Repr

/-- A record-read fault of a queue entry: an entry of KIND 1 and ACC 14 (09_memory.md R449). -/
def State.recordFault (s : State) (d : Nat) (e : QEntry) (tg : FaultTarget) (acc : Acc) (va : Word) (f : PageFault) :
    State :=
  s.postEntry d { target := tg, part := e.ctxid / 4, ctxid := e.ctxid, sid := d * 4096, vaddr := va,
                  record := e.record, cause := f.cause, kind := 1, acc := acc.code, why := f.why, level := f.level }

/-- Reads and checks the record of an entry whose task the device spawns, captures its fields and writes its SEQ
(01_machine.md R26 step 2, 05_tasks.md R119 to R121, 14_containment.md R366 step 6). -/
def State.prepare (s : State) (d : Nat) (e : QEntry) : State × Prepared :=
  let who := s.entryWho e
  let tk := tokenEntry e.age
  match s.recordRead e.ctxid tk who e.record 1 with
  | (s, .pending) => (s, .wait e)
  | (s, .fault va f) => (s.recordFault d e (.record d e.age) .record va f, .wait { e with state := .waiting 1 })
  | (s, .bytes bs) =>
    match parseTask bs (!e.respawn) with
    | none => (s, .malformed)
    | some r =>
      let table := if r.table = 0 then (s, RecordRead.bytes []) else s.recordRead e.ctxid tk who r.table 1
      match table with
      | (s, .pending) => (s, .wait e)
      | (s, .fault va f) =>
        (s.recordFault d e (.record d e.age) .record va f, .wait { e with state := .waiting 1 })
      | (s, .bytes tb) =>
        match parseRanges tb with
        | none => (s, .malformed)
        | some rs =>
          let tag := if e.domain = 0 then Tag.work ⟨0, e.ctxid, e.launch⟩ else .work ⟨e.domain, e.ctxid, e.launch⟩
          let s := (s.dropReads tk).deviceWrite e.ctxid who (e.record + 56) e.seq tag
          (s, .ready { e with unread := false, pc := r.pc, ranges := rs, args := r.args, aff := r.aff })

/-- Puts an entry into a die's queue. -/
def State.enqueue (s : State) (d : Nat) (e : QEntry) : State := s.modDie d fun x => { x with queue := x.queue ++ [e] }

/-- An entry of a task the device spawns enters its queue, its record read; a malformed record fails the launch
(05_tasks.md R119). -/
def State.spawnRoot (s : State) (d : Nat) (e : QEntry) : State :=
  match s.prepare d e with
  | (s, .ready e) => s.enqueue d e
  | (s, .wait e) => s.enqueue d e
  | (s, .malformed) => s.failLaunch (e.ctxid / 4) e.launch 2 1 0

/-- A hardware error of work with no domain to replay fails its launch with HWERR (01_machine.md R31). The record's CAUSE
and slot are 0 there and for BUDGET: the model's choice (R28; log entry 98). -/
def State.hwerr (s : State) (p : Nat) (id : BitVec 32) : State := s.failLaunch p id 4 0 0

/-- What the choice of R365 comes to. -/
inductive Choice where
  | stop
  | hwerr
  | budget
  | replay (id : Nat) (moved : Bool)
deriving DecidableEq, Repr

/-- The choice of the domain to replay, from a charged domain (14_containment.md R365). -/
def State.choose (s : State) (ctxid : Nat) : Nat → Nat → Bool → Choice
  | 0, _, _ => .hwerr
  | n + 1, id, moved =>
    match s.dom? ctxid id with
    | none => .hwerr
    | some d =>
      if d.state = .discarded then .stop
      else if d.state = .cleared then if d.parent = 0 then .stop else s.choose ctxid n d.parent true
      else if d.state = .committed ∧ d.parent ≠ 0 then s.choose ctxid n d.parent true
      else if s.escOf d ≠ d.id then if s.escOf d = 0 then .hwerr else s.choose ctxid n (s.escOf d) true
      else if d.replays = 0 then if d.parent = 0 then .budget else s.choose ctxid n d.parent true
      else .replay d.id moved

/-- Logged moves are undone, newest first; a capability that is not where its move left it refuses
(14_containment.md R366 step 3, R367). -/
def undoSteps (ms : List Move) : List CapStep :=
  ms.map fun m => { page := m.page, holders := some [m.new], new := some m.old, strict := true }

/-- Inserts by falling age. -/
def insertMove (m : Move) : List Move → List Move
  | [] => [m]
  | x :: xs => if x.age ≤ m.age then m :: x :: xs else x :: insertMove m xs

/-- Moves sorted newest first. -/
def newestFirst (ms : List Move) : List Move := ms.foldr insertMove []

/-- Who reads and writes for a domain. -/
def State.domWho (s : State) (d : Dom) : Who := ⟨0, 0, d.ctxid, (s.part (d.ctxid / 4)).epoch, d.id, d.launch⟩

/-- Reads lines of 64 virtual bytes for a domain; `none` while replies from other packages are outstanding. A line of a
page that is not there is left out, as no bytes. -/
def State.gather (s : State) (d : Dom) : List Nat → State × Option (List (List Byte))
  | [] => (s, some [])
  | va :: rest =>
    let (s, x) := match s.lookup d.ctxid .record (BitVec.ofNat 64 va) with
      | .ok (_, l) => (s.noteAccess l).readAt (s.domWho d) (tokenDom d) l 64
      | .error _ => (s, some [])
    match x, s.gather d rest with
    | some bs, (s, some bss) => (s, some (bs :: bss))
    | _, (s, _) => (s, none)

/-- Writes bytes at virtual lines for a domain, with its owner tag. -/
def State.scatter (s : State) (d : Dom) : List (Nat × List Byte) → State
  | [] => s
  | (va, bs) :: rest =>
    let s : State := if bs.isEmpty then s
      else match s.lookup d.ctxid .record (BitVec.ofNat 64 va) with
        | .ok (_, l) =>
          if l.pkg = s.svc.packageId then ((s.serve l.pa).poke l.pa bs).setTag l.pa (whoTag (s.domWho d))
          else s.send l.pkg (s.domWho d) (.store ⟨s.domWho d, [(l.pa, bs)]⟩)
        | .error _ => s
    s.scatter d rest

/-- The lines of a domain's copied ranges, each with its line in the save area (14_containment.md R361). -/
def Dom.lines (d : Dom) : List (Nat × Nat) :=
  (copiedRanges d.save d.ranges).flatMap fun (r, at_) =>
    (List.range (r.len / 64)).map fun i => (r.base + 64 * i, at_ + 64 * i)

/-- Takes a domain's snapshot: its copied ranges into the save area, with the domain's owner tag
(DOMAIN_SNAPSHOT_COMPLETE, 14_containment.md R361); it waits for lines of other packages. -/
def State.takeSnapshot (s : State) (d : Dom) : State :=
  match s.gather d (d.lines.map (·.1)) with
  | (s, none) => s
  | (s, some bss) =>
    ((s.scatter d ((d.lines.map (·.2)).zip bss)).dropReads (tokenDom d)).modDom d.ctxid d.id ({ · with snapshot := true })

/-- Restores a domain's copied inputs (14_containment.md R366 step 4); `none` while lines of other packages are read. -/
def State.restoreInputs (s : State) (d : Dom) : State × Bool :=
  match s.gather d (d.lines.map (·.2)) with
  | (s, none) => (s, false)
  | (s, some bss) => ((s.scatter d ((d.lines.map (·.1)).zip bss)).dropReads (tokenDom d), true)

/-- Sender's key of a channel and destination, and receiver's of a channel and source. -/
def pairKey (ch pkg : Nat) : Nat := ch * 1024 + pkg

/-- EP of a send pair (13_fabric.md R330). -/
def SendPair.ep (x : SendPair) : BitVec 8 := BitVec.ofNat 8 x.flags

/-- The state of a send pair that nothing has changed. -/
def SendPair.idle : SendPair := {}
/-- The state of a receive pair that nothing has changed. -/
def RecvPair.idle : RecvPair := {}

/-- Sender's state of a channel and destination. -/
def State.sender (s : State) (ch dst : Nat) : SendPair := Sparse.read SendPair.idle s.fab.senders (pairKey ch dst)
/-- Replaces it. -/
def State.setSender (s : State) (ch dst : Nat) (x : SendPair) : State :=
  { s with fab := { s.fab with senders := Sparse.write SendPair.idle s.fab.senders (pairKey ch dst) x } }
/-- Receiver's state of a channel and source. -/
def State.receiver (s : State) (ch src : Nat) : RecvPair := Sparse.read RecvPair.idle s.fab.receivers (pairKey ch src)
/-- Replaces it. -/
def State.setReceiver (s : State) (ch src : Nat) (x : RecvPair) : State :=
  { s with fab := { s.fab with receivers := Sparse.write RecvPair.idle s.fab.receivers (pairKey ch src) x } }

/-- A control message of the device for a channel, under the partition it is allotted to. -/
def State.chanWho (s : State) (ch : Nat) : Who :=
  s.deviceWho (4 * ((Sparse.read (0 : Byte) s.fab.allot ch).toNat % 16))

/-- A pair is set to a base under the next generation and RESYNC is sent; its counted traffic waits for the
acknowledgement. The log forgets what came after the base, and of the base's epoch what the replayed domains sent
(13_fabric.md R336, R337). -/
def State.resyncPair (s : State) (ch dst : Nat) (sent : BitVec 32) (flags : Nat) (gone : Nat → Nat → Bool) : State :=
  let x := s.sender ch dst
  let x := { x with
    sent := sent, flags := flags, gen := x.gen + 1, resync := true, base := (sent, BitVec.ofNat 8 flags)
    log := x.log.filter fun c => c.flags < flags || (c.flags == flags && !gone c.ctxid c.dom)
    bases := x.bases.filter fun b => !gone b.ctxid b.dom }
  (s.setSender ch dst x).send dst (s.chanWho ch) (.resync ⟨ch, x.gen, sent, x.ep⟩)

/-- Every channel and destination that a replayed domain wrote takes a new generation from the domain's base; `gone` are
the domains of its tree (13_fabric.md R336, R337). -/
def State.resyncDomain (s : State) (ctxid id : Nat) (gone : Nat → Nat → Bool) : State :=
  s.fab.senders.foldl (fun s (k, x) =>
    match x.bases.find? fun b => b.ctxid == ctxid && b.dom == id with
    | some b => s.resyncPair (k / 1024) (k % 1024) b.sent b.flags gone
    | none => s) s

/-- Why a replay starts, for the statistics block (14_containment.md R376): index of the field. -/
inductive ReplayKind where
  | check | scan | request
deriving DecidableEq, Repr

/-- Index of the statistics field of a kind. -/
def ReplayKind.index : ReplayKind → Nat
  | .check => 1 | .scan => 2 | .request => 3

/-- Is a domain in the tree below `top`, itself included? -/
def State.inTree (s : State) (ctxid top : Nat) (x : Dom) : Bool := x.ctxid == ctxid && s.within ctxid x.id top

/-- A replay is counted, and posted as REPLAY when its launch is done (14_containment.md R376, 01_machine.md R30). One that
begins after a REPLAY was posted and before the new DONE posts no second REPLAY: the model's choice (log entry 98). -/
def State.noteReplay (s : State) (d : Dom) (kind : ReplayKind) (moved : Bool) : State :=
  let p := d.ctxid / 4
  let s : State := (s.statistic p 0).statistic p kind.index
  let s : State := if moved then s.statistic p 4 else s
  match s.launch? p d.launch with
  | none => s
  | some l =>
    if l.stage = LaunchStage.done then
      (s.postEvent l 3 0 0 0).modLaunch p d.launch ({ · with stage := .running })
    else s

/-- Steps 1 and 2 of a replay: the work of the tree is discarded and the descendants become DISCARDED
(14_containment.md R366). The root's queue entry stays while the snapshot is incomplete (log entry 14). -/
def State.replayDiscard (s : State) (d : Dom) : State :=
  let tree := s.doms.filter (s.inTree d.ctxid d.id)
  let ids := tree.map (·.id)
  let s : State := s.discardTasks fun t => t.ctxid == d.ctxid && ids.contains t.domain
  let s : State := s.discardEntries fun e =>
    e.ctxid == d.ctxid && ids.contains e.domain && (d.snapshot || e.domain != d.id)
  { s with doms := s.doms.map fun x => if x.ctxid = d.ctxid ∧ ids.contains x.id ∧ x.id ≠ d.id then
      { x with state := .discarded, held := x.held || x.preserves } else x }

/-- Have the writes of a tree that were checked under the entries that its replay changes been performed, and are no
changes of its capabilities under way (14_containment.md R352)? -/
def State.treeQuiet (s : State) (d : Dom) : Bool :=
  let tree := s.doms.filter (s.inTree d.ctxid d.id)
  let mine := fun (w : Who) => w.ctxid == d.ctxid && tree.any (·.id == w.dom)
  s.requests.all (fun r => !mine r.who) && s.fab.out.all (fun m => !mine m.who)
    && s.exchanges.all fun x => !(x.ctxid == d.ctxid && tree.any (·.id == x.log))
      && x.key.all fun k => k == (tokenDom d, forUndo) || tree.all (tokenDom · != k.1)

/-- The moves of a replay's tree undone, newest first, and the frozen counts of its descendants removed
(14_containment.md R366 steps 2 and 3). -/
def State.replaySteps (s : State) (d : Dom) : List CapStep :=
  let tree := s.doms.filter (s.inTree d.ctxid d.id)
  undoSteps (newestFirst (tree.flatMap (·.moves)))
    ++ (tree.filter fun x => x.id != d.id && x.held).flatMap Dom.thawSteps

/-- Step 3 of a replay is made: the moves of the tree are gone, its descendants' entries freed, the counted channels that
it wrote take a new generation, the record of quads used is emptied (14_containment.md R366). That the entries and ids of
the DISCARDED descendants are freed here, at once, is the model's choice (R357, R368; log entry 110). -/
def State.replayUndone (s : State) (d : Dom) : State :=
  let tree := s.doms.filter (s.inTree d.ctxid d.id)
  let s : State := s.modDom d.ctxid d.id ({ · with moves := [], undoing := false })
  let s : State := (tree.filter (·.id != d.id)).foldl (fun (s : State) x => s.freeDom d.ctxid x.id) s
  let s : State := s.resyncDomain d.ctxid d.id fun c id => c == d.ctxid && tree.any (·.id == id)
  { s.modDom d.ctxid d.id ({ · with dies := [] }) with quads := s.quads.map fun (k, q) =>
      (k, { q with ran := q.ran.filter fun w => !(w.ctxid == d.ctxid && tree.any (·.id == w.dom)) }) }

/-- The first line of a domain's save area in this package that is poisoned or in error (14_containment.md R366). -/
def State.saveBroken (s : State) (d : Dom) : Option Nat :=
  d.lines.findSome? fun (_, va) => match s.lookup d.ctxid .record (BitVec.ofNat 64 va) with
    | .ok (_, l) =>
      if l.pkg == s.svc.packageId && (s.poison.contains (lineOf l.pa)
        || s.flips.any fun (k, m) => lineOf (8 * k) == lineOf l.pa && 2 ≤ countBits 64 m.toNat) then some l.pa else none
    | .error _ => none

/-- Steps 4 to 6 of a replay: inputs restored, marks and budget, the root spawned again (14_containment.md R366). The
root enters its queue however full that is: the model's choice (05_tasks.md R121; log entry 109). -/
def State.replayRestart (s : State) (d : Dom) : State :=
  if (s.saveBroken d).isSome then s
  else match s.restoreInputs d with
  | (s, false) => s
  | (s, true) =>
  let s : State := s.modDom d.ctxid d.id fun x => { x with
    restoring := false, sent := false, esc := d.id, replays := x.replays - 1, primarySum := 0, shadowSum := 0 }
  let e : QEntry := { age := s.clock, unread := true, respawn := true, root := true, record := d.root, ctxid := d.ctxid, launch := d.launch,
                      prio := d.rootPrio, pc := 0, ranges := [], args := [], aff := none, seq := d.rootSeq,
                      phase := d.rootPhase, bar := d.rootBar, domain := d.id, ag := d.rootAg }
  s.tick.spawnRoot d.rootDie e

/-- A replay begins, or begins again after a hardware error during it, which consumes a replay (DOMAIN_REPLAY,
14_containment.md R366). It is counted and posted here, before step 3 can be refused: the model's choice (R367, R376;
18_programs_fabric.md R444; log entry 111). -/
def State.beginReplay (s : State) (d : Dom) (kind : ReplayKind) (moved : Bool) : State :=
  let again := d.undoing || d.restoring
  ((s.noteReplay d kind moved).replayDiscard d).modDom d.ctxid d.id fun x => { x with
    state := .provisional, undoing := true, restoring := false, replays := if again then x.replays - 1 else x.replays }

/-- Step 3 of a replay, when it can be made; a move that cannot be undone fails the launch (14_containment.md R366,
R367). -/
def State.replayUndo (s : State) (d : Dom) : State :=
  if !s.treeQuiet d then s
  else
    let tree := s.doms.filter (s.inTree d.ctxid d.id)
    let s : State := { s with
      doms := s.doms.map fun x => if s.inTree d.ctxid d.id x && s.clearanceBegun x then { x with held := false } else x
      answers := s.answers.filter fun a => a.1 == (tokenDom d, forUndo) || tree.all (tokenDom · != a.1.1) }
    match s.transact (tokenDom d, forUndo) d.ctxid 0 (s.replaySteps d) with
    | (s, none) => s
    | (s, some r) =>
      if r.verdict ≠ .done then s.hwerr (d.ctxid / 4) d.launch
      else
        let s := s.replayUndone d
        if d.snapshot then (s.modDom d.ctxid d.id ({ · with restoring := true })).replayRestart d else s

/-- Replays a domain, as far as it goes at once (DOMAIN_REPLAY, 14_containment.md R366). -/
def State.replay (s : State) (ctxid id : Nat) (kind : ReplayKind) (moved : Bool) : State :=
  match s.dom? ctxid id with
  | none => s
  | some d =>
    let s := s.beginReplay d kind moved
    match s.dom? ctxid id with
    | none => s
    | some d => s.replayUndo d

/-- Acts on a choice of R365; a choice that stops reports so. -/
def State.act (s : State) (ctxid : Nat) (launch : BitVec 32) (kind : ReplayKind) : Choice → State
  | .stop => s
  | .hwerr => s.hwerr (ctxid / 4) launch
  | .budget => s.failLaunch (ctxid / 4) launch 3 0 0
  | .replay id moved => s.replay ctxid id kind moved

/-- A line that cannot be recovered is poisoned, with notice 3 (LINE_POISON, 15_faults.md R397). -/
def State.poisonLine (s : State) (a : Nat) : State :=
  let s := { s with poison := if s.poison.contains (lineOf a) then s.poison else s.poison ++ [lineOf a] }
  let d := homePlace a / 64 % 8
  let va := BitVec.ofNat 64 (64 * lineOf a)
  let id := BitVec.ofNat 64 s.svc.packageId
  let s := s.notice d 0 3 va id
  match s.tag a with
  | .work o => if o.domain ≠ 0 ∧ o.ctxid / 4 ≠ 0 then s.notice d (o.ctxid / 4) 3 va id else s
  | _ => s

/-- A hardware error is charged to the domain or launch of an owner; the line, if it is one, is poisoned where R365
stops (14_containment.md R365; 15_faults.md R396, R399). -/
def State.charge (s : State) (o : Owner) (line : Option Nat) (kind : ReplayKind := .check) : State :=
  let poisoned : State := match line with
    | some a => s.poisonLine a
    | none => s
  if o.domain = 0 then
    match s.launch? (o.ctxid / 4) o.launch with
    | some _ => s.hwerr (o.ctxid / 4) o.launch
    | none => poisoned
  else if (s.dom? o.ctxid o.domain).isNone then poisoned
  else
    match s.choose o.ctxid 32 o.domain false with
    | .stop => poisoned
    | c => s.act o.ctxid o.launch kind c

/-- Do two charges come to the replay of one domain, or to one end of one launch? -/
def sameChoice (x y : Owner × Choice) : Bool :=
  match x.2, y.2 with
  | .replay i _, .replay j _ => x.1.ctxid == y.1.ctxid && i == j
  | c, c' => c == c' && x.1.ctxid == y.1.ctxid && x.1.launch == y.1.launch

/-- Charges several owners at once: of the domains chosen, each once, only those without a chosen ancestor are replayed
(14_containment.md R365). -/
def State.chargeAll (s : State) (os : List Owner) (kind : ReplayKind) : State :=
  let chosen := os.map fun o => (o, if o.domain = 0 then Choice.hwerr else s.choose o.ctxid 32 o.domain false)
  let covered := fun (o : Owner) (id : Nat) => chosen.any fun (o', c) => match c with
    | .replay id' _ => o'.ctxid == o.ctxid && id' != id && s.within o.ctxid id id'
    | _ => false
  let keep := chosen.filter fun (o, c) => match c with
    | .replay id _ => !covered o id
    | _ => true
  let once := keep.foldl (fun (acc : List (Owner × Choice)) x => if acc.any (sameChoice x) then acc else acc ++ [x]) []
  once.foldl (fun s (o, c) => match c with
    | .replay id _ => match s.dom? o.ctxid id with
      | some _ => s.act o.ctxid o.launch kind c
      | none => s
    | _ => s.act o.ctxid o.launch kind c) s

end Sys2Proof.Machine
end

