-- ==== Sys2Proof/Machine/Ops.lean ====
section
/-! DEFINITION. The operations that the meanings share: taking a trap and returning from it, checked accesses, reads and
stores of a task, spawning (15_faults.md R379 to R383, 09_memory.md R236, 05_tasks.md R139). -/

namespace Sys2Proof.Machine

/-- Cause codes (15_faults.md R381). -/
def causeIllegal : BitVec 8 := 0x01
/-- ALIGN. -/
def causeAlign : BitVec 8 := 0x02
/-- CONVOVF. -/
def causeConvovf : BitVec 8 := 0x03
/-- SPARSEOVR. -/
def causeSparseovr : BitVec 8 := 0x04
/-- RANGE. -/
def causeRange : BitVec 8 := 0x05
/-- CAPV. -/
def causeCapv : BitVec 8 := 0x06
/-- RAPV. -/
def causeRapv : BitVec 8 := 0x07
/-- TRAPI. -/
def causeTrapi : BitVec 8 := 0x0B

/-- A task ends as a software error: its launch fails with SWERR and the task's cause and slot (15_faults.md R380,
01_machine.md R31). -/
def State.softwareError (s : State) (t : Task) (cause : BitVec 8) : State :=
  (s.failLaunch t.part t.launchid 2 cause t.sid).discardTasks fun u => u.uid == t.uid

/-- The registers of a task that enters its handler: EPC, CAUSE, HND and the pc; a running REP frame is kept for an
`ERET` to its address (15_faults.md R379, 05_tasks.md R148). -/
def Task.enterHandler (t : Task) (cause : BitVec 8) : Task :=
  { t with
    epc := t.pc
    cause := cause
    hnd := true
    pc := t.trapv
    rep := t.rep.map ({ · with active := false }) }

/-- Takes a precise trap (PRECISE_TRAP, 15_faults.md R379, R380): the handler of the task, or its end without a handler
or within one. The gang of a trapping member dissolves; that member leaves its leader's stream (05_tasks.md R151). -/
def trap (s : State) (t : Task) (cause : BitVec 8) : Out State :=
  if t.hnd || t.trapv = 0 then .next (s.softwareError t cause)
  else .next ((s.dissolve t.uid).putTask { t.enterHandler cause with gang := none })

/-- The registers of a task that returns from its handler: HND and the pc; a frame at that address runs on
(15_faults.md R383, 05_tasks.md R148). -/
def Task.leaveHandler (t : Task) : Task :=
  { t with
    hnd := false
    pc := t.epc
    rep := t.rep.map fun f => { f with active := f.addr == t.epc } }

/-- Returns from a trap handler (15_faults.md R383). -/
def trapReturn (s : State) (t : Task) : Out State :=
  if !t.hnd then trap s t causeIllegal
  else if t.epc.toNat % 4 ≠ 0 then trap s t causeAlign
  else .next (s.putTask t.leaveHandler)

/-- Which rule on writer capabilities an access follows: none, check 7 of a store, the rule of reductions with its mark,
or that of returning atomics, which mark once they write (14_containment.md R350, R351). -/
inductive CapRule where
  | none | store | mark | frozen
deriving DecidableEq, Repr

/-- The checks of R236 on one access of a task (09_memory.md R236): alignment, place, RAP, capability. -/
def State.checked (s : State) (t : Task) (acc : Acc) (cap : CapRule) (va : Word) (n align : Nat) :
    State × Except Denied Loc :=
  if va.toNat % align ≠ 0 then (s, .error .align)
  else
    match s.place t.ci t.ctxid t.ranges acc va n with
    | (s, .error d) => (s, .error d)
    | (s, .ok l) =>
      if l.scratch then (s, .ok l)
      else if acc = .atomic ∧ l.pkg ≠ s.svc.packageId ∧ !leafRap l.leaf then (s, .error .rapv)
      else
        match (match cap with
          | .none => (s, Except.ok ())
          | .store => s.capCheck (quadOf t.ci) t.ctxid t.domain va l.leaf
          | .mark => s.capMark (quadOf t.ci) t.ctxid t.domain va l.leaf
          | .frozen => (s, s.capFrozen (quadOf t.ci) t.ctxid va)) with
        | (s, .error d) => (s, .error d)
        | (s, .ok ()) => (s, .ok l)

/-- The outcome of an access that a check denied (09_memory.md R236, R250; 14_containment.md R348). -/
def deny (s : State) (t : Task) (acc : Acc) (va : Word) : Denied → Out State
  | .align => trap s t causeAlign
  | .range => .next (s.softwareError t causeRange)
  | .capv => .next (s.softwareError t causeCapv)
  | .page f => .next (s.faultPark t acc va f.cause f)
  | .rapv => .next (s.faultPark t acc va causeRapv ⟨false, 0, 0⟩)
  | .fetch page =>
    .next ((s.park t .remote (.capFetch page)).send (s.capHome t.ctxid) (s.who t) (.capFetch t.uid t.ctxid page))

/-- Is the line of an address poisoned (15_faults.md R397)? -/
def State.poisoned (s : State) (a : Nat) : Bool := s.poison.contains (lineOf a)

/-- Is a line of `n` bytes from `a` poisoned? -/
def State.poisonedIn (s : State) (a n : Nat) : Bool := (linesOf a n).any fun k => s.poison.contains k

/-- Address of the first line of `n` bytes from `a` that is poisoned or in error. -/
def State.badLine (s : State) (a n : Nat) : Nat :=
  (((linesOf a n).find? fun k => s.poison.contains k || s.unsound (64 * k) 64).map (64 * ·)).getD a

/-- Does a write of `n` bytes at a location of this package touch a poisoned line that it does not write whole? A
full-line store clears the poison (15_faults.md R397). -/
def State.writeHits (s : State) (l : Loc) (n : Nat) : Bool :=
  l.pkg == s.svc.packageId
    && (linesOf l.pa n).any fun k => s.poison.contains k && !(l.pa ≤ 64 * k && 64 * k + 64 ≤ l.pa + n)

/-- A task accessed a poisoned line: its launch fails with HWERR (15_faults.md R397). -/
def State.hwerrTask (s : State) (t : Task) : State :=
  (s.hwerr t.part t.launchid).discardTasks fun u => u.uid == t.uid

/-- Drops the error bits of a line. -/
def State.cleanLine (s : State) (a : Nat) : State :=
  { s with flips := s.flips.filter fun e => lineOf (8 * e.1) != lineOf a }

/-- Is a line dirty: written by a domain that is still PROVISIONAL, by a running launch in no domain, or by the host
chiplet (15_faults.md R397)? -/
def State.dirty (s : State) (a : Nat) : Bool :=
  match s.tag a with
  | .clean => false
  | .host => true
  | .work o =>
    if o.domain = 0 then (s.launch? (o.ctxid / 4) o.launch).isSome
    else (s.dom? o.ctxid o.domain).any (·.state == .provisional)

/-- An uncorrectable error is found in a line: charged through its owner tag, poisoned at once under the host tag or
when no work owns it (15_faults.md R396, R397, R399). -/
def State.lineError (s : State) (a : Nat) : State :=
  let s : State := match s.tag a with
    | .work o => s.charge o (some a)
    | _ => s.poisonLine a
  s.cleanLine a

/-- Base of this package's protected area, when it is a member of a group (R402). -/
def State.protectedBase (s : State) : Option Nat := (s.svc.group.find? (·.1 == s.svc.packageId)).map (·.2)

/-- Length of a protected area (R402). -/
def protectedLength : Nat := 192 * 2 ^ 30

/-- Is an address in this package's protected area (R402)? -/
def State.inProtected (s : State) (a : Nat) : Bool :=
  match s.protectedBase with
  | some b => b ≤ a && a < b + protectedLength
  | none => false

/-- Part of a member in a stripe (15_faults.md R402). -/
inductive Role where
  | data (j : Nat)
  | p
  | q
deriving DecidableEq, Repr

/-- Role of member `m` of a group in stripe `k` (15_faults.md R402). -/
def roleOf (k m : Nat) : Role :=
  if m = k % 10 then .p
  else if m = (k + 1) % 10 then .q
  else .data ((List.range m).filter fun i => i != k % 10 && i != (k + 1) % 10).length

/-- The coefficient 2^j of Q (15_faults.md R402). -/
def qCoeff (j : Nat) : Byte := BitVec.ofNat 8 (2 ^ j)

/-- Coefficient of a member's symbol in the sum that gives back a lost symbol, when `other` is lost beside it (15_faults.md R402). -/
def rebuildCoeff (lost : Role) (other : Option Role) (mine : Role) : Byte :=
  match lost, other, mine with
  | .data x, some (.data y), .data i => gfmul (qCoeff y ^^^ qCoeff i) (gfinv (qCoeff x ^^^ qCoeff y))
  | .data x, some (.data y), .p => gfmul (qCoeff y) (gfinv (qCoeff x ^^^ qCoeff y))
  | .data x, some (.data y), .q => gfinv (qCoeff x ^^^ qCoeff y)
  | .data x, some .p, .data i => gfmul (qCoeff i) (gfinv (qCoeff x))
  | .data x, some .p, .q => gfinv (qCoeff x)
  | .data _, _, .q => 0
  | .data _, _, _ => 1
  | .p, some (.data x), .data i => 1 ^^^ gfmul (qCoeff i) (gfinv (qCoeff x))
  | .p, some (.data x), .q => gfinv (qCoeff x)
  | .p, _, .data _ => 1
  | .p, _, _ => 0
  | .q, some (.data x), .data i => qCoeff i ^^^ qCoeff x
  | .q, some (.data x), .p => qCoeff x
  | .q, _, .data i => qCoeff i
  | .q, _, _ => 0

/-- Position in its group of the package's own member and of another that is lost, if one is (15_faults.md R402). -/
def State.ownMember (s : State) : Option (Nat × Option Nat) :=
  (s.svc.group.findIdx? (·.1 == s.svc.packageId)).map fun m =>
    (m, (List.range s.svc.group.length).find? fun i =>
      i != m && s.svc.lostPackages.contains (s.svc.group.getD i (0, 0)).1)

/-- What the other members of the group give for a line of the protected area; `none` while their lines are read
(15_faults.md R402). -/
def State.groupLine (s : State) (a base m : Nat) (lost : Option Nat) : State × Option (List Byte) :=
  let k := (a - base) / 0x10000
  ((List.range s.svc.group.length).filter fun i => i != m && lost != some i).foldl (fun p i =>
    let c := rebuildCoeff (roleOf k m) (lost.map (roleOf k)) (roleOf k i)
    if c = 0 then p
    else
      let x := s.svc.group.getD i (0, 0)
      match p.1.readAt (s.deviceWho 0) (tokenRebuild (lineOf a)) ⟨x.1, x.2 + (a - base), 0⟩ 64, p.2 with
      | (s, some bs), some sum => (s, some (List.zipWith (fun x b => x ^^^ gfmul c b) sum bs))
      | (s, _), _ => (s, none)) (s, some (List.replicate 64 0))

/-- A protected line is rebuilt from its group, once the lines of the other members have come, and its readers go on. A
line of a page that is mapped as protected and lies in no group that was set gets back the bytes that it held
(15_faults.md R399, R402; log entry 15). -/
def State.rebuildLine (s : State) (line : Nat) : State :=
  let a := 64 * line
  let (s, x) := match s.ownMember, s.protectedBase with
    | some (m, lost), some base => if s.inProtected a then s.groupLine a base m lost else (s, some (s.bytes a 64))
    | _, _ => (s, some (s.bytes a 64))
  match x with
  | none => s
  | some bs =>
    let s := ((s.dropReads (tokenRebuild line)).poke a bs).cleanLine a
    (s.tasks.filter fun t => t.wait == .rebuild line).foldl (fun s t => s.wake t) s

/-- Lines whose other members have come are rebuilt (15_faults.md R402). -/
def State.settleRebuilds (s : State) : State :=
  ((s.reads.filter fun r => r.token % 8 == 4).map (·.token)).eraseDups.foldl (fun s k =>
    if s.readsCome k then s.rebuildLine (k / 8) else s) s

/-- An uncorrectable error is found in a line, by the rasp or by a read of no task: a line of the protected area that is
not dirty is rebuilt, any other goes by its owner tag (R396, R399, R402). -/
def State.memoryError (s : State) (a : Nat) : State :=
  if a < scratchBase && s.inProtected a && !s.dirty a then s.rebuildLine (lineOf a) else s.lineError a

/-- What a read finds in the line it reads. -/
inductive Found where
  | sound
  | poisoned
  | error
  | rebuild
deriving DecidableEq, Repr

/-- What a read of a local location finds: an uncorrectable error in a clean protected line is rebuilt from its group
(15_faults.md R399, R402). -/
def State.found (s : State) (l : Loc) (n : Nat) : Found :=
  if s.poisonedIn l.pa n then .poisoned
  else if s.unsound l.pa n then
    if !l.scratch && leafMT l.leaf == 2 && !s.dirty l.pa then .rebuild else .error
  else .sound

/-- Reads a local location for a task, or handles what the line holds instead: HWERR for a poisoned line, the charge
of an error, the wait for a rebuilt line (15_faults.md R397, R399). -/
def guardRead (s : State) (t : Task) (l : Loc) (n : Nat) (k : State → Out State) : Out State :=
  if l.pkg ≠ s.svc.packageId then k s
  else
    match s.found l n with
    | .sound => k (s.correct l.pa n)
    | .poisoned => .next (s.hwerrTask t)
    | .error => .next (s.lineError (s.badLine l.pa n))
    | .rebuild => .next (s.park t .remote (.rebuild (lineOf (s.badLine l.pa n))))

/-- Guards a write of a task against poison (15_faults.md R397). -/
def guardWrite (s : State) (t : Task) (l : Loc) (n : Nat) (k : Out State) : Out State :=
  if s.writeHits l n then .next (s.hwerrTask t) else k

/-- The term that a write adds to the sum of a DUAL task (14_containment.md R371). -/
def dualTerm (a v : Word) (z : Nat) : Word := (a * 0x9E3779B97F4A7C15) ^^^ v ^^^ (BitVec.ofNat 64 z <<< 56)

/-- Is the task the shadow of a DUAL pair (14_containment.md R370)? -/
def Task.isShadow (t : Task) : Bool :=
  match t.dual with
  | .shadow _ => true
  | _ => false

/-- A DUAL task adds a write to its sum (14_containment.md R371). -/
def Task.addSum (t : Task) (a : Word) (bs : List Byte) : Task :=
  match t.dual with
  | .single => t
  | _ => { t with sum := t.sum + dualTerm a (BitVec.ofNat 64 (leNat bs)) bs.length }

/-- The bytes that an operation at the home writes, or the operand of a reduction (14_containment.md R371; log entry 96). -/
def operandOf (n : Nat) : HomeOp → List Byte
  | .store bs | .xor bs => bs
  | .patch bs => bs.map (·.getD 0)
  | .combine _ _ v => leBytes n v.toNat
  | .dec => leBytes n 1

/-- Folds the sums of a task of a DUAL domain into its domain's totals when the task ends; a shadow that lives on
remembers what its primary added (14_containment.md R371). -/
def State.closeSum (s : State) (t : Task) : State :=
  match t.dual with
  | .single => s
  | .primary u => (s.modDom t.ctxid t.domain fun d => { d with primarySum := d.primarySum + t.sum }).modTask u fun v =>
      { v with peerSum := v.peerSum + t.sum }
  | .shadow _ => s.modDom t.ctxid t.domain fun d => { d with shadowSum := d.shadowSum + t.sum }

/-- Writes of a shadow that stay in its overlay: all but those to its own core's scratchpad (14_containment.md R370). -/
def Task.keeps (t : Task) (l : Loc) : Bool := t.isShadow && !(l.scratch && scratchCore l.pa == t.ci)

/-- Where the bytes of a location stand in an overlay: those of another package above all addresses of this one. -/
def State.overlayKey (s : State) (l : Loc) : Nat := if l.pkg = s.svc.packageId then l.pa else (l.pkg + 1) * 2 ^ 64 + l.pa

/-- Bytes of the overlay over bytes read. -/
def overlaid (o : List Host.Cell) (a : Nat) : List Byte → List Byte
  | [] => []
  | b :: bs => (match o.find? (·.1 == a) with
      | some c => c.2
      | none => b) :: overlaid o (a + 1) bs

/-- Adds bytes to an overlay. -/
def addOverlay (o : List Host.Cell) (a : Nat) : List Byte → List Host.Cell
  | [] => o
  | b :: bs => addOverlay (Sparse.insert a b (Sparse.erase o a)) (a + 1) bs

/-- Lines of a core's L1 that an overlay may fill (01_machine.md R14). -/
def overlayLines : Nat := 1024

/-- Does an overlay overflow the L1 of its core? -/
def overflows (o : List Host.Cell) : Bool := overlayLines < ((o.map fun c => lineOf c.1).eraseDups).length

/-- A shadow is abandoned: the primary alone stands for the task, and both sums are left out (SHADOW_ABANDON,
14_containment.md R370, R371, R376). -/
def State.abandon (s : State) (t : Task) : State :=
  match t.dual with
  | .shadow p =>
    let s := (s.discardTasks fun u => u.uid == t.uid).modTask p ({ · with dual := .single, sum := 0 })
    (s.modDom t.ctxid t.domain fun d => { d with primarySum := d.primarySum - t.peerSum }).statistic t.part 6
  | _ => s

/-- The requester index of a task (10_atomics.md R280). -/
def Task.index (t : Task) : Nat := t.sid

/-- The requests of a task that overlap an access: its own stores, which its loads see (11_order.md R286). -/
def ownRequests (s : State) (t : Task) (a n : Nat) : List Request :=
  s.requests.filter fun r => r.who.task == t.uid && (match r.op with
    | .store bs => r.pa < a + n && a < r.pa + bs.length
    | _ => false)

/-- Bytes read with a task's buffered stores put over them, oldest first. -/
def forwarded (rs : List Request) (a n : Nat) (bs : List Byte) : List Byte :=
  rs.foldl (fun bs r => match r.op with
    | .store ws => (List.range n).map fun i =>
        if r.pa ≤ a + i ∧ a + i < r.pa + ws.length then ws.getD (a + i - r.pa) 0 else bs.getD i 0
    | _ => bs) bs

/-- What a task reads at a local location: the served bytes, under its own buffered stores and its overlay
(10_atomics.md R279, 11_order.md R286, 14_containment.md R370). -/
def State.taskBytes (s : State) (t : Task) (a n : Nat) : State × List Byte :=
  let (s, bs) := s.fetchBytes a n
  let bs := forwarded (ownRequests s t a n) a n bs
  (s, if t.overlay.isEmpty then bs else overlaid t.overlay a bs)

/-- Do a task's later loads come after a write: one that it acquired, or a scalar one of its own (11_order.md R287,
R290)? -/
def Past.binds (p : Past) (t : Task) : Bool :=
  p.must.contains t.uid || (p.writer.uid == t.uid && t.uid != 0 && p.writer.means == .scalar)

/-- The first point of the history at which a load of a task may be performed: no earlier than the writes to its bytes
that it comes after, and than what it last read of each byte (11_order.md R287, R290). -/
def State.floorOf (s : State) (t : Task) (a n : Nat) : Nat :=
  (List.range n).foldl (fun m i => max m (Sparse.read 0 t.seen (a + i)))
    (max t.floor (lastWrite (·.binds t) a n s.past 0))

/-- The byte at an address before the writes given. -/
def State.byteBefore (s : State) (later : List Past) (a : Nat) : Byte :=
  match later.find? fun p => p.pa ≤ a && a < p.pa + p.old.length with
  | some p => p.old.getD (a - p.pa) 0
  | none => s.byte a

/-- Of the writes before a point of the history, the points after the last to each of `n` bytes. -/
def State.writersOf (s : State) (a n i : Nat) : List Nat :=
  ((List.range n).map fun k => lastWrite (fun _ => true) (a + k) 1 (s.past.take i) 0).eraseDups.filter (· != 0)

/-- A task has read `n` bytes as they were at a point of the history: it reads none of them older from then on, and
remembers the writes it read from (11_order.md R287, R291). -/
def Task.saw (t : Task) (s : State) (a n i : Nat) : Task :=
  { t with
    seen := if (s.past.drop (s.floorOf t a n)).any (·.touches a n) then
        (List.range n).foldl (fun k j => Sparse.write 0 k (a + j) i) t.seen
      else t.seen
    sources := (t.sources ++ (s.writersOf a n i).filter (t.floor < ·)).eraseDups }

/-- Do two cores lie in one unit of a scope (01_machine.md R16)? -/
def sameUnit (sc : Scope) (a b : Nat) : Bool :=
  match sc with
  | .core => a == b
  | .quad => quadOf a == quadOf b
  | .die => dieOf a == dieOf b
  | .pkg | .pod | .sys => true

/-- Does a scope reach other packages? -/
def beyondPackage : Scope → Bool
  | .pod | .sys => true
  | _ => false

/-- Is an agent outside the package in the unit of a scope: a host in none narrower than `.sys`, another package in none
narrower than `.pod` (01_machine.md R17 to R19)? -/
def Writer.outside (w : Writer) (sc : Scope) : Bool :=
  w.core.isNone && if w.host then sc == .sys else beyondPackage sc

/-- Is a write by an agent in the unit of a scope around a core, or known to one? -/
def Past.within (p : Past) (sc : Scope) (ci : Nat) : Bool := p.cores.any (sameUnit sc ci) || p.writer.outside sc

/-- A write becomes known to a core. -/
def Past.knownAt (p : Past) (ci : Nat) : Past := if p.cores.contains ci then p else { p with cores := p.cores ++ [ci] }

/-- A task's later accesses come after a write, which its core knows. -/
def Past.before (p : Past) (t : Task) : Past :=
  if p.must.contains t.uid then p else { p.knownAt t.ci with must := p.must ++ [t.uid] }

/-- A function applied to each write of a history with the point after it. -/
def mapPast (f : Nat → Past → Past) : Nat → List Past → List Past
  | _, [] => []
  | k, p :: ps => f k p :: mapPast f (k + 1) ps

/-- A task's later accesses come after the writes that `f` picks. -/
def State.orderAfter (s : State) (t : Task) (f : Nat → Past → Bool) : State :=
  { s with past := mapPast (fun k p => if f k p then p.before t else p) 1 s.past }

/-- A task has read from the writes at the points given, which its core then knows (11_order.md R286, R288; log entry
90). -/
def State.noteReads (s : State) (t : Task) (ks : List Nat) : State :=
  { s with past := mapPast (fun k p => if ks.contains k then p.knownAt t.ci else p) 1 s.past }

/-- A plain store, reduction or release of a task: what a release covers at once (11_order.md R288). -/
def Request.plain (r : Request) : Bool := r.tally == 0 && r.index < 0x8000

/-- How far a write is a release towards a core: what it covers of its task (11_order.md R289). -/
def Past.releasesTo (p : Past) (ci : Nat) : List Release :=
  p.writer.rel.filter fun r => match p.writer.core with
    | some c => sameUnit r.scope c ci
    | none => true

/-- The requests still on their way that a release covers: those its task issued before it (11_order.md R288). -/
def State.coveredBy (s : State) (w : Writer) : List Request :=
  s.requests.filter fun r => r.who.task == w.uid && r.plain && w.rel.any (r.epoch ≤ ·.upTo)

/-- A request homed in this package is accepted: a reduction or plain store joins the home write queue, at a scratchpad
port it takes effect at once; it leaves its issuer's count then (10_atomics.md R271, R279). A reduction on a line in
error is abandoned with no effect, and the error goes its way; that it is not made again is the model's choice
(10_atomics.md R284; log entry 100). -/
def State.accept (s : State) (r : Request) : State :=
  let s : State := if homeReads r.op && s.unsound r.pa (homeBytes r.op) then s.memoryError (s.badLine r.pa (homeBytes r.op))
    else
      let s := if homeReads r.op then s.correct r.pa (homeBytes r.op) else s
      if scratchBase ≤ r.pa then s.serveEverything.applyRequest r else { s with queued := s.queued ++ [r] }
  s.settle r.who.task r.cls r.tally

/-- Those of the requests given that are still on their way are accepted, in their order. -/
def State.acceptAll (s : State) (rs : List Request) : State :=
  rs.foldl (fun s r => if s.requests.contains r then State.accept { s with requests := s.requests.erase r } r else s) s

/-- A request reaches its home: first what it covers, if it is a release that agents outside the package can acquire
(11_order.md R288, R291), then the request. -/
def State.acceptInOrder (s : State) (r : Request) : State :=
  if r.rel.any (beyondPackage ·.scope) then (s.acceptAll (s.coveredBy r.writer)).accept r else s.accept r

/-- Does a write at point `kx` come after one at point `k`, when a task of a core pairs with it: one that its task made
before it, or that its core had read or acquired; of another package or a host, anything before it (11_order.md R288,
R290; log entry 90)? -/
def Past.covers (x : Past) (kx : Nat) (p : Past) (k ci : Nat) : Bool :=
  match x.writer.core with
  | none => k ≤ kx
  | some c => (k ≤ kx && p.cores.contains c) || (p.writer.uid == x.writer.uid && p.writer.means == .scalar
      && if x.writer.rel.isEmpty then p.writer.epoch ≤ x.writer.epoch
        else (x.releasesTo ci).any (p.writer.epoch ≤ ·.upTo))

/-- A task's later accesses come after writes of the history that it pairs with, given with their points, and after what
these cover, which has taken effect by then (11_order.md R288 to R290; log entry 90). -/
def State.acquireFrom (s : State) (t : Task) (xs : List (Nat × Past)) : State :=
  let held := (xs.filter (·.2.writer.uid != t.uid)).flatMap (s.coveredBy ·.2.writer)
  let s := if held.isEmpty then s else (s.acceptAll held).serveEverything
  s.orderAfter t fun k p => xs.any fun x => x.2.covers x.1 p k t.ci

/-- An acquire at a scope by a task that has read from the writes at the points given: it pairs with those of them that
are releases or go on the chain of one, where both scopes take in both agents (11_order.md R289). A fence pairs with the
others too: as writes that a release may cover (R291; log entry 90). -/
def State.acquire (s : State) (t : Task) (sc : Scope) (fence : Bool) (ks : List Nat) : State :=
  let heads := (ks.flatMap fun k => ((s.past[k - 1]?).map (·.chain)).getD []) ++ if fence then ks else []
  s.acquireFrom t (heads.eraseDups.filterMap fun k => match s.past[k - 1]? with
    | some x =>
      if (x.writer.outside sc || x.writer.core.any (sameUnit sc t.ci)) && (x.writer.rel.isEmpty || !(x.releasesTo t.ci).isEmpty)
      then some (k, x) else none
    | none => none)

/-- An acquire that pairs with something other than a write it has read: what agents in the unit of the scope have made
readable comes before the task's later accesses (11_order.md R288, R289). -/
def State.meet (s : State) (t : Task) (sc : Scope) : State :=
  let s := s.serveEverything
  let xs := s.past.filter fun x => x.within sc t.ci && x.writer.uid != t.uid && !(x.releasesTo t.ci).isEmpty
  let held := xs.flatMap (s.coveredBy ·.writer)
  let s := if held.isEmpty then s else (s.acceptAll held).serveEverything
  s.orderAfter t fun _ p => p.within sc t.ci

/-- A task reads `n` bytes as they are at a point of the history, as an acquire if it has a scope (11_order.md R286 to
R289). -/
def State.readAs (s : State) (t : Task) (acq : Option Scope) (a n i : Nat) : State × Task :=
  let ks := s.writersOf a n i
  let t := t.saw s a n i
  let s := s.noteReads t ks
  (match acq with
  | some sc => s.acquire t sc false ks
  | none => s, t)

/-- A scalar load of a task from a local location: its bytes as they were at one of the points that the rules of order
leave open, which one is a free value where they differ, under its own buffered stores and its overlay
(11_order.md R286, R287, R290; 14_containment.md R370). -/
def State.loadBytes (s : State) (t : Task) (acq : Option Scope) (a n : Nat) : State × Task × List Byte :=
  let s := s.serveAll a n
  let from_ := s.floorOf t a n
  let later := s.past.drop from_
  let (s, i) := if later.any (·.touches a n) then (s.draw, from_ + Config.loadTime s.fresh % (later.length + 1))
    else (s, s.past.length)
  let bs := (List.range n).map fun k => s.byteBefore (s.past.drop i) (a + k)
  let bs := forwarded (ownRequests s t a n) a n bs
  let (s, t) := s.readAs t acq a n i
  (s, t, if t.overlay.isEmpty then bs else overlaid t.overlay a bs)

/-- A queued instruction or a chain of a task has read `n` bytes here just now: a later `FENCE.acq`, release or `WAIT` of
the task counts it (07_scratchpad.md R189; 11_order.md R288, R291). -/
def State.readNow (s : State) (uid a n : Nat) : State :=
  match s.task? uid with
  | none => s
  | some t =>
    let ks := s.writersOf a n s.past.length
    if ks.isEmpty then s
    else (s.noteReads t ks).modTask uid fun t =>
      { t with sources := (t.sources ++ ks).eraseDups, reads := t.reads ++ [(a, n, s.past.length)] }

/-- Does a `WAIT` with these fields limit the class that operations of a kind are counted in (05_tasks.md R145)? -/
def Means.limited (st cp mx : Nat) : Means → Bool
  | .unit => st != 63
  | .matrix => mx != 31
  | .copy => cp != 31
  | .scalar | .stream => false

/-- `WAIT` completes: the operations it waited for are visible to the task's later accesses (05_tasks.md R145,
07_scratchpad.md R189). -/
def State.waited (s : State) (t : Task) (ld st cp mx : Nat) : State × Task :=
  (s.orderAfter t fun _ p => t.uid != 0 && p.writer.uid == t.uid && p.writer.means.limited st cp mx,
   if ld = 63 then t else { t with
    seen := t.reads.foldl (fun m r => (List.range r.2.1).foldl (fun m i =>
      if Sparse.read 0 m (r.1 + i) < r.2.2 then Sparse.write 0 m (r.1 + i) r.2.2 else m) m) t.seen
    reads := [] })

/-- `QSTAT`: what the streams of the core have written comes before the task's later accesses (11_order.md R297). -/
def State.streamsSeen (s : State) (t : Task) : State :=
  s.orderAfter t fun _ p => p.writer.means == .stream && p.writer.core == some t.ci

/-- An access to `n` bytes at `va` that lie at `l` was subject to the watermark of a copy channel of its core: the copies'
writes to them come before it (11_order.md R297, 12_copy.md R314). -/
def State.copiesSeen (s : State) (t : Task) (va : Word) (l : Loc) (n : Nat) : State :=
  let bound := (s.core t.ci).chans.toList.any fun x => x.bound.any fun (b, len) =>
    (List.range n).any fun i => let a := (va.toNat + i) % 2 ^ 64; b ≤ a && a < b + len
  if bound then
    let s := s.serveAll l.pa n
    s.orderAfter t fun _ p => p.writer.means == .copy && p.writer.core == some t.ci && p.touches l.pa n
  else s

/-- The loads of a task from here on are performed after everything that has taken effect, as after an acquire at `.sys`
(11_order.md R288, R297). -/
def Task.upToDate (t : Task) (s : State) : Task :=
  { t with floor := s.past.length, seen := [], sources := [], reads := [] }

/-- A load of another package has been performed at its home just now, as an acquire if it has a scope (11_order.md R286,
R288; log entry 90). -/
def State.sawAfar (s : State) (t : Task) (acq : Option Scope) : State × Task :=
  match acq with
  | some sc => (s.meet t sc, t)
  | none =>
    let s := s.serveEverything
    (s, if s.past.isEmpty then t else { t with sources := (t.sources ++ [s.past.length]).eraseDups })

/-- The releases that a store, atomic or reduction of a task is: its own, and those that an earlier `FENCE.rel` makes it
(11_order.md R288, R291). -/
def Task.releases (t : Task) (sc : Option Scope) : List Release := (sc.map (⟨·, t.rels⟩)).toList ++ t.fence

/-- The task has issued one more release, if it is one. -/
def Task.released (t : Task) (sc : Option Scope) : Task := { t with rels := t.rels + bit sc.isSome }

/-- A `FENCE.rel` has been issued (11_order.md R291). -/
def Task.fenced (t : Task) (sc : Scope) : Task :=
  { t with rels := t.rels + 1, fence := t.fence.filter (·.scope != sc) ++ [⟨sc, t.rels⟩] }

/-- A plain store of a task to a location: into its store buffer, to another package as an uncounted remote store in
class `fb`, or into a shadow's overlay; one with a scope is a release (09_memory.md R253, R256; 11_order.md R288). -/
def State.bufferStore (s : State) (t : Task) (l : Loc) (bs : List Byte) (rel : Option Scope := none) : State × Task :=
  if t.keeps l then (s, { t with overlay := addOverlay t.overlay (s.overlayKey l) bs })
  else if l.pkg ≠ s.svc.packageId then
    (s.send l.pkg (s.who t) (.store ⟨s.who t, [(l.pa, bs)]⟩) .fb, t.count .fb)
  else
    ({ s with requests := s.requests ++
        [{ who := s.who t, index := t.index, pa := l.pa, op := .store bs, cls := .none, tag := some t.tag, tally := 0
           rel := t.releases rel, epoch := t.rels }] }, t.released rel)

/-- A plain store of a task, which joins its sum when it is a DUAL task (14_containment.md R371). -/
def State.taskStore (s : State) (t : Task) (va : Word) (l : Loc) (bs : List Byte) (rel : Option Scope := none) :
    State × Task :=
  s.bufferStore (t.addSum va bs) l bs rel

/-- What reading operands in memory for an instruction came to. -/
inductive TaskRead where
  | bytes (bs : List Byte)
  | denied (va : Word) (d : Denied)
  | pending
  | broken (l : Loc)
deriving DecidableEq, Repr

/-- Reads doublewords for an instruction, each checked by R236 as a load of the task. -/
def State.taskRead (s : State) (t : Task) (acc : Acc) (va : Word) : Nat → State × TaskRead
  | 0 => (s, .bytes [])
  | n + 1 =>
    match s.checked t acc .none va 8 8 with
    | (s, .error d) => (s, .denied va d)
    | (s, .ok l) =>
      if l.pkg = s.svc.packageId && s.found l 8 != .sound then (s, .broken l)
      else
        let got := if l.pkg = s.svc.packageId then
            let (s, bs) := (s.correct l.pa 8).taskBytes t l.pa 8
            (s, some bs)
          else
            let (s, bs) := s.readAt (s.who t) (tokenTask t.uid) l 8
            (s, bs.map (overlaid t.overlay (s.overlayKey l)))
        match got, (got.1.taskRead t acc (va + 8) n) with
        | (_, some bs), (s, .bytes rest) => (s, .bytes (bs ++ rest))
        | (_, none), (s, .bytes _) => (s, .pending)
        | _, r => r

/-- Rows and bytes of a copy. -/
def Copy.total (c : Copy) : Nat := c.len0 * c.cnt1 * c.cnt2

/-- Address, modulo 2^64, of a byte in copy order, from a start and its strides (12_copy.md R308). -/
def Copy.address (c : Copy) (start : Nat) (str1 str2 : Int) (i : Nat) : Nat :=
  let row := i / c.len0
  (((start : Int) + (row % c.cnt1 : Nat) * str1 + (row / c.cnt1 : Nat) * str2 + (i % c.len0 : Nat)) % (2 ^ 64 : Nat)).toNat

/-- Destination of a byte. -/
def Copy.dstAt (c : Copy) (i : Nat) : Nat := c.address c.dst c.dstr1 c.dstr2 i
/-- Source of a byte. -/
def Copy.srcAt (c : Copy) (i : Nat) : Nat := c.address c.src c.sstr1 c.sstr2 i

/-- End of a copy, in copy order: its last byte, or where it was cancelled (12_copy.md R316). -/
def Copy.limit (c : Copy) : Nat := c.stopAt.getD c.total

/-- Does a copy write a byte of the destination (12_copy.md R314)? -/
def Copy.covers (c : Copy) (x : Nat) : Bool :=
  (List.range (c.cnt1 * c.cnt2)).any fun r => (x + 2 ^ 64 - c.dstAt (r * c.len0)) % 2 ^ 64 < c.len0

/-- Is an access of a core's task to `n` bytes held back by a watermark (12_copy.md R314)? -/
def State.watermarked (s : State) (ci : Nat) (va : Word) (n : Nat) : Bool :=
  (s.core ci).chans.toList.any fun x => match x.bound with
    | none => false
    | some (b, len) => (List.range n).any fun i =>
        let a := (va.toNat + i) % 2 ^ 64
        b ≤ a && a < b + len && x.wm ≤ a && x.copies.any (·.covers a)

/-- A scalar access held back by a copy watermark stalls issue and is made again (12_copy.md R314). -/
def unheld (s : State) (t : Task) (va : Word) (n : Nat) (k : Out State) : Out State :=
  if s.watermarked t.ci va n then .next (s.stall t (.watermark va.toNat n)) else k

/-- Continues with operands read in memory, as loads of the task: faults park, a copy watermark holds them, remote reads
park until their replies have come, and are dropped by the step that completes the instruction. -/
def withBytes (s : State) (t : Task) (acc : Acc) (va : Word) (dwords : Nat) (k : State → List Byte → Out State) :
    Out State :=
  match s.taskRead t acc va dwords with
  | (s, .denied a d) => deny s t acc a d
  | (s, .pending) => unheld s t va (8 * dwords) (.next (s.park t .remote .reads))
  | (s, .broken l) => unheld s t va (8 * dwords) (guardRead s t l 8 fun s => .next s)
  | (s, .bytes bs) => unheld s t va (8 * dwords) (k s bs)

/-- Sequence number of the task spawned next (05_tasks.md R120). -/
def Task.childSeq (t : Task) : Word := t.seq * 0x9E3779B97F4A7C15 + t.ordinal + 1

/-- The queue entry of a task spawned by `t` (05_tasks.md R121, R127, R152; 14_containment.md R373). -/
def Task.spawnEntry (t : Task) (age : Nat) (record : Word) (r : TaskRecord) (rs : List Range) (domain : Nat) : QEntry :=
  { age := age, record := record, ctxid := t.ctxid, launch := t.launchid, prio := r.prio, pc := r.pc, ranges := rs,
    args := r.args, aff := r.aff, seq := t.childSeq, phase := t.phase, bar := t.bar, domain := domain, ag := t.ag }

/-- Entries that a partition's queue area holds per die (16_system.md R412); none when the area is absent. -/
def State.queueRoom (s : State) (d p : Nat) : Bool :=
  let used := ((s.die d).queue.filter fun e => e.ctxid / 4 == p).length
  !areaAbsent (s.part p).qarea && used < 2 ^ field (s.part p).qarea.toNat 0 5

/-- Inserts a request by rising requester index, behind its equals. -/
def insertRequest (r : Request) : List Request → List Request
  | [] => [r]
  | x :: xs => if r.index < x.index then r :: x :: xs else x :: insertRequest r xs

/-- The oldest request of each listed requester at a place. -/
def State.reaching (s : State) (place : Nat) (indices : List Nat) : List Request :=
  indices.eraseDups.filterMap fun i => s.requests.find? fun r => homePlace r.pa == place && r.index == i

/-- The requests that reach one home in one cycle are accepted in ascending requester index (10_atomics.md R280). -/
def State.mergeAt (s : State) (place : Nat) (indices : List Nat) : State :=
  let rs := (s.reaching place indices).foldl (fun l r => insertRequest r l) []
  rs.foldl (fun s r => s.acceptInOrder r) { s with requests := rs.foldl (fun l r => l.erase r) s.requests }

/-- Does what is addressed to a core go to its memory spill queue: pre-empted or in reset (05_tasks.md R155; 15_faults.md
R407)? -/
def State.diverts (s : State) (ci : Nat) : Bool :=
  (s.core ci).preempted || (s.core ci).stopping || (s.core ci).resetting

/-- Is the spill area of a partition absent (16_system.md R412)? -/
def State.noSpillArea (s : State) (p : Nat) : Bool := areaAbsent (s.part p).spillarea

/-- Does a write go to the memory spill queue of the core whose scratchpad it is for, or wait behind the writes that are
still to be delivered from there (05_tasks.md R155)? The copies of the core itself, which a pre-emption completes, are
written (R154; log entry 95). -/
def State.divertsAt (s : State) (r : Request) : Bool :=
  let ci := scratchCore r.pa
  scratchBase ≤ r.pa && !(r.index < 0xC000 && coreOf r.who.sid == ci)
    && (s.diverts ci || (s.core ci).diverted.any (· matches .write _))

/-- Something addressed to a core goes to its memory spill queue (05_tasks.md R155). -/
def State.divert (s : State) (ci : Nat) (d : Diverted) : State :=
  s.modCore ci fun c => { c with diverted := c.diverted ++ [d] }

/-- A write of a copy engine, a host core or another package reaches its home: alone, or in one merge step with the
requests of tasks that reach it in the same cycle, which is a free value (10_atomics.md R280; log entry 91). One into
the scratchpad of a pre-empted core is diverted (05_tasks.md R155; without a spill area the diversion stalls and raises
vector 4, 16_system.md R412, R417). -/
def State.arrive (s : State) (r : Request) : State :=
  let place := homePlace r.pa
  if s.divertsAt r then
    (if s.noSpillArea r.who.part then s.raiseVector r.who.part 4 else s).divert (scratchCore r.pa) (.write r)
  else if !s.requests.any fun q => homePlace q.pa == place then s.accept r
  else if !Config.sameCycle s.fresh then s.draw.accept r
  else
    let indices := (s.requests.map (·.index)).filter (· != r.index)
    ({ s.draw with requests := s.requests ++ [r] }).mergeAt place (indices ++ [r.index])

/-- Requester index of the engine of a core (12_copy.md R305, 10_atomics.md R280). -/
def engineIndex (ci : Nat) : Nat := 0x8000 + dieOf ci * 16 + quadOf ci % 16
/-- Requester index of a host chiplet core (10_atomics.md R280). -/
def hostIndex (c : Nat) : Nat := 0xC000 + c
/-- Requester index of a package (10_atomics.md R280). -/
def packageIndex (src : Nat) : Nat := 0xE000 + src

/-- Requests that release writes which a task's core has read cover, and that are still on their way: a release of the
task covers them as well (11_order.md R288). -/
def State.knownHeld (s : State) (t : Task) : List Request :=
  (s.past.filter fun p => !p.writer.rel.isEmpty && p.cores.contains t.ci && p.writer.uid != t.uid).flatMap
    (s.coveredBy ·.writer)

/-- Have the task's buffered scalar stores been accepted at their homes, and what it has read has come after? What one
agent beside the writer can read, every agent can (11_order.md R286, R288; log entry 10). Asynchronous operations, which
are counted in a class, are not waited for (R291; 07_scratchpad.md R206). -/
def State.ownDrained (s : State) (t : Task) : Bool :=
  (s.requests.all fun r => r.who.task != t.uid || !r.plain || r.cls != .none) && (s.knownHeld t).isEmpty

/-- Has all that a release of the task covers been accepted: its stores, and its reductions to homes in this package
(11_order.md R288, 10_atomics.md R283)? -/
def State.released (s : State) (t : Task) : Bool :=
  s.ownDrained t && s.requests.all fun r => r.who.task != t.uid || !r.plain

/-- A fence or `SEND`: issue stalls until the task's store buffer has drained (11_order.md R291, 07_scratchpad.md R206). -/
def draining (s : State) (t : Task) (k : Out State) : Out State :=
  if s.ownDrained t then k else .next (s.stall t t.wait)

/-- A release: issue stalls until what it covers has been performed (11_order.md R288). -/
def releasing (s : State) (t : Task) (k : Out State) : Out State :=
  if s.released t then k else .next (s.stall t t.wait)

/-- A release by a write at a scope. One that no agent outside the package can acquire need not wait for the task's own
stores: whoever acquires it within its scope brings them about (`State.acquireFrom`; 11_order.md R288, R289; log entry
10). -/
def releasingAt (s : State) (t : Task) (sc : Scope) (k : Out State) : Out State :=
  if beyondPackage sc then releasing s t k
  else if (s.knownHeld t).isEmpty then k else .next (s.stall t t.wait)

/-- The claim of a slice at its home, in one piece; whether the sequence number holds it
(14_containment.md R374). -/
def State.claimSlice (s : State) (pa : Nat) (seq : Word) (tag : Tag) (w : Writer) : State × Bool :=
  let (s, bs) := s.fetchBytes pa 16
  let n := leNat bs
  if n.testBit 64 then (s, field n 0 64 = seq.toNat)
  else ((s.perform w pa (leBytes 8 seq.toNat ++ leBytes 8 (field n 64 64 ||| 1))).setTag pa tag, true)

/-- Raises ILLEGAL unless a condition holds. -/
def require (s : State) (t : Task) (c : Bool) (k : Out State) : Out State :=
  if c then k else trap s t causeIllegal

/-- Issue stalls while a class is at its limit (05_tasks.md R144). -/
def withRoom (s : State) (t : Task) (c : Class) (k : Out State) : Out State :=
  if t.full c then .next (s.stall t .none) else k

/-- Has the task queued vector or matrix instructions that have still to reach bytes of another package? The interface
accepts the operations of a task in issue order (13_fabric.md R328, R331). -/
def State.fabQueued (s : State) (t : Task) : Bool :=
  (s.core t.ci).vq.any (fun e => e.uid == t.uid && e.far && !e.dropped)
    || (s.core t.ci).mq.any fun e => e.uid == t.uid && e.far && !e.dropped

/-- Issue of an access to another package stalls while earlier ones of the task have still to reach the fabric interface
(13_fabric.md R328). -/
def inFabricOrder (s : State) (t : Task) (k : Out State) : Out State :=
  if s.fabQueued t then .next (s.stall t .none) else k

/-- Issue of an operation of class `fb` stalls at the limit of the class, and while earlier ones of the task have still
to enter the fabric interface (05_tasks.md R144, 13_fabric.md R331). -/
def withFabric (s : State) (t : Task) (k : Out State) : Out State :=
  inFabricOrder s t (withRoom s t .fb k)

/-- Issue of a plain store stalls while it would exceed class `fb`, in which stores to other packages are counted
(05_tasks.md R143, R144). -/
def storeRoom (s : State) (t : Task) (l : Loc) (k : Out State) : Out State :=
  if l.pkg ≠ s.svc.packageId && !t.keeps l then withFabric s t k else k

end Sys2Proof.Machine
end

