-- ==== Sys2Proof/Machine/Context.lean ====
section
/-! DEFINITION. The matrix context word, the context that a queued instruction meets, and the scratchpad bytes that
queued matrix instructions will read (08_matrix.md R216, R219, R221, R231). -/

namespace Sys2Proof.Machine

/-- ATYPE of a context word (R216). -/
def ctxA (w : Word) : Nat := field w.toNat 0 4
/-- BTYPE (R216). -/
def ctxB (w : Word) : Nat := field w.toNat 4 4
/-- ACC: integer tiles (R216). -/
def ctxAcc (w : Word) : Bool := w.getLsbD 8
/-- STYPE (R216). -/
def ctxStype (w : Word) : Nat := field w.toNat 9 3
/-- OVP (R216). -/
def ctxOvp (w : Word) : Ovp :=
  match field w.toNat 12 2 with
  | 0 => .sat
  | 1 => .inf
  | 2 => .nan
  | _ => .trap
/-- SSRC (R216). -/
def ctxSsrc (w : Word) : Nat := field w.toNat 14 2
/-- REC (R216). -/
def ctxRec (w : Word) : Bool := w.getLsbD 16
/-- CHK (R216). -/
def ctxChk (w : Word) : Bool := w.getLsbD 17

/-- Is a context word valid (R216)? -/
def validContext (w : Word) : Bool :=
  let a := ctxA w
  let b := ctxB w
  !(field w.toNat 18 46 != 0 || 7 ≤ a || 7 ≤ b || a == 5
    || ((a == 6 || b == 6) && !ctxRec w)
    || ((a == 4) != (b == 4))
    || (ctxAcc w != (a == 4))
    || (ctxRec w && (ctxAcc w || ctxChk w))
    || 6 ≤ ctxStype w
    || (ctxStype w == 5 && !ctxAcc w)
    || (1 ≤ ctxStype w && ctxStype w ≤ 4 && ctxAcc w)
    || (ctxOvp w != .sat && ctxStype w == 0)
    || 2 ≤ ctxSsrc w
    || (ctxSsrc w != 0 && b != 5))

/-- Format of a type code; none for integers and GQ4 (R216). -/
def typeFormat : Nat → Option Format
  | 0 => some .bf16
  | 1 => some .f16
  | 2 => some .e4m3
  | 3 => some .e5m2
  | 6 => some .f32
  | _ => none

/-- Bytes of an element of a type code (R216). -/
def typeBytes : Nat → Nat
  | 0 | 1 => 2
  | 6 => 4
  | _ => 1

/-- Rows that a latch holds (R219). -/
def latchRows (b : Nat) : Nat := 256 / typeBytes b

/-- The context word that an instruction of a core meets: the last `MCTX` pushed before it (R212, R225). -/
def Core.wordAt (c : Core) (serial : Nat) : Word :=
  c.mq.foldl (fun w e => match e.instr with
    | .mctx _ => if e.serial < serial then e.x else w
    | _ => w) c.mctx.word

/-- The scale addresses that an instruction meets (R218). -/
def Core.scalesAt (c : Core) (serial : Nat) : Word × Word :=
  c.mq.foldl (fun w e => match e.instr with
    | .mscale _ _ => if e.serial < serial then (e.x, e.y) else w
    | _ => w) (c.mctx.bsa, c.mctx.ssa)

/-- The context word after everything pushed (R225). -/
def Core.pushedWord (c : Core) (clock : Nat) : Word := c.wordAt (clock + 1)

/-- What an `MLDB` reads: addresses and lengths, in the order of the latch's codes or elements, scales, scale (R219). -/
def latchReads (w g bsa ssa : Word) : List (Word × Nat) × List (Word × Nat) × List (Word × Nat) :=
  let lines := fun n => (List.range n).map fun i => (g + BitVec.ofNat 64 (64 * i), 64)
  if ctxB w ≠ 5 then (lines 256, [], [])
  else if ctxSsrc w = 0 then
    (lines 128, (List.range 4).map fun i => (g + BitVec.ofNat 64 (8192 + 64 * i), 64), [(g + 8448, 4)])
  else (lines 128, (List.range 32).map fun i => (bsa + BitVec.ofNat 64 (8 * i), 8), [(ssa, 4)])

/-- What an `MLDC` reads (R223). -/
def tileReads (a stride : Word) : List (Word × Nat) :=
  (List.range 64).flatMap fun i => (List.range 4).map fun j =>
    (a + stride * BitVec.ofNat 64 i + BitVec.ofNat 64 (64 * j), 64)

/-- K of an `MMA` (R225). -/
def mmaK (y : Word) : Nat := field y.toNat 0 9
/-- KO of an `MMA` (R225). -/
def mmaKo (y : Word) : Nat := field y.toNat 16 9

/-- What an `MMA` reads of operand A, row by row (R221). -/
def operandReads (w x y z : Word) : List (Word × Nat) :=
  (List.range 64).map fun i => (x + z * BitVec.ofNat 64 i, mmaK y * typeBytes (ctxA w))

/-- What a queued matrix instruction reads (R231). -/
def Core.readsOf (c : Core) (e : MEntry) : List (Word × Nat) :=
  let w := c.wordAt e.serial
  match e.instr with
  | .mma .. => operandReads w e.x e.y e.z
  | .mldb _ =>
    let (bsa, ssa) := c.scalesAt e.serial
    let (r, b, s) := latchReads w e.x bsa ssa
    r ++ b ++ s
  | .mldc .. => tileReads e.x e.y
  | .mprog _ => [(e.x, 16)]
  | _ => []

/-- Will a matrix instruction pushed before `serial` read bytes `o` to `o + n` of its core's scratchpad (R231)? -/
def State.matrixReads (s : State) (ci serial o n : Nat) : Bool :=
  let c := s.core ci
  c.mq.any fun e => e.serial < serial && (c.readsOf e).any fun r => match scratchOf ci r.1 with
    | some (cj, p) => cj == ci && p < o + n && o < p + r.2
    | none => false

/-- Is a write of a core to a location held until a pending matrix read of it is done (R231)? -/
def State.writeHeld (s : State) (ci serial : Nat) (l : Loc) (n : Nat) : Bool :=
  l.scratch && scratchCore l.pa == ci && s.matrixReads ci serial (l.pa - scratchKey ci 0) n

end Sys2Proof.Machine
end

