-- ==== Sys2Proof/Machine/Order.lean ====
section
/-! DEFINITION. Fences, barriers, phases and event lines (11_order.md R291 to R303, 05_tasks.md R152, R153). -/

namespace Sys2Proof.Machine

/-- Does a queue of die `d` lie in the unit of a core (05_tasks.md R153)? -/
def queueInUnit (sc : Scope) (ci d : Nat) : Bool :=
  match sc with
  | .core | .quad => false
  | .die => dieOf ci == d
  | .pkg | .pod | .sys => true

/-- Is anyone of the task's launch left in the unit for whom `f` holds of phase number and barrier count: a bound or
spilled task, or at wider scopes a queue entry (05_tasks.md R153, 11_order.md R293)? -/
def State.leftInUnit (s : State) (t : Task) (sc : Scope) (f : Nat → Nat → Bool) : Bool :=
  (s.tasks.any fun u => u.ctxid == t.ctxid && u.launchid == t.launchid && sameUnit sc t.ci u.ci && f u.phase u.bar)
    || s.dies.any fun (d, x) => queueInUnit sc t.ci d
        && x.queue.any fun e => e.ctxid == t.ctxid && e.launch == t.launchid && f e.phase e.bar

/-- The arrival of this package at the default barrier whose count was `b` (11_order.md R293). -/
def Task.barrierMsg (t : Task) (b : Nat) : BarrierMsg := ⟨t.part, t.launchid, false, t.phase, b, .arrive, []⟩
/-- The flag of this package that ends the phase numbered `n` (11_order.md R295). -/
def Task.phaseMsg (t : Task) (n : Nat) : BarrierMsg := ⟨t.part, t.launchid, true, n, 0, .arrive, []⟩


/-- Counted vector stores that ended tasks have left in their cores' queues: what the interface has still to accept
(11_order.md R295; 05_tasks.md R142). -/
def State.countedLeft (s : State) (f : Task → Bool) : Bool :=
  s.cores.any fun x => x.2.vq.any fun e => (e.instr matches .vstc .. || e.instr matches .vscatc ..) && e.z.toNat != 0xFFF
    && e.issuer.any f

/-- Is a participant of a pod barrier or phase left in this package, or of a phase a counted store of an ended one
(11_order.md R293, R295; 05_tasks.md R153)? -/
def State.participantLeft (s : State) (m : BarrierMsg) : Bool :=
  let at_ := fun (p : Nat) (l : BitVec 32) ph b => p == m.part && l == m.launch && ph == m.phase && (m.isPhase || b == m.bar)
  (m.isPhase && s.countedLeft fun u => at_ u.part u.launchid u.phase u.bar) || (s.tasks.any fun u => at_ u.part u.launchid u.phase u.bar)
    || s.dies.any fun (_, x) => x.queue.any fun e => at_ (e.ctxid / 4) e.launch e.phase e.bar

/-- Has a counted flag's traffic arrived: per channel at least as many writes as were sent, by the sign of the difference;
a replay of the sender counts from its base up to the same numbers again (13_fabric.md R332, R333, R337). -/
def State.counted (s : State) (src : Nat) (m : BarrierMsg) : Bool :=
  m.counts.all fun (ch, sent) =>
    let t := s.receiver ch src
    !(t.pend.foldl (fun d e => d + e.2) t.d - sent).msb

/-- Has every other package of the partition arrived, its counted traffic with it, or has one said that the barrier is
complete (11_order.md R293, R295)? -/
def State.podComplete (s : State) (m : BarrierMsg) : Bool :=
  ((s.otherPackages m.part).all fun p => s.podArrivals.any fun (q, x) =>
      q == p && x.about .arrive == m.about .arrive && x.note == .arrive && s.counted q x)
    || s.podArrivals.any fun (_, x) => x == m.about .complete

/-- Channels of a partition with counted traffic to a package, as its phase flag covers them (11_order.md R295; log entry
92). -/
def State.sentCounts (s : State) (p dst : Nat) : List (Nat × BitVec 32) :=
  s.fab.senders.filterMap fun (k, x) =>
    if k % 1024 = dst && (Sparse.read (0 : Byte) s.fab.allot (k / 1024)).toNat % 16 == p then
      some (k / 1024, x.sent) else none

/-- Sends a message about a pod barrier or phase to the other packages, once. -/
def State.tellPackages (s : State) (m : BarrierMsg) (note : BarrierNote) : State :=
  let m := m.about note
  if s.podSent.contains m then s
  else (s.otherPackages m.part).foldl (fun s p =>
    s.send p (s.deviceWho (4 * m.part)) (.barrier { m with
      counts := if m.isPhase && note == .arrive then s.sentCounts m.part p else [] }))
    { s with podSent := s.podSent ++ [m] }

/-- What a package does about a pod barrier or phase: it says so when none of its participants is left, and takes it back
when one is there again while the barrier is not complete (11_order.md R293, R303). -/
def State.announce (s : State) (m : BarrierMsg) : State :=
  if s.podSent.contains (m.about .complete) || s.podArrivals.any (fun x => x.2 == m.about .complete) then s
  else if !s.participantLeft m then s.tellPackages m .arrive
  else if s.podSent.contains (m.about .arrive) then
    let s : State := { s with podSent := s.podSent.filter (· != m.about .arrive) }
    (s.otherPackages m.part).foldl (fun s p => s.send p (s.deviceWho (4 * m.part)) (.barrier (m.about .withdraw))) s
  else s

/-- The pod barriers and phases that tasks of this package wait at, that other packages have arrived at, or that this one
has announced. -/
def State.podBarriers (s : State) : List BarrierMsg :=
  ((s.tasks.filterMap fun t => match t.arrival, t.wait with
      | some ⟨sc, none, false⟩, _ => if beyondPackage sc then some (t.barrierMsg (t.bar - 1)) else none
      | none, .phase sc n => if beyondPackage sc then some (t.phaseMsg n) else none
      | _, _ => none)
    ++ (s.podArrivals.map (·.2) ++ s.podSent).map (·.about .arrive)).eraseDups

/-- Is a default barrier complete for a task that has arrived, its count one above the barrier's (11_order.md R293)? -/
def State.barrierDone (s : State) (t : Task) (sc : Scope) : Bool :=
  !(s.leftInUnit t sc fun ph b => ph == t.phase && b + 1 == t.bar)
    && (!beyondPackage sc || s.podComplete (t.barrierMsg (t.bar - 1)))

/-- Operations of a launch's ended tasks in the unit, and `SEND`s of its phase, that have not reached their destination
(11_order.md R295). -/
def State.phaseLeft (s : State) (t : Task) (sc : Scope) (n : Nat) : Bool :=
  let mine := fun (w : Who) => w.ctxid == t.ctxid && w.launch == t.launchid
  (s.cores.any fun (ci, c) => sameUnit sc t.ci ci && c.sends.any fun e => mine e.who && e.phase == n)
    || (s.requests.any fun r => mine r.who && sameUnit sc t.ci (coreOf r.who.sid) && (s.task? r.who.task).isNone)
    || beyondPackage sc && s.countedLeft fun u => u.ctxid == t.ctxid && u.launchid == t.launchid && u.phase == n

/-- Is the phase numbered `n` complete for a task (05_tasks.md R153, 11_order.md R295)? -/
def State.phaseDone (s : State) (t : Task) (sc : Scope) (n : Nat) : Bool :=
  !(s.leftInUnit t sc fun ph _ => ph == n) && !s.phaseLeft t sc n
    && (!beyondPackage sc || s.podComplete (t.phaseMsg n))

/-- The completion of the barrier that a task stands at goes to the other packages, when its scope reaches them
(11_order.md R293). -/
def State.tellOf (s : State) (t : Task) : State :=
  match t.arrival with
  | some ⟨sc, none, _⟩ => if beyondPackage sc then s.tellPackages (t.barrierMsg (t.bar - 1)) .complete else s
  | _ => s

/-- The barriers that have become complete: their participants are told, each at once and for good, and so are the other
packages (11_order.md R293, R303). -/
def State.releaseBarriers (s : State) : State :=
  let s := s.podBarriers.foldl (fun s m => s.announce m) s
  let done := s.tasks.filter fun t => match t.arrival with
    | some ⟨sc, none, false⟩ => s.barrierDone t sc
    | _ => false
  done.foldl (fun s t => (s.modTask t.uid fun u => { u with arrival := u.arrival.map ({ · with done := true }) }).tellOf t) s

/-- Limits of explicit barriers at a scope: ids and participants; none at `.pod` and `.sys` (11_order.md R292). -/
def barrierLimits : Scope → Option (Nat × Nat)
  | .core => some (8, 16)
  | .quad => some (32, 64)
  | .die => some (64, 1024)
  | .pkg => some (64, 8192)
  | .pod | .sys => none

/-- Partition that an event line of a quad is allotted to (11_order.md R299). -/
def Quad.linePart (q : Quad) (n : Nat) : Nat := field q.evallot.toNat (4 * n) 4

/-- The explicit barrier that a task names (11_order.md R292, R294). -/
def State.barrierAt (s : State) (t : Task) (sc : Scope) (id : Nat) : Barrier :=
  match sc with
  | .core => Sparse.read {} (s.core t.ci).barriers (64 * t.part + id)
  | .quad => Sparse.read {} (s.quad (quadOf t.ci)).barriers id
  | .die => Sparse.read {} (s.die t.die).barriers (64 * t.part + id)
  | _ => Sparse.read {} (s.part t.part).barriers id

/-- Replaces it. -/
def State.setBarrier (s : State) (t : Task) (sc : Scope) (id : Nat) (b : Barrier) : State :=
  match sc with
  | .core => s.modCore t.ci fun x => { x with barriers := Sparse.write {} x.barriers (64 * t.part + id) b }
  | .quad => s.modQuad (quadOf t.ci) fun x => { x with barriers := Sparse.write {} x.barriers id b }
  | .die => s.modDie t.die fun x => { x with barriers := Sparse.write {} x.barriers (64 * t.part + id) b }
  | _ => s.modPart t.part fun x => { x with barriers := Sparse.write {} x.barriers id b }

/-- A core goes on issuing. -/
def State.unstall (s : State) (ci : Nat) : State := s.modCore ci ({ · with stalled := false })

/-- Arrival at an explicit barrier; the last arrival completes it for all (11_order.md R294). -/
def arriveExplicit (s : State) (t : Task) (sc : Scope) (id n : Nat) : Out State :=
  let b := s.barrierAt t sc id
  if !b.arrived.isEmpty && b.expected != n then trap s t causeIllegal
  else if b.arrived.length + 1 < n then
    let s := s.setBarrier t sc id ⟨n, b.arrived ++ [t.uid]⟩
    .next (s.stall { t with arrival := some ⟨sc, some id, false⟩ } .barrier)
  else
    let s := (s.setBarrier t sc id {}).modTasks b.arrived fun u =>
      { u with arrival := u.arrival.map ({ · with done := true }) }
    complete (s.meet t sc) { t with events := t.events + 1 }

/-- The operand of an explicit barrier: its id and count, when R292 allows them. -/
def State.explicitBarrier (s : State) (t : Task) (sc : Scope) (v : Nat) : Option (Nat × Nat) :=
  match barrierLimits sc with
  | none => none
  | some (ids, most) =>
    let n := field v 24 24
    let id := field v 0 6
    if field v 48 16 ≠ 0 ∨ field v 6 18 ≠ 0 ∨ n = 0 ∨ most < n ∨ ids ≤ id then none
    else if sc = .quad ∧ (s.quad (quadOf t.ci)).linePart id ≠ t.part then none
    else some (id, n)

/-- Are the counters that a barrier waits for 0 (11_order.md R292)? -/
def Task.quiet (t : Task) : Bool := t.st == 0 && t.cp == 0 && t.mx == 0

/-- A task that has arrived at a barrier goes on once it is complete, as an acquire (11_order.md R292). -/
def resumeBarrier (s : State) (t : Task) (x : Arrival) : Out State :=
  if x.done then complete (s.meet t x.scope) { t with arrival := none, events := t.events + bit x.id.isSome }
  else .next (s.stall t .barrier)

/-- A shadow takes no count of an event line and of no explicit barrier: it passes behind its primary, as an acquire; with
the primary ended, at once (14_containment.md R370; log entry 93). -/
def followPrimary (s : State) (t : Task) (p : Nat) (sc : Scope) : Out State :=
  if (s.task? p).all fun u => t.events < u.events then
    complete (s.meet t sc) { t with events := t.events + 1, wait := .none }
  else .next (s.stall t .none)

/-- `BAR` (11_order.md R292 to R294). -/
def execBar (a : GReg) (sc : Scope) (s : State) : Out State := withTask s fun t =>
  match t.arrival with
  | some x => resumeBarrier s t x
  | none =>
    let v := (t.greg a).toNat
    if v = 0 then
      if t.quiet then
        releasing s t (.next (s.stall { t with bar := t.bar + 1, arrival := some ⟨sc, none, false⟩ } .barrier))
      else .next (s.stall t .none)
    else
      match s.explicitBarrier t sc v with
      | none => trap s t causeIllegal
      | some (id, n) =>
        if !t.quiet then .next (s.stall t .none)
        else match t.dual with
          | .shadow p => followPrimary s t p sc
          | _ => releasing s t (arriveExplicit s t sc id n)

/-- `PHASE` (05_tasks.md R152, R153; 11_order.md R295). -/
def execPhase (sc : Scope) (s : State) : Out State := withTask s fun t =>
  if t.quiet && t.fb == 0 then
    releasing s t (.next (s.park { t.advance with phase := t.phase + 1, bar := 0 } .dep (.phase sc t.phase)))
  else .next (s.stall t .none)

/-- `FENCE` (11_order.md R291): for `.acq` the task's later accesses come after what its earlier loads paired with within
the scope, for `.rel` its later writes are releases, and for `.ar` its later loads come after all that is readable within
the scope as well. -/
def execFence (o : FenceOrder) (sc : Scope) (s : State) : Out State := withTask s fun t =>
  match o with
  | .acq => complete (s.acquire t sc true t.sources) t
  | .rel => draining s t (complete s (t.fenced sc))
  | .ar => draining s t (complete (s.meet t sc) (t.fenced sc))

/-- `EVSIG` (11_order.md R300). -/
def execEvsig (n : BitVec 5) (s : State) : Out State := withTask s fun t =>
  let qi := quadOf t.ci
  let q := s.quad qi
  if q.linePart n.toNat ≠ t.part then trap s t causeIllegal
  else releasing s t <|
    if t.isShadow then complete s t
    else
      let c := q.lines[n.toNat]
      let s := s.setQuad qi { q with lines := q.lines.set n.toNat (if c = 65535 then c else c + 1) }
      complete (s.mark t.ctxid t.domain 0) t

/-- The tasks that stall on an event line before this one, in the order of R301. -/
def State.olderStalls (s : State) (t : Task) (n age : Nat) : Nat :=
  (s.tasks.filter fun u => u.uid != t.uid && quadOf u.ci == quadOf t.ci && u.status == .running && !s.halted u.ci
    && match u.wait with
      | .event m a => m == n && (a < age || (a == age && u.sid < t.sid))
      | _ => false).length

/-- `EVWAIT` (11_order.md R301): it stalls while the count is 0, or while older stalls take what is counted. -/
def execEvwait (n : BitVec 5) (s : State) : Out State := withTask s fun t =>
  let qi := quadOf t.ci
  let q := s.quad qi
  if q.linePart n.toNat ≠ t.part then trap s t causeIllegal
  else match t.dual with
  | .shadow p => followPrimary s t p .quad
  | _ =>
    let age := match t.wait with
      | .event _ a => a
      | _ => s.clock
    let c := q.lines[n.toNat]
    if c.toNat ≤ s.olderStalls t n.toNat age then .next (s.tick.stall t (.event n.toNat age))
    else complete ((s.setQuad qi { q with lines := q.lines.set n.toNat (c - 1) }).meet t .quad)
      { t with wait := .none, events := t.events + 1 }

/-- Delivers the completion of a barrier to a task that stands at it; a member of a gang goes on in its place
(BARRIER_COMPLETE, 11_order.md R292 to R294; 05_tasks.md R150). -/
def execBarrierComplete (task : Nat) (s : State) : Out State :=
  let s := s.releaseBarriers
  match s.task? task with
  | none => .next s
  | some t =>
    match t.arrival with
    | some x =>
      .next (if x.done && t.status == .running && !s.halted t.ci then
          ((s.meet t x.scope).putTask
            { (if t.follows then t.advance.dropWord else t.advance) with
              wait := .none, arrival := none, events := t.events + bit x.id.isSome }).unstall t.ci
        else s)
    | none => .next s

/-- The probe of a phase agrees on a full circuit, or the flags of every package are applied: a task whose phase is
complete becomes READY, as an acquire (PHASE_PROBE_COMPLETE, 11_order.md R295). -/
def State.probe (s : State) (t : Task) : State :=
  match t.wait with
  | .phase sc n => if s.phaseDone t sc n then (s.meet t sc).wake t else s
  | _ => s

/-- PHASE_PROBE_COMPLETE (11_order.md R295). -/
def execPhaseProbeComplete (task : Nat) (s : State) : Out State :=
  let s := s.releaseBarriers
  match s.task? task with
  | none => .next s
  | some t => .next (s.probe t)

/-- A message about a pod barrier or phase comes from another package (BARRIER_CONTROL_MESSAGE, 11_order.md R293,
R303). -/
def State.takeArrival (s : State) (src : Nat) (m : BarrierMsg) : State :=
  let rest := s.podArrivals.filter fun x => !(x.1 == src && x.2.about .arrive == m.about .arrive && x.2.note == .arrive)
  match m.note with
  | .arrive => { s with podArrivals := rest ++ [(src, m)] }
  | .withdraw => { s with podArrivals := rest }
  | .complete => if s.podArrivals.contains (src, m) then s else { s with podArrivals := s.podArrivals ++ [(src, m)] }

end Sys2Proof.Machine
end

