-- ==== Sys2Proof/Machine/Atomic.lean ====
section
/-! DEFINITION. Returning atomics, reductions and `REDX` (10_atomics.md R271 to R284). -/

namespace Sys2Proof.Machine

/-- Does an order release (03_encoding.md R69)? -/
def Order.releases : Order → Bool
  | .rel | .ar => true
  | .rlx | .acq => false

/-- Does it acquire? -/
def Order.acquires : Order → Bool
  | .acq | .ar => true
  | .rlx | .rel => false

/-- An atomic at its place: the old value, the flags, the value stored if any (10_atomics.md R274, R275). -/
structure AtomicResult where
  old : Nat
  flags : Flags
  stored : Option Nat
deriving DecidableEq, Repr

/-- What an atomic does to an old value (10_atomics.md R274, R275). -/
def atomicOn (op : AmoOp) (z : AmoSize) (m v c : Nat) : AtomicResult :=
  let (n, fl) := amoNew op z m v
  ⟨m, fl, if op = .cas ∧ m ≠ c then none else some n⟩

/-- Low bits of a register that an atomic of a size uses (10_atomics.md R275). -/
def amoOperand (z : AmoSize) (v : Word) : Nat := v.toNat % 2 ^ (8 * amoBytes z)

/-- Executes an atomic at a local location, with the owner tag of its issuer (10_atomics.md R271, R273). -/
def State.doAtomic (s : State) (pa : Nat) (op : AmoOp) (z : AmoSize) (v c : Word) (tag : Tag) (w : Writer) :
    State × AtomicResult :=
  let s := s.serveEverything
  let n := amoBytes z
  let r := atomicOn op z (s.word pa n) (amoOperand z v) (amoOperand z c)
  match r.stored with
  | some x => ((s.write w pa (leBytes n x)).setTag pa tag, r)
  | none => (s, r)

/-- The term that an atomic adds to the sum of a DUAL pair (14_containment.md R371). -/
def atomicTerm (a : Word) (z : AmoSize) (r : AtomicResult) : Word :=
  match r.stored with
  | some w => dualTerm a (BitVec.ofNat 64 w) (amoBytes z)
  | none => 0

/-- The registers after an atomic: the widened old value and its flags (10_atomics.md R275). -/
def Task.takeAtomic (t : Task) (d : GReg) (op : AmoOp) (z : AmoSize) (r : AtomicResult) : Task :=
  (t.setG d (amoWiden op z r.old)).raise r.flags

/-- A primary hands the result of its atomic to its shadow, and both add the same term (14_containment.md R370, R371). -/
def State.shareAtomic (s : State) (t : Task) (a : Word) (op : AmoOp) (z : AmoSize) (r : AtomicResult) : State × Task :=
  match t.dual with
  | .primary p =>
    let h := atomicTerm a z r
    (s.modTask p fun u => { u with results := u.results ++ [(amoWiden op z r.old, r.flags, h)] },
     { t with sum := t.sum + h })
  | _ => (s, t)

/-- A returning atomic of a task (10_atomics.md R271 to R276). The comparand `c` is used by `CAS` alone. -/
def atomic (d a b : GReg) (op : AmoOp) (z : AmoSize) (o : Order) (sc : Scope) (s : State) : Out State := withTask s fun t =>
  let va := t.greg a
  let v := t.greg b
  let c := t.greg d
  let n := amoBytes z
  if t.isShadow then
    if va.toNat % n ≠ 0 then trap s t causeAlign
    else match t.results[t.atomics]? with
      | none => .next (s.stall t .none)
      | some (w, fl, h) => complete s { ((t.setG d w).raise fl) with atomics := t.atomics + 1, sum := t.sum + h }
  else
    let go : Out State :=
      match s.checked t .atomic .frozen va n n with
      | (s', .error x) => deny s' t .atomic va x
      | (s', .ok l) =>
        let target := if l.scratch then none else s'.atomicTarget (quadOf t.ci) t.ctxid t.domain va l.leaf
        if l.pkg ≠ s.svc.packageId then
          inFabricOrder s' t (.next ((s'.park { t.advance with atomics := t.atomics + 1 } .remote
            (.atomic d op z v c va (if Order.acquires o then some sc else none) target)).send l.pkg (s'.who t)
              (.atomicReq ⟨s'.who t, l.pa, op, z, v, c⟩)))
        else if s'.writeHeld t.ci (s'.clock + 1) l n
            || s'.requests.any fun r => r.who.task == t.uid && lineOf r.pa == lineOf l.pa then
          .next (s'.stall t .none)
        else guardRead s' t l n fun s' =>
          let rel := if Order.releases o then some sc else none
          let (s', r) := s'.doAtomic l.pa op z v c t.tag
            { uid := t.uid, core := some t.ci, atomic := true, rel := t.releases rel, epoch := t.rels }
          let s' := if r.stored.isSome then s'.markTo t.ctxid t.domain target else s'
          let (s', t) := s'.shareAtomic t va op z r
          let (s', t) := s'.readAs t (if Order.acquires o then some sc else none) l.pa n
            (if r.stored.isSome then s'.past.length - 1 else s'.past.length)
          complete s' { (t.takeAtomic d op z r).released rel with atomics := t.atomics + 1 }
    if Order.releases o then releasingAt s t sc go else go

/-- A far atomic's old value and flags are written to the task (ATOMIC_REPLY, 10_atomics.md R275); a reply to a task that
is gone is dropped (09_memory.md R270). -/
def State.takeAtomicReply (s : State) (uid : Nat) (old : Word) (flags : Flags) : State :=
  match s.task? uid with
  | none => { s with fab := { s.fab with stray := s.fab.stray.filter (·.1 != uid) } }
  | some t =>
    match t.wait with
    | .atomic d op z v c a acq target =>
      let r := atomicOn op z (amoOperand z old) (amoOperand z v) (amoOperand z c)
      let s := if r.stored.isSome then s.markTo t.ctxid t.domain target else s
      let (s, t) := s.shareAtomic t a op z { r with flags := flags }
      let (s, t) := s.sawAfar t acq
      s.wake (t.takeAtomic d op z { r with flags := flags })
    | _ => s

/-- A reduction of a task on a value already formed, with the flags of forming it (10_atomics.md R277). -/
def reduce (s : State) (t : Task) (va : Word) (op : HomeOp) (n : Nat) (rel : Option Scope) (fl : Flags) : Out State :=
  let done := fun (t : Task) => (t.addSum va (operandOf n op)).raise fl
  if t.isShadow then complete s (done t)
  else
    let go : Out State :=
      match s.checked t .red .mark va n n with
      | (s, .error x) => deny s t .red va x
      | (s, .ok l) =>
        if l.pkg ≠ s.svc.packageId then
          withFabric s t (complete (s.send l.pkg (s.who t) (.red ⟨s.who t, l.pa, op⟩) .fb)
            ((done t).count .fb))
        else if s.writeHeld t.ci (s.clock + 1) l n then .next (s.stall t .none)
        else
          guardWrite s t l n <| withRoom s t .st (complete
            { s with requests := s.requests ++ [⟨s.who t, t.index, l.pa, op, .st, some t.tag, 0, t.releases rel, t.rels⟩] }
            (((done t).count .st).released rel))
    match rel with
    | some sc => releasingAt s t sc go
    | none => go

/-- The scope of a release form (10_atomics.md R277, R283). -/
def releaseScope (rel : Bool) (sc : Scope) : Option Scope := if rel then some sc else none

/-- A combining reduction (10_atomics.md R277). -/
def reduction (a b : GReg) (op : AmoOp) (z : AmoSize) (rel : Option Scope) (s : State) : Out State := withTask s fun t =>
  let va := t.greg a
  if va.toNat % amoBytes z ≠ 0 then trap s t causeAlign
  else reduce s t va (.combine op z (t.greg b)) (amoBytes z) rel 0

/-- A floating reduction, which deterministic mode turns away (10_atomics.md R277, R282). -/
def floatReduction (a b : GReg) (op : AmoOp) (rel : Option Scope) (s : State) : Out State := withTask s fun t =>
  if (t.greg a).toNat % 4 ≠ 0 then trap s t causeAlign
  else if t.det then trap s t causeIllegal
  else reduction a b op .w rel s

/-- A fixed-sum descriptor: base, length, exponent; `none` raises ILLEGAL (10_atomics.md R281). -/
def fixedSum (bs : List Byte) (a : Nat) : Option Int :=
  let n := leNat bs
  let base := field n 0 64
  let len := field n 80 40
  if field n 120 8 ≠ 0 ∨ field n 73 7 ≠ 0 ∨ len = 0 ∨ base % 8 ≠ 0 ∨ len % 8 ≠ 0 ∨ a < base ∨ base + len < a + 8 then none
  else some (toSigned 9 (field n 64 9))

/-- `REDX` (10_atomics.md R281, 02_numbers.md R59). -/
def execRedx (d a b : GReg) (rel : Bool) (sc : Scope) (s : State) : Out State := withTask s fun t =>
  let va := t.greg a
  let desc := t.greg d
  if va.toNat % 8 ≠ 0 ∨ desc.toNat % 16 ≠ 0 then trap s t causeAlign
  else withBytes s t .record desc 2 fun s bs =>
    match fixedSum bs va.toNat with
    | none => trap s t causeIllegal
    | some e =>
      match fixedOf ((t.greg b).toNat % 2 ^ 32) e with
      | none => trap s t causeConvovf
      | some (v, fl) => reduce s t va (.combine .add .d (BitVec.ofNat 64 v)) 8 (releaseScope rel sc) fl

/-- `AMO_ADD` (10_atomics.md R274). -/
def execAmoAdd (d a b : GReg) (z : AmoSize) (o : Order) (sc : Scope) (s : State) : Out State := atomic d a b .add z o sc s
/-- `AMO_AND` (10_atomics.md R274). -/
def execAmoAnd (d a b : GReg) (z : AmoSize) (o : Order) (sc : Scope) (s : State) : Out State := atomic d a b .and z o sc s
/-- `AMO_OR` (10_atomics.md R274). -/
def execAmoOr (d a b : GReg) (z : AmoSize) (o : Order) (sc : Scope) (s : State) : Out State := atomic d a b .or z o sc s
/-- `AMO_XOR` (10_atomics.md R274). -/
def execAmoXor (d a b : GReg) (z : AmoSize) (o : Order) (sc : Scope) (s : State) : Out State := atomic d a b .xor z o sc s
/-- `AMO_MIN_I` (10_atomics.md R274). -/
def execAmoMinI (d a b : GReg) (z : AmoSize) (o : Order) (sc : Scope) (s : State) : Out State :=
  atomic d a b .minI z o sc s
/-- `AMO_MAX_I` (10_atomics.md R274). -/
def execAmoMaxI (d a b : GReg) (z : AmoSize) (o : Order) (sc : Scope) (s : State) : Out State :=
  atomic d a b .maxI z o sc s
/-- `AMO_MIN_N` (10_atomics.md R274). -/
def execAmoMinN (d a b : GReg) (z : AmoSize) (o : Order) (sc : Scope) (s : State) : Out State :=
  atomic d a b .minN z o sc s
/-- `AMO_MAX_N` (10_atomics.md R274). -/
def execAmoMaxN (d a b : GReg) (z : AmoSize) (o : Order) (sc : Scope) (s : State) : Out State :=
  atomic d a b .maxN z o sc s
/-- `AMO_SWAP` (10_atomics.md R274). -/
def execAmoSwap (d a b : GReg) (z : AmoSize) (o : Order) (sc : Scope) (s : State) : Out State :=
  atomic d a b .swap z o sc s
/-- `CAS` (10_atomics.md R274, R275). -/
def execCas (d a b : GReg) (z : AmoSize) (o : Order) (sc : Scope) (s : State) : Out State := atomic d a b .cas z o sc s
/-- `FAMO_ADD` (10_atomics.md R274, R275). -/
def execFamoAdd (d a b : GReg) (o : Order) (sc : Scope) (s : State) : Out State := atomic d a b .fadd .w o sc s
/-- `FAMO_MIN` (10_atomics.md R278). -/
def execFamoMin (d a b : GReg) (o : Order) (sc : Scope) (s : State) : Out State := atomic d a b .fmin .w o sc s
/-- `FAMO_MAX` (10_atomics.md R278). -/
def execFamoMax (d a b : GReg) (o : Order) (sc : Scope) (s : State) : Out State := atomic d a b .fmax .w o sc s

/-- `RED_ADD` (10_atomics.md R277). -/
def execRedAdd (a b : GReg) (z : AmoSize) (rel : Bool) (sc : Scope) (s : State) : Out State := reduction a b .add z (releaseScope rel sc) s
/-- `RED_AND` (10_atomics.md R277). -/
def execRedAnd (a b : GReg) (z : AmoSize) (rel : Bool) (sc : Scope) (s : State) : Out State := reduction a b .and z (releaseScope rel sc) s
/-- `RED_OR` (10_atomics.md R277). -/
def execRedOr (a b : GReg) (z : AmoSize) (rel : Bool) (sc : Scope) (s : State) : Out State := reduction a b .or z (releaseScope rel sc) s
/-- `RED_XOR` (10_atomics.md R277). -/
def execRedXor (a b : GReg) (z : AmoSize) (rel : Bool) (sc : Scope) (s : State) : Out State := reduction a b .xor z (releaseScope rel sc) s
/-- `RED_MIN_I` (10_atomics.md R277). -/
def execRedMinI (a b : GReg) (z : AmoSize) (rel : Bool) (sc : Scope) (s : State) : Out State :=
  reduction a b .minI z (releaseScope rel sc) s
/-- `RED_MAX_I` (10_atomics.md R277). -/
def execRedMaxI (a b : GReg) (z : AmoSize) (rel : Bool) (sc : Scope) (s : State) : Out State :=
  reduction a b .maxI z (releaseScope rel sc) s
/-- `RED_MIN_N` (10_atomics.md R277). -/
def execRedMinN (a b : GReg) (z : AmoSize) (rel : Bool) (sc : Scope) (s : State) : Out State :=
  reduction a b .minN z (releaseScope rel sc) s
/-- `RED_MAX_N` (10_atomics.md R277). -/
def execRedMaxN (a b : GReg) (z : AmoSize) (rel : Bool) (sc : Scope) (s : State) : Out State :=
  reduction a b .maxN z (releaseScope rel sc) s
/-- `FRED_ADD` (10_atomics.md R277). -/
def execFredAdd (a b : GReg) (rel : Bool) (sc : Scope) (s : State) : Out State :=
  floatReduction a b .fadd (releaseScope rel sc) s
/-- `FRED_MIN` (10_atomics.md R277, R278). -/
def execFredMin (a b : GReg) (rel : Bool) (sc : Scope) (s : State) : Out State :=
  floatReduction a b .fmin (releaseScope rel sc) s
/-- `FRED_MAX` (10_atomics.md R277, R278). -/
def execFredMax (a b : GReg) (rel : Bool) (sc : Scope) (s : State) : Out State :=
  floatReduction a b .fmax (releaseScope rel sc) s

end Sys2Proof.Machine
end

