-- ==== Sys2Proof/Decode.lean ====
section
/-! DEFINITION. Reading instruction words: every field of every layout (03_encoding.md R67 to R86), a total decoder
that rejects reserved encodings by name, and after it the encoder written from the same tables. -/

namespace Sys2Proof

/-- Why a word is a reserved encoding (03_encoding.md R86). -/
inductive Reject where
  /-- A major opcode that R74 does not assign. -/
  | major
  /-- A function or selector value that R75 to R85 do not assign. -/
  | function
  /-- A field stated to be zero is not zero. -/
  | nonzeroField
  /-- A scope, order, size, width, type or policy code that is reserved or not allowed for its operation. -/
  | code
  /-- A register field that breaks R63: a high bit set, or a group past the last register. -/
  | register
  /-- `BR` or `BP` with disp22 = 0, the all-zero word among them (R75). -/
  | zeroDisplacement
deriving DecidableEq, Repr

/-- The fields of R format; every other layout is a regrouping of them (R68). -/
structure Fields where
  major : BitVec 6
  d : BitVec 5
  a : BitVec 5
  b : BitVec 5
  fn : BitVec 11
deriving DecidableEq, Repr

/-- The fields of a word (R68). -/
def Fields.ofWord (w : IWord) : Fields :=
  ⟨w.extractLsb' 26 6, w.extractLsb' 21 5, w.extractLsb' 16 5, w.extractLsb' 11 5, w.extractLsb' 0 11⟩

/-- The word with the given fields (R68). -/
def Fields.toWord (f : Fields) : IWord :=
  f.major ++ (f.d ++ (f.a ++ (f.b ++ f.fn)))

/-- imm16 of I format, also bits 15:0 of M format (R68). -/
def imm16 (b : BitVec 5) (fn : BitVec 11) : BitVec 16 := b ++ fn

/-- disp26 of J format and the immediate of L format (R68). -/
def imm26 (d a b : BitVec 5) (fn : BitVec 11) : BitVec 26 := d ++ (a ++ (b ++ fn))

/-- Bits 10:0 as a 3-bit field (mask k, or an operation) over the low 8 bits (R68). -/
def opFn (k : BitVec 3) (lo : BitVec 8) : BitVec 11 := k ++ lo

/-- fn 7:0 of the vector majors with a width or float type: QA, QD, type, operation (R82). -/
def widthLow (qa qd : BitVec 1) (t : BitVec 2) (op : BitVec 4) : BitVec 8 := qa ++ (qd ++ (t ++ op))

/-- fn 7:0 of the vector majors with 3-bit type codes: QA, QD and two 3-bit fields (R82). -/
def typeLow (qa qd : BitVec 1) (x y : BitVec 3) : BitVec 8 := qa ++ (qd ++ (x ++ y))

/-- fn 7:0 as a 2-bit selector over a 6-bit field (R76). -/
def selLow (sel : BitVec 2) (n : BitVec 6) : BitVec 8 := sel ++ n

/-- fn 7:0 with a 2-bit field, a tile or a size, in its low bits (R81, R84). -/
def tileLow (t : BitVec 2) : BitVec 8 := 0#6 ++ t

/-- fn 7:0 as a 5-bit field over a 3-bit field (R75, R80). -/
def lineLow (n : BitVec 5) (sc : BitVec 3) : BitVec 8 := n ++ sc

/-- fn 7:0 of `FENCE`: zero, order, scope (R80). -/
def fenceLow (o : BitVec 2) (sc : BitVec 3) : BitVec 8 := 0#3 ++ (o ++ sc)

/-- fn 7:0 with a copy channel in bits 7:5 (R81). -/
def chanLow (ch : BitVec 3) : BitVec 8 := ch ++ 0#5

/-- fn 7:0 of `MCHK`: RAISE, FIX and the tile (08_matrix.md R229). -/
def checkLow (raise fix : BitVec 1) (t : BitVec 2) : BitVec 8 := 0#4 ++ (raise ++ (fix ++ t))

/-- fn of atomics and reductions: operation, size, order, scope (R80). -/
def amoFn (op : BitVec 4) (z o : BitVec 2) (sc : BitVec 3) : BitVec 11 := op ++ (z ++ (o ++ sc))

/-- fn of the scalar conversions: OVP, RTZ, the mark 0b0010 and the operation (R78). -/
def cvtFn (v : BitVec 2) (rtz : BitVec 1) (op : BitVec 4) : BitVec 11 := v ++ (rtz ++ (0x2#4 ++ op))

/-- fn of the system major: operation and the low 7 bits of a number (R85). -/
def sysFn (op : BitVec 4) (low : BitVec 7) : BitVec 11 := op ++ low

/-- Answers the instruction where the stated condition holds and rejects the word otherwise. -/
def need (c : Bool) (r : Reject) (i : Instr) : Except Reject Instr :=
  if c then .ok i else .error r

/-- A 5-bit field that names one of eight registers (R63). -/
def reg3 (x : BitVec 5) : Except Reject Reg3 :=
  if x.extractLsb' 3 2 = 0#2 then .ok (x.extractLsb' 0 3) else .error .register

/-- The 5-bit field that names one of eight registers (R63). -/
def reg3Field (x : Reg3) : BitVec 5 := 0#2 ++ x

/-- Scope codes (R69). -/
def scopeOf (x : BitVec 3) : Except Reject Scope :=
  match x.toNat with
  | 0 => .ok .core | 1 => .ok .quad | 2 => .ok .die | 3 => .ok .pkg | 4 => .ok .pod | 5 => .ok .sys
  | _ => .error .code

/-- The code of a scope (R69). -/
def Scope.code : Scope → BitVec 3
  | .core => 0 | .quad => 1 | .die => 2 | .pkg => 3 | .pod => 4 | .sys => 5

/-- Order codes (R69). -/
def orderOf (x : BitVec 2) : Order :=
  match x.toNat with
  | 0 => .rlx | 1 => .acq | 2 => .rel | _ => .ar

/-- The code of an order (R69). -/
def Order.code : Order → BitVec 2
  | .rlx => 0 | .acq => 1 | .rel => 2 | .ar => 3

/-- The orders a reduction allows: relaxed and release (R80). -/
def redOrderOf (x : BitVec 2) : Except Reject Bool :=
  match x.toNat with
  | 0 => .ok false | 2 => .ok true | _ => .error .code

/-- The order code of a reduction (R80). -/
def redOrder (rel : Bool) : BitVec 2 := if rel then 2 else 0

/-- The orders a `FENCE` allows (R80, 11_order.md R291). -/
def fenceOrderOf (x : BitVec 2) : Except Reject FenceOrder :=
  match x.toNat with
  | 1 => .ok .acq | 2 => .ok .rel | 3 => .ok .ar | _ => .error .code

/-- The order code of a `FENCE` (R80). -/
def FenceOrder.code : FenceOrder → BitVec 2
  | .acq => 1 | .rel => 2 | .ar => 3

/-- Access sizes `.b .h .w .d` (R79). -/
def sizeOf (x : BitVec 2) : Size :=
  match x.toNat with
  | 0 => .b | 1 => .h | 2 => .w | _ => .d

/-- The code of an access size (R79). -/
def Size.code : Size → BitVec 2
  | .b => 0 | .h => 1 | .w => 2 | .d => 3

/-- Sizes of atomics and reductions: 10 `.w`, 11 `.d` (R80). -/
def amoSizeOf (x : BitVec 2) : Except Reject AmoSize :=
  match x.toNat with
  | 2 => .ok .w | 3 => .ok .d | _ => .error .code

/-- The code of an atomic's size (R80). -/
def AmoSize.code : AmoSize → BitVec 2
  | .w => 2 | .d => 3

/-- Overflow policies (02_numbers.md R51). -/
def ovpOf (x : BitVec 2) : Ovp :=
  match x.toNat with
  | 0 => .sat | 1 => .inf | 2 => .nan | _ => .trap

/-- The code of an overflow policy (02_numbers.md R51). -/
def Ovp.code : Ovp → BitVec 2
  | .sat => 0 | .inf => 1 | .nan => 2 | .trap => 3

/-- Element widths (R82). -/
def widthOf (x : BitVec 2) : Except Reject Width :=
  match x.toNat with
  | 0 => .ok .w32 | 1 => .ok .w16 | 2 => .ok .w8 | _ => .error .code

/-- The code of an element width (R82). -/
def Width.code : Width → BitVec 2
  | .w32 => 0 | .w16 => 1 | .w8 => 2

/-- Float types of major 0x18 (R82). -/
def ftypeOf (x : BitVec 2) : Except Reject FType :=
  match x.toNat with
  | 0 => .ok .f32 | 1 => .ok .bf16 | 2 => .ok .f16 | _ => .error .code

/-- The code of a float type in major 0x18 (R82). -/
def FType.code : FType → BitVec 2
  | .f32 => 0 | .bf16 => 1 | .f16 => 2

/-- Type codes of conversions (R82). -/
def cvtTypeOf (x : BitVec 3) : CvtType :=
  match x.toNat with
  | 0 => .f32 | 1 => .bf16 | 2 => .f16 | 3 => .e4m3 | 4 => .e5m2 | 5 => .i32 | 6 => .i16 | _ => .i8

/-- The code of a conversion type (R82). -/
def CvtType.code : CvtType → BitVec 3
  | .f32 => 0 | .bf16 => 1 | .f16 => 2 | .e4m3 => 3 | .e5m2 => 4 | .i32 => 5 | .i16 => 6 | .i8 => 7

/-- Type codes of compares and reductions (R82). -/
def rtypeOf (x : BitVec 3) : RType :=
  match x.toNat with
  | 0 => .f32 | 1 => .bf16 | 2 => .f16 | 3 => .i32 | 4 => .n32 | 5 => .i16 | 6 => .n16 | _ => .i8

/-- The code of a compare or reduction type (R82). -/
def RType.code : RType → BitVec 3
  | .f32 => 0 | .bf16 => 1 | .f16 => 2 | .i32 => 3 | .n32 => 4 | .i16 => 5 | .n16 => 6 | .i8 => 7

/-- The code of a float type in a compare (R82). -/
def FType.cmpCode : FType → BitVec 3
  | .f32 => 0 | .bf16 => 1 | .f16 => 2

/-- The float types of a compare (R82: `VCMPUN` has float types only). -/
def cmpFtypeOf (x : BitVec 3) : Except Reject FType :=
  match x.toNat with
  | 0 => .ok .f32 | 1 => .ok .bf16 | 2 => .ok .f16 | _ => .error .code

/-- The integer types of `VRAND` and `VROR` (R82). -/
def itypeOf (x : BitVec 3) : Except Reject IType :=
  match x.toNat with
  | 3 => .ok .i32 | 4 => .ok .n32 | 5 => .ok .i16 | 6 => .ok .n16 | 7 => .ok .i8 | _ => .error .code

/-- The code of an integer reduction type (R82). -/
def IType.code : IType → BitVec 3
  | .i32 => 3 | .n32 => 4 | .i16 => 5 | .n16 => 6 | .i8 => 7

/-- The first source of a vector word: a register, or with QA an input stream (R82). -/
def vsrcOf (qa : Bool) (va : BitVec 5) : Except Reject VSrc :=
  if qa then (reg3 va).map .stream else .ok (.reg va)

/-- The destination of a vector word: a register, or with QD an output stream (R82). -/
def vdstOf (qd : Bool) (vd : BitVec 5) : Except Reject VDst :=
  if qd then (reg3 vd).map .stream else .ok (.reg vd)

/-- The va field of a source (R82). -/
def VSrc.field : VSrc → BitVec 5
  | .reg v => v
  | .stream q => reg3Field q

/-- QA (R82). -/
def VSrc.qa : VSrc → BitVec 1
  | .reg _ => 0
  | .stream _ => 1

/-- The vd field of a destination (R82). -/
def VDst.field : VDst → BitVec 5
  | .reg v => v
  | .stream q => reg3Field q

/-- QD (R82). -/
def VDst.qd : VDst → BitVec 1
  | .reg _ => 0
  | .stream _ => 1

/-- One bit of a word as a truth value. -/
def bitOf (x : BitVec 1) : Bool := x == 1#1

/-- A truth value as one bit of a word. -/
def bitFor (x : Bool) : BitVec 1 := if x then 1#1 else 0#1

/-- Major 0x00: p, neg and disp22 (R75). -/
def decodeBranch (d a b : BitVec 5) (fn : BitVec 11) : Except Reject Instr :=
  let p := d.extractLsb' 2 3
  let neg := bitOf (d.extractLsb' 1 1)
  let off : BitVec 22 := d.extractLsb' 0 1 ++ (a ++ (b ++ fn))
  if off = 0 then .error .zeroDisplacement
  else if p = 0 && !neg then .ok (.br off)
  else .ok (.bp p neg off)

/-- Major 0x03: `LOOP` with d ≠ 0, `TEND` as the one word with d = 0 (R75). -/
def decodeLoop (d a b : BitVec 5) (fn : BitVec 11) : Except Reject Instr :=
  if d = 0 then need (a == 0 && b == 0 && fn == 0) .nonzeroField .tend
  else need (a == 0) .nonzeroField (.loop d (imm16 b fn))

/-- Major 0x05: SMASK in d with bit 4 zero, STAG in a, len − 1 and count − 1 in imm16 (R75). -/
def decodeRep (d a b : BitVec 5) (fn : BitVec 11) : Except Reject Instr :=
  need (d.extractLsb' 4 1 == 0) .nonzeroField
    (.rep (d.extractLsb' 0 4) a ((imm16 b fn).extractLsb' 12 4) ((imm16 b fn).extractLsb' 0 12))

/-- Major 0x06: the five class fields of W format (R68, R75). -/
def decodeWait (d a b : BitVec 5) (fn : BitVec 11) : Except Reject Instr :=
  let x := imm26 d a b fn
  .ok (.wait (x.extractLsb' 20 6) (x.extractLsb' 14 6) (x.extractLsb' 9 5) (x.extractLsb' 4 5) (x.extractLsb' 0 4))

/-- Major 0x07, tasks (R75; `PHASE` fn 0x010 to 0x015). -/
def decodeTask (d a b : BitVec 5) (fn : BitVec 11) : Except Reject Instr :=
  if fn.extractLsb' 8 3 = 0#3 && (fn.extractLsb' 0 8).extractLsb' 3 5 = 2#5 then
    if d = 0 && a = 0 && b = 0 then (scopeOf ((fn.extractLsb' 0 8).extractLsb' 0 3)).map .phase else .error .nonzeroField
  else
  match fn.toNat with
  | 0x000 => need (d == 0) .nonzeroField (.tspawn a b)
  | 0x001 => need (d == 0 && b == 0) .nonzeroField (.tdone a)
  | 0x002 => need (d == 0 && a == 0 && b == 0) .nonzeroField .tyield
  | 0x003 =>
    if d = 0 && a = 0 then
      (if b = 2 then .ok (.gang .two) else if b = 4 then .ok (.gang .four) else .error .function)
    else .error .nonzeroField
  | 0x004 => need (d == 0 && a == 0 && b == 0) .nonzeroField .ungang
  | 0x005 => .ok (.send d a b)
  | 0x006 => .ok (.recv d a b)
  | _ => .error .function

/-- Major 0x08, integer register forms (R76). -/
def decodeInt (d a b : BitVec 5) (fn : BitVec 11) : Except Reject Instr :=
  if fn.extractLsb' 8 3 = 1#3 then
    let n := (fn.extractLsb' 0 8).extractLsb' 0 6
    need (b == 0) .nonzeroField
      (match ((fn.extractLsb' 0 8).extractLsb' 6 2).toNat with
       | 0 => .shlImm d a n | 1 => .shrImm d a n | 2 => .sarImm d a n | _ => .rolImm d a n)
  else
  match fn.toNat with
  | 0x000 => .ok (.add d a b)
  | 0x001 => .ok (.sub d a b)
  | 0x002 => .ok (.and d a b)
  | 0x003 => .ok (.or d a b)
  | 0x004 => .ok (.xor d a b)
  | 0x005 => .ok (.andn d a b)
  | 0x006 => .ok (.shl d a b)
  | 0x007 => .ok (.shr d a b)
  | 0x008 => .ok (.sar d a b)
  | 0x009 => .ok (.rol d a b)
  | 0x00A => .ok (.minI64 d a b)
  | 0x00B => .ok (.minN64 d a b)
  | 0x00C => .ok (.maxI64 d a b)
  | 0x00D => .ok (.maxN64 d a b)
  | 0x010 => .ok (.mul d a b)
  | 0x011 => .ok (.mulhI64 d a b)
  | 0x012 => .ok (.mulhN64 d a b)
  | 0x014 => .ok (.divI64 d a b)
  | 0x015 => .ok (.divN64 d a b)
  | 0x016 => .ok (.remI64 d a b)
  | 0x017 => .ok (.remN64 d a b)
  | 0x018 => need (b == 0) .nonzeroField (.sextB d a)
  | 0x019 => need (b == 0) .nonzeroField (.sextH d a)
  | 0x01A => need (b == 0) .nonzeroField (.sextW d a)
  | 0x01C => need (b == 0) .nonzeroField (.zextB d a)
  | 0x01D => need (b == 0) .nonzeroField (.zextH d a)
  | 0x01E => need (b == 0) .nonzeroField (.zextW d a)
  | 0x020 => .ok (.bext d a b)
  | 0x021 => .ok (.bins d a b)
  | 0x022 => need (b == 0) .nonzeroField (.clz d a)
  | 0x023 => need (b == 0) .nonzeroField (.ctz d a)
  | 0x024 => need (b == 0) .nonzeroField (.popc d a)
  | 0x025 => need (b == 0) .nonzeroField (.brev d a)
  | 0x029 => .ok (.leaH d a b)
  | 0x02A => .ok (.leaW d a b)
  | 0x02B => .ok (.leaD d a b)
  | _ => .error .function

/-- Major 0x0C: compares, predicate logic, `PGET` and `PSET` (R77). -/
def decodeCompare (d a b : BitVec 5) (fn : BitVec 11) : Except Reject Instr :=
  match fn.toNat with
  | 0x000 => (reg3 d).map (.cmpeq · a b)
  | 0x001 => (reg3 d).map (.cmpne · a b)
  | 0x002 => (reg3 d).map (.cmpltI64 · a b)
  | 0x003 => (reg3 d).map (.cmpltN64 · a b)
  | 0x004 => (reg3 d).map (.cmpleI64 · a b)
  | 0x005 => (reg3 d).map (.cmpleN64 · a b)
  | 0x006 => (reg3 d).map (.cmpgtI64 · a b)
  | 0x007 => (reg3 d).map (.cmpgtN64 · a b)
  | 0x008 => (reg3 d).map (.cmpgeI64 · a b)
  | 0x009 => (reg3 d).map (.cmpgeN64 · a b)
  | 0x400 => (reg3 d).map (.cmpeqImm · a b)
  | 0x401 => (reg3 d).map (.cmpneImm · a b)
  | 0x402 => (reg3 d).map (.cmpltI64Imm · a b)
  | 0x403 => (reg3 d).map (.cmpltN64Imm · a b)
  | 0x404 => (reg3 d).map (.cmpleI64Imm · a b)
  | 0x405 => (reg3 d).map (.cmpleN64Imm · a b)
  | 0x406 => (reg3 d).map (.cmpgtI64Imm · a b)
  | 0x407 => (reg3 d).map (.cmpgtN64Imm · a b)
  | 0x408 => (reg3 d).map (.cmpgeI64Imm · a b)
  | 0x409 => (reg3 d).map (.cmpgeN64Imm · a b)
  | 0x010 => do .ok (.pand (← reg3 d) (← reg3 a) (← reg3 b))
  | 0x011 => do .ok (.por (← reg3 d) (← reg3 a) (← reg3 b))
  | 0x012 => do .ok (.pxor (← reg3 d) (← reg3 a) (← reg3 b))
  | 0x013 => do .ok (.pandn (← reg3 d) (← reg3 a) (← reg3 b))
  | 0x014 => do need (b == 0) .nonzeroField (.pnot (← reg3 d) (← reg3 a))
  | 0x015 => do need (b == 0) .nonzeroField (.pmov (← reg3 d) (← reg3 a))
  | 0x020 => need (a == 0 && b == 0) .nonzeroField (.pget d)
  | 0x021 => need (d == 0 && b == 0) .nonzeroField (.pset a)
  | _ => .error .function

/-- The conversions of major 0x0D: OVP, RTZ and the operation (R78). -/
def decodeFcvt (d a b : BitVec 5) (v : BitVec 2) (rtz : Bool) (op : BitVec 4) : Except Reject Instr :=
  if b = 0 then
    match op.toNat with
    | 0 => .ok (.fcvtiI32 d a (ovpOf v) rtz)
    | 1 => .ok (.fcvtiN32 d a (ovpOf v) rtz)
    | 2 => .ok (.fcvtiI64 d a (ovpOf v) rtz)
    | 3 => .ok (.fcvtiN64 d a (ovpOf v) rtz)
    | 4 => need (v == 0 && !rtz) .code (.icvtfI64 d a)
    | 5 => need (v == 0 && !rtz) .code (.icvtfN64 d a)
    | 8 => need (v == 0 && !rtz) .code (.fwidBf16 d a)
    | 9 => need (v == 0 && !rtz) .code (.fwidF16 d a)
    | 6 => need (!rtz) .code (.fcvtBf16 d a (ovpOf v))
    | 7 => need (!rtz) .code (.fcvtF16 d a (ovpOf v))
    | _ => .error .function
  else .error .nonzeroField

/-- Major 0x0D, scalar FP32 (R78). -/
def decodeFloat (d a b : BitVec 5) (fn : BitVec 11) : Except Reject Instr :=
  if fn.extractLsb' 4 4 = 0x2#4 then
    decodeFcvt d a b (fn.extractLsb' 9 2) (bitOf (fn.extractLsb' 8 1)) (fn.extractLsb' 0 4)
  else
  match fn.toNat with
  | 0x000 => .ok (.fadd d a b)
  | 0x001 => .ok (.fsub d a b)
  | 0x002 => .ok (.fmul d a b)
  | 0x003 => .ok (.fdiv d a b)
  | 0x004 => need (b == 0) .nonzeroField (.fsqrt d a)
  | 0x005 => .ok (.fmin d a b)
  | 0x006 => .ok (.fmax d a b)
  | 0x007 => .ok (.fma d a b)
  | 0x008 => .ok (.fnma d a b)
  | 0x009 => need (b == 0) .nonzeroField (.fabs d a)
  | 0x00A => need (b == 0) .nonzeroField (.fneg d a)
  | 0x010 => (reg3 d).map (.fcmpeq · a b)
  | 0x011 => (reg3 d).map (.fcmplt · a b)
  | 0x012 => (reg3 d).map (.fcmple · a b)
  | 0x013 => (reg3 d).map (.fcmpun · a b)
  | _ => .error .function

/-- Major 0x0E: `LD`, `PF` and `HINT`, with x the low 16 bits of the word (R73, R79). -/
def decodeLoad (d a : BitVec 5) (x : BitVec 16) : Except Reject Instr :=
  match (x.extractLsb' 2 2).toNat with
  | 0 => .ok (.ld d a (x.extractLsb' 4 12) (sizeOf (x.extractLsb' 0 2)))
  | 1 => (scopeOf (x.extractLsb' 13 3)).map (.ldAcq d a · (x.extractLsb' 4 9) (sizeOf (x.extractLsb' 0 2)))
  | 2 =>
    if x.extractLsb' 0 2 = 0 then
      match d.toNat with
      | 0 => .ok (.pfL1 a (x.extractLsb' 4 12))
      | 1 => .ok (.pfL2 a (x.extractLsb' 4 12))
      | _ => .error .function
    else .error .function
  | _ =>
    if x.extractLsb' 0 2 = 0 then
      match d.toNat with
      | 0 => .ok (.hintNeed a (x.extractLsb' 4 12))
      | 1 => .ok (.hintDone a (x.extractLsb' 4 12))
      | 2 => .ok (.hintNear a (x.extractLsb' 4 12))
      | _ => .error .function
    else .error .function

/-- Major 0x0F: `ST` (R73, R79). -/
def decodeStore (s a : BitVec 5) (x : BitVec 16) : Except Reject Instr :=
  match (x.extractLsb' 2 2).toNat with
  | 0 => .ok (.st s a (x.extractLsb' 4 12) (sizeOf (x.extractLsb' 0 2)))
  | 1 => (scopeOf (x.extractLsb' 13 3)).map (.stRel s a · (x.extractLsb' 4 9) (sizeOf (x.extractLsb' 0 2)))
  | _ => .error .function

/-- Bits 15:0 of a relaxed M-format word: off12 and sub (R79). -/
def relaxedLow (off : BitVec 12) (sub : BitVec 4) : BitVec 5 × BitVec 11 :=
  (off.extractLsb' 7 5, off.extractLsb' 0 7 ++ sub)

/-- Bits 15:0 of an ordered M-format word: scope, 9-bit offset and sub (R73). -/
def orderedLow (sc : Scope) (off : BitVec 9) (sub : BitVec 4) : BitVec 5 × BitVec 11 :=
  (sc.code ++ off.extractLsb' 7 2, off.extractLsb' 0 7 ++ sub)

/-- Major 0x10: chained loads (R80, R63). -/
def decodeChain (d a b : BitVec 5) (fn : BitVec 11) : Except Reject Instr :=
  match (fn.extractLsb' 0 8).toNat with
  | 0x00 =>
    if fn.extractLsb' 8 3 = 0 then need (d != 31) .register (.cld d a b) else .error .nonzeroField
  | 0x01 => need (d != 31) .register (.vcld d a b (fn.extractLsb' 8 3))
  | _ => .error .function

/-- Major 0x11: op, size, order and scope (R80). -/
def decodeAtomic (d a b : BitVec 5) (op : BitVec 4) (size : BitVec 2) (o : Order) (sc : Scope) : Except Reject Instr := do
  let z ← amoSizeOf size
  match op.toNat with
  | 0x0 => .ok (.amoAdd d a b z o sc)
  | 0x1 => .ok (.amoAnd d a b z o sc)
  | 0x2 => .ok (.amoOr d a b z o sc)
  | 0x3 => .ok (.amoXor d a b z o sc)
  | 0x4 => .ok (.amoMinI d a b z o sc)
  | 0x5 => .ok (.amoMaxI d a b z o sc)
  | 0x6 => .ok (.amoMinN d a b z o sc)
  | 0x7 => .ok (.amoMaxN d a b z o sc)
  | 0x8 => .ok (.amoSwap d a b z o sc)
  | 0x9 => .ok (.cas d a b z o sc)
  | 0xA => need (z == .w) .code (.famoAdd d a b o sc)
  | 0xB => need (z == .w) .code (.famoMin d a b o sc)
  | 0xC => need (z == .w) .code (.famoMax d a b o sc)
  | _ => .error .function

/-- Major 0x12: reductions, `FRED` of size `.w` and `REDX` of size `.d` (R80; 10_atomics.md R277). -/
noncomputable def decodeReduction (d a b : BitVec 5) (op : BitVec 4) (size : BitVec 2) (rel : Bool) (sc : Scope) : Except Reject Instr := do
  let z ← amoSizeOf size
  match op.toNat with
  | 0x0 => need (d == 0) .nonzeroField (.redAdd a b z rel sc)
  | 0x1 => need (d == 0) .nonzeroField (.redAnd a b z rel sc)
  | 0x2 => need (d == 0) .nonzeroField (.redOr a b z rel sc)
  | 0x3 => need (d == 0) .nonzeroField (.redXor a b z rel sc)
  | 0x4 => need (d == 0) .nonzeroField (.redMinI a b z rel sc)
  | 0x5 => need (d == 0) .nonzeroField (.redMaxI a b z rel sc)
  | 0x6 => need (d == 0) .nonzeroField (.redMinN a b z rel sc)
  | 0x7 => need (d == 0) .nonzeroField (.redMaxN a b z rel sc)
  | 0x8 => if z = .w then need (d == 0) .nonzeroField (.fredAdd a b rel sc) else .error .code
  | 0x9 => if z = .w then need (d == 0) .nonzeroField (.fredMin a b rel sc) else .error .code
  | 0xA => if z = .w then need (d == 0) .nonzeroField (.fredMax a b rel sc) else .error .code
  | 0xB => need (z == .d) .code (.redx d a b rel sc)
  | _ => .error .function

/-- Major 0x13: `FENCE`, `BAR`, `EVWAIT`, `EVSIG` (R80; 11_order.md R302). -/
noncomputable def decodeOrder (d a b : BitVec 5) (op : BitVec 3) (low : BitVec 8) : Except Reject Instr :=
  match op.toNat with
  | 0 =>
    if d = 0 && a = 0 && b = 0 && low.extractLsb' 5 3 = 0 then do
      .ok (.fence (← fenceOrderOf (low.extractLsb' 3 2)) (← scopeOf (low.extractLsb' 0 3)))
    else .error .nonzeroField
  | 1 =>
    if d = 0 && b = 0 && low.extractLsb' 3 5 = 0 then (scopeOf (low.extractLsb' 0 3)).map (.bar a)
    else .error .nonzeroField
  | 2 => need (d == 0 && a == 0 && b == 0 && low.extractLsb' 0 3 == 0) .nonzeroField (.evwait (low.extractLsb' 3 5))
  | 3 => need (d == 0 && a == 0 && b == 0 && low.extractLsb' 0 3 == 0) .nonzeroField (.evsig (low.extractLsb' 3 5))
  | _ => .error .function

/-- Major 0x14, channels: the fields are a, b and c (R81; 13_fabric.md R343). -/
noncomputable def decodeChannel (a b c : BitVec 5) (op : BitVec 3) (low : BitVec 8) : Except Reject Instr :=
  match op.toNat with
  | 0 => need (low == 0) .nonzeroField (.chopen a b c)
  | 1 => need (low == 0 && b == 0 && c == 0) .nonzeroField (.chclose a)
  | 2 => need (low == 0) .nonzeroField (.chstat a b c)
  | 3 => need (low.extractLsb' 2 6 == 0) .nonzeroField (.stc a b c (sizeOf (low.extractLsb' 0 2)))
  | 4 => need (low == 0) .nonzeroField (.flagw a b c)
  | _ => .error .function

/-- Major 0x15, copies: the channel is fn 7:5 and fn 4:0 is zero (R81; 12_copy.md R307). -/
noncomputable def decodeCopy (a b c : BitVec 5) (op : BitVec 3) (low : BitVec 8) : Except Reject Instr :=
  let ch := low.extractLsb' 5 3
  if low.extractLsb' 0 5 = 0 then
    match op.toNat with
    | 0 => .ok (.cpy ch a b c)
    | 1 => .ok (.cpy2d ch a b c)
    | 3 => need (c == 0) .nonzeroField (.cpybind ch a b)
    | 4 => need (a == 0 && b == 0) .nonzeroField (.cpywm ch c)
    | 5 => need (a == 0 && b == 0 && c == 0) .nonzeroField (.cpycan ch)
    | 6 => .ok (.cpyec ch a b c)
    | _ => .error .function
  else .error .nonzeroField

/-- Major 0x16, capabilities and domains (R81; 14_containment.md R356). -/
noncomputable def decodeCapability (a b c : BitVec 5) (op : BitVec 3) (low : BitVec 8) : Except Reject Instr :=
  if low = 0 then
    match op.toNat with
    | 0 => need (c == 0) .nonzeroField (.capgive a b)
    | 1 => need (b == 0 && c == 0) .nonzeroField (.captake a)
    | 2 => need (b == 0) .nonzeroField (.capq a c)
    | 3 => need (b == 0) .nonzeroField (.domopen a c)
    | 4 => need (b == 0 && c == 0) .nonzeroField (.domclose a)
    | 5 => need (b == 0 && c == 0) .nonzeroField (.domfail a)
    | _ => .error .function
  else .error .nonzeroField

/-- Major 0x17: `ALLOCG` and `GENPASS` (R80). -/
noncomputable def decodeAlloc (d a b : BitVec 5) (fn : BitVec 11) : Except Reject Instr :=
  match fn.toNat with
  | 0x000 => need (b == 0) .nonzeroField (.allocg d a)
  | 0x001 => need (d == 0 && b == 0) .nonzeroField (.genpass a)
  | _ => .error .function

/-- Major 0x18, vector floating arithmetic, with lo the fields QA, QD, type and operation of fn (R82; 06_vector.md R169, R184). -/
def decodeVFloat (vd va vb : BitVec 5) (k : Reg3) (lo : BitVec 8) : Except Reject Instr := do
  let t ← ftypeOf (lo.extractLsb' 4 2)
  let s ← vsrcOf (bitOf (lo.extractLsb' 7 1)) va
  let d ← vdstOf (bitOf (lo.extractLsb' 6 1)) vd
  match (lo.extractLsb' 0 4).toNat with
  | 0x0 => .ok (.vaddF d s vb k t)
  | 0x1 => .ok (.vsubF d s vb k t)
  | 0x2 => .ok (.vmulF d s vb k t)
  | 0x3 => .ok (.vdiv d s vb k t)
  | 0x4 => .ok (.vminF d s vb k t)
  | 0x5 => .ok (.vmaxF d s vb k t)
  | 0x6 => need (lo.extractLsb' 6 1 == 0) .code (.vfma vd s vb k t)
  | 0x7 => need (lo.extractLsb' 6 1 == 0) .code (.vfms vd s vb k t)
  | 0x8 => need (lo.extractLsb' 6 1 == 0) .code (.vfnma vd s vb k t)
  | 0x9 => need (vb == 0) .nonzeroField (.vabs d s k t)
  | 0xA => need (vb == 0) .nonzeroField (.vneg d s k t)
  | 0xB => need (vb == 0) .nonzeroField (.vsqrt d s k t)
  | 0xC => need (vb == 0) .nonzeroField (.vrcp d s k t)
  | 0xD => need (vb == 0) .nonzeroField (.vrsq d s k t)
  | 0xE => need (vb == 0) .nonzeroField (.vexp2 d s k t)
  | _ => .error .function

/-- Major 0x19, vector integer arithmetic (R82; 06_vector.md R172). -/
def decodeVInt (vd va vb : BitVec 5) (k : Reg3) (lo : BitVec 8) : Except Reject Instr := do
  let t ← widthOf (lo.extractLsb' 4 2)
  let s ← vsrcOf (bitOf (lo.extractLsb' 7 1)) va
  let d ← vdstOf (bitOf (lo.extractLsb' 6 1)) vd
  match (lo.extractLsb' 0 4).toNat with
  | 0x0 => .ok (.vaddInt d s vb k t)
  | 0x1 => .ok (.vsubInt d s vb k t)
  | 0x2 => .ok (.vmulInt d s vb k t)
  | 0x3 => .ok (.vmulhI d s vb k t)
  | 0x4 => .ok (.vmulhN d s vb k t)
  | 0x5 => .ok (.vminI d s vb k t)
  | 0x6 => .ok (.vminN d s vb k t)
  | 0x7 => .ok (.vmaxI d s vb k t)
  | 0x8 => .ok (.vmaxN d s vb k t)
  | 0x9 => .ok (.vand d s vb k t)
  | 0xA => .ok (.vor d s vb k t)
  | 0xB => .ok (.vxor d s vb k t)
  | 0xC => .ok (.vshl d s vb k t)
  | 0xD => .ok (.vshr d s vb k t)
  | 0xE => .ok (.vsar d s vb k t)
  | _ => .ok (.vadds d s vb k t)

/-- Major 0x1A, `VCVT`: vb holds OVP, RTZ, UNS and a zero bit (R82; 06_vector.md R174). -/
def decodeVCvt (vd va vb : BitVec 5) (k : Reg3) (lo : BitVec 8) : Except Reject Instr := do
  let s ← vsrcOf (bitOf (lo.extractLsb' 7 1)) va
  let d ← vdstOf (bitOf (lo.extractLsb' 6 1)) vd
  let i := Instr.vcvt d s (ovpOf (vb.extractLsb' 3 2)) (bitOf (vb.extractLsb' 2 1)) (bitOf (vb.extractLsb' 1 1)) k
    (cvtTypeOf (lo.extractLsb' 3 3)) (cvtTypeOf (lo.extractLsb' 0 3))
  if vb.extractLsb' 0 1 = 0 then need i.WellFormed .code i else .error .nonzeroField

/-- Major 0x1B, vector compares into the mask that vd names; QD is not allowed (R82; 06_vector.md R176). -/
def decodeVCompare (vd va vb : BitVec 5) (k : Reg3) (lo : BitVec 8) : Except Reject Instr := do
  let s ← vsrcOf (bitOf (lo.extractLsb' 7 1)) va
  let d ← reg3 vd
  let t := rtypeOf (lo.extractLsb' 3 3)
  if lo.extractLsb' 6 1 = 0 then
    match (lo.extractLsb' 0 3).toNat with
    | 0 => .ok (.vcmpeq d s vb k t)
    | 1 => .ok (.vcmpne d s vb k t)
    | 2 => .ok (.vcmplt d s vb k t)
    | 3 => .ok (.vcmple d s vb k t)
    | 4 => .ok (.vcmpgt d s vb k t)
    | 5 => .ok (.vcmpge d s vb k t)
    | 6 => (cmpFtypeOf (lo.extractLsb' 3 3)).map (.vcmpun d s vb k ·)
    | _ => .error .function
  else .error .code

/-- Major 0x1C, reductions and scans; QD is not allowed and vb is zero (R82; 06_vector.md R178, R179). -/
def decodeVReduce (vd va vb : BitVec 5) (k : Reg3) (lo : BitVec 8) : Except Reject Instr := do
  let s ← vsrcOf (bitOf (lo.extractLsb' 7 1)) va
  let t := rtypeOf (lo.extractLsb' 3 3)
  if lo.extractLsb' 6 1 = 0 then
    if vb = 0 then
      match (lo.extractLsb' 0 3).toNat with
      | 0 => .ok (.vrsum vd s k t)
      | 1 => .ok (.vrmin vd s k t)
      | 2 => .ok (.vrmax vd s k t)
      | 3 => .ok (.vscan vd s k t)
      | 4 => .ok (.vscanmin vd s k t)
      | 5 => .ok (.vscanmax vd s k t)
      | 6 => (itypeOf (lo.extractLsb' 3 3)).map (.vrand vd s k ·)
      | _ => (itypeOf (lo.extractLsb' 3 3)).map (.vror vd s k ·)
    else .error .nonzeroField
  else .error .code

/-- Major 0x1D, mask logic; k is zero (R82; 06_vector.md R177). -/
def decodeMask (vd va vb : BitVec 5) (fn : BitVec 11) : Except Reject Instr := do
  match fn.toNat with
  | 0 => .ok (.kand (← reg3 vd) (← reg3 va) (← reg3 vb))
  | 1 => .ok (.kor (← reg3 vd) (← reg3 va) (← reg3 vb))
  | 2 => .ok (.kxor (← reg3 vd) (← reg3 va) (← reg3 vb))
  | 3 => .ok (.kandn (← reg3 vd) (← reg3 va) (← reg3 vb))
  | 4 => need (vb == 0) .nonzeroField (.knot (← reg3 vd) (← reg3 va))
  | 5 => need (vb == 0) .nonzeroField (.kmov (← reg3 vd) (← reg3 va))
  | _ => .error .function

/-- Major 0x1E, permutes, selects and moves (R82; 06_vector.md R180). -/
def decodePermute (vd va vb : BitVec 5) (k : Reg3) (lo : BitVec 8) : Except Reject Instr := do
  let t ← widthOf (lo.extractLsb' 4 2)
  if lo.extractLsb' 6 2 = 0 then
    match (lo.extractLsb' 0 4).toNat with
    | 0 => .ok (.vperm vd va vb k t)
    | 1 => .ok (.vsel vd va vb k t)
    | 2 => .ok (.vbcast vd va vb k t)
    | 3 => .ok (.vslup vd va vb k t)
    | 4 => .ok (.vsldn vd va vb k t)
    | 5 => .ok (.vzip vd va vb k t)
    | 6 => .ok (.vunzip vd va vb k t)
    | 7 => need (vb == 0) .nonzeroField (.vmov vd va k t)
    | _ => .error .function
  else .error .code

/-- Major 0x1F, scalar links, generation and dequantisation (R82; 06_vector.md R181). -/
def decodeLink (vd va vb : BitVec 5) (k : Reg3) (lo : BitVec 8) : Except Reject Instr := do
  let t ← widthOf (lo.extractLsb' 4 2)
  if lo.extractLsb' 6 2 = 0 then
    match (lo.extractLsb' 0 4).toNat with
    | 0 => if t = .w32 then need (vb == 0) .nonzeroField (.vrng vd va k) else .error .code
    | 1 => need (t == .w32) .code (.vdqGq4 vd va vb k)
    | 2 => need (vb == 0) .nonzeroField (.vsplat vd va k t)
    | 3 => need (k == 0) .nonzeroField (.vext vd va vb t)
    | 4 => need (va == 0 && vb == 0) .nonzeroField (.viota vd k t)
    | _ => .error .function
  else .error .code

/-- Majors 0x20, 0x21 and 0x23, vector memory; the groups of R63 end at or before `g31` (R83; 07_scratchpad.md R199,
R200; 13_fabric.md R342). -/
def decodeVMem (major : BitVec 6) (vd va vb : BitVec 5) (k : Reg3) (lo : BitVec 8) : Except Reject Instr := do
  let t ← widthOf (lo.extractLsb' 4 2)
  if lo.extractLsb' 6 2 = 0 then
    match major.toNat, (lo.extractLsb' 0 4).toNat with
    | 0x20, 0 => .ok (.vld vd va vb k t)
    | 0x20, 1 => .ok (.vst vd va vb k t)
    | 0x20, 2 => .ok (.vlds vd va vb k t)
    | 0x20, 3 => .ok (.vsts vd va vb k t)
    | 0x21, 0 => need (va != 31) .register (.vgath vd va vb k t)
    | 0x21, 1 => need (va != 31) .register (.vscat vd va vb k t)
    | 0x23, 0 => .ok (.vstc vd va vb k t)
    | 0x23, 1 => need (va != 30 && va != 31) .register (.vscatc vd va vb k t)
    | _, _ => .error .function
  else .error .code

/-- Major 0x22, sparse records and streams (R83; 07_scratchpad.md R191, R194, R195, R203). -/
def decodeSparse (vd va vb : BitVec 5) (k : Reg3) (lo : BitVec 8) : Except Reject Instr := do
  match lo.toNat with
  | 0x10 => need (vb == 0) .nonzeroField (.vldzBf16 vd va k)
  | 0x11 => need (vb == 0) .nonzeroField (.vstzBf16 vd va k)
  | 0x02 => need (vb == 0 && k == 0) .nonzeroField (.qbind (← reg3 vd) va)
  | 0x03 => need (vb == 0 && k == 0) .nonzeroField (.qstat vd (← reg3 va))
  | 0x04 => need (va == 0 && vb == 0 && k == 0) .nonzeroField (.qflush (← reg3 vd))
  | _ => .error .function

/-- Majors 0x24 to 0x27, matrix: the fields are a, b and c (R84; 08_matrix.md R229, R234). -/
def decodeMatrix (major : BitVec 6) (a b c : BitVec 5) (op : BitVec 3) (low : BitVec 8) : Except Reject Instr :=
  let t : TReg := low.extractLsb' 0 2
  let tileOnly := low.extractLsb' 2 6 == 0
  match major.toNat, op.toNat with
  | 0x24, 0 => need (low == 0 && b == 0 && c == 0) .nonzeroField (.mctx a)
  | 0x24, 1 => need (low == 0 && b == 0 && c == 0) .nonzeroField (.mprog a)
  | 0x24, 2 => need (low == 0 && c == 0) .nonzeroField (.mscale a b)
  | 0x25, 0 => need (tileOnly && a == 0 && b == 0 && c == 0) .nonzeroField (.mzero t)
  | 0x25, 1 => need (low == 0 && b == 0 && c == 0) .nonzeroField (.mldb a)
  | 0x25, 2 => need (tileOnly && c == 0) .nonzeroField (.mldc t a b)
  | 0x25, 3 => need (tileOnly && c == 0) .nonzeroField (.mst t a b)
  | 0x26, 0 => need tileOnly .nonzeroField (.mma t a b c)
  | 0x27, 0 => need (low == 0 && a == 0 && b == 0 && c == 0) .nonzeroField .mring
  | 0x27, 1 => need (low.extractLsb' 4 4 == 0 && b == 0) .nonzeroField
      (.mchk t a c (bitOf (low.extractLsb' 3 1)) (bitOf (low.extractLsb' 2 1)))
  | _, _ => .error .function

/-- Major 0x3F, system: fn 10:7 is the operation (R85; 15_faults.md R382 to R394). -/
def decodeSystem (d a b : BitVec 5) (op : BitVec 4) (low : BitVec 7) : Except Reject Instr :=
  let n : BitVec 12 := b ++ low
  match op.toNat with
  | 0 => need (d == 0 && a == 0) .nonzeroField (.trap n)
  | 1 => need (d == 0 && a == 0 && b == 0 && low == 0) .nonzeroField .eret
  | 2 => need (a == 0) .nonzeroField (.sysr d n)
  | 3 => need (d == 0) .nonzeroField (.sysw n a)
  | 4 => need (d == 0 && b == 0 && low == 0) .nonzeroField (.tlbinv a)
  | 5 => need (d == 0 && low == 0) .nonzeroField (.diagw a b)
  | 6 => need (b == 0 && low == 0) .nonzeroField (.diagr d a)
  | 7 => need (d == 0 && b == 0 && low == 0) .nonzeroField (.mirq a)
  | _ => .error .function

/-- The instruction with the given fields in a major whose words `REP` may capture: 0x08 to 0x0D, 0x18 to 0x1F and 0x26
(R74; 05_tasks.md R146). -/
def decodeCapturable (f : Fields) : Except Reject Instr :=
  let d := f.d
  let a := f.a
  let b := f.b
  let fn := f.fn
  let k := fn.extractLsb' 8 3
  let lo := fn.extractLsb' 0 8
  match f.major.toNat with
  | 0x08 => decodeInt d a b fn
  | 0x09 => .ok (.addi d a (imm16 b fn))
  | 0x0A => .ok (.andi d a (imm16 b fn))
  | 0x0B => .ok (.ori d a (imm16 b fn))
  | 0x0C => decodeCompare d a b fn
  | 0x0D => decodeFloat d a b fn
  | 0x18 => decodeVFloat d a b k lo
  | 0x19 => decodeVInt d a b k lo
  | 0x1A => decodeVCvt d a b k lo
  | 0x1B => decodeVCompare d a b k lo
  | 0x1C => decodeVReduce d a b k lo
  | 0x1D => decodeMask d a b fn
  | 0x1E => decodePermute d a b k lo
  | 0x1F => decodeLink d a b k lo
  | 0x26 => decodeMatrix f.major d a b k lo
  | _ => .error .major

/-- The instruction with the given fields, by major opcode (R74). This definition and those that use it are marked
noncomputable only because the constructors of `Instr` are more than Lean's compiled code has tags for; the kernel
evaluates them. -/
noncomputable def decodeFields (f : Fields) : Except Reject Instr :=
  let d := f.d
  let a := f.a
  let b := f.b
  let fn := f.fn
  let k := fn.extractLsb' 8 3
  let lo := fn.extractLsb' 0 8
  match f.major.toNat with
  | 0x00 => decodeBranch d a b fn
  | 0x01 => .ok (.jal (imm26 d a b fn))
  | 0x02 => .ok (.jalr d a (imm16 b fn))
  | 0x03 => decodeLoop d a b fn
  | 0x04 => .ok (.limm (imm26 d a b fn))
  | 0x05 => decodeRep d a b fn
  | 0x06 => decodeWait d a b fn
  | 0x07 => decodeTask d a b fn
  | 0x0E => decodeLoad d a (imm16 b fn)
  | 0x0F => decodeStore d a (imm16 b fn)
  | 0x10 => decodeChain d a b fn
  | 0x11 => do
    decodeAtomic d a b (fn.extractLsb' 7 4) (fn.extractLsb' 5 2) (orderOf (fn.extractLsb' 3 2))
      (← scopeOf (fn.extractLsb' 0 3))
  | 0x12 => do
    decodeReduction d a b (fn.extractLsb' 7 4) (fn.extractLsb' 5 2) (← redOrderOf (fn.extractLsb' 3 2))
      (← scopeOf (fn.extractLsb' 0 3))
  | 0x13 => decodeOrder d a b k lo
  | 0x14 => decodeChannel d a b k lo
  | 0x15 => decodeCopy d a b k lo
  | 0x16 => decodeCapability d a b k lo
  | 0x17 => decodeAlloc d a b fn
  | 0x20 | 0x21 | 0x23 => decodeVMem f.major d a b k lo
  | 0x22 => decodeSparse d a b k lo
  | 0x24 | 0x25 | 0x27 => decodeMatrix f.major d a b k lo
  | 0x3F => decodeSystem d a b (fn.extractLsb' 7 4) (fn.extractLsb' 0 7)
  | _ => decodeCapturable f

/-- The T9 instruction of a word, or the reason why the word is a reserved encoding (R67 to R86). -/
noncomputable def decode (w : IWord) : Except Reject Instr := decodeFields (Fields.ofWord w)

/-- The host chiplet's instruction of a word of its own RISC-V space: `VLSP`, custom-0, which checks its other fields itself
(16_system.md R424). Words of other major opcodes are RISC-V's and none of the device's. -/
noncomputable def decodeHost (w : IWord) : Option Instr :=
  if w.extractLsb' 0 7 = 0x0B#7 then
    some (.vlsp (w.extractLsb' 25 7 ++ (w.extractLsb' 20 5 ++ w.extractLsb' 12 3)) (w.extractLsb' 15 5) (w.extractLsb' 7 5))
  else none

/-- The word of the first bytes of an instruction, little-endian (R67). -/
def wordOfBytes (bs : List Byte) : IWord :=
  let at4 (i : Nat) : Byte := bs.getD i 0
  at4 3 ++ (at4 2 ++ (at4 1 ++ at4 0))

/-- The bytes of an instruction word, lowest address first (R67). -/
def bytesOfWord (w : IWord) : List Byte :=
  [w.extractLsb' 0 8, w.extractLsb' 8 8, w.extractLsb' 16 8, w.extractLsb' 24 8]

/-- What the decoder reads from an instruction whose bits are `w` as the opcode table numbers them: one 32-bit word,
laid out little-endian (R67). `LIMM` and its follower are two words, of which `w` gives the first. -/
noncomputable def decodeTableWord (nbits w : Nat) : Option Instr :=
  if nbits ≤ 32 then
    match decode (wordOfBytes (bytesOfWord (BitVec.ofNat 32 w))) with
    | .ok i => some i
    | .error _ => none
  else none

/-- The fields of an instruction of the T9 (R75 to R85); the happenings of the device and `VLSP` have none. -/
def encodeFields : Instr → Option Fields
  | .br off => some ⟨0x00, 0#4 ++ off.extractLsb' 21 1, off.extractLsb' 16 5, off.extractLsb' 11 5, off.extractLsb' 0 11⟩
  | .bp p neg off => some ⟨0x00, p ++ (bitFor neg ++ off.extractLsb' 21 1), off.extractLsb' 16 5, off.extractLsb' 11 5, off.extractLsb' 0 11⟩
  | .jal off => some ⟨0x01, off.extractLsb' 21 5, off.extractLsb' 16 5, off.extractLsb' 11 5, off.extractLsb' 0 11⟩
  | .jalr d a imm => some ⟨0x02, d, a, imm.extractLsb' 11 5, imm.extractLsb' 0 11⟩
  | .loop d off => some ⟨0x03, d, 0, off.extractLsb' 11 5, off.extractLsb' 0 11⟩
  | .tend => some ⟨0x03, 0, 0, 0, 0⟩
  | .limm imm => some ⟨0x04, imm.extractLsb' 21 5, imm.extractLsb' 16 5, imm.extractLsb' 11 5, imm.extractLsb' 0 11⟩
  | .rep smask stag len count => some ⟨0x05, 0#1 ++ smask, stag, len ++ count.extractLsb' 11 1, count.extractLsb' 0 11⟩
  | .wait ld st cp mx fb => some ⟨0x06, ld.extractLsb' 1 5, ld.extractLsb' 0 1 ++ st.extractLsb' 2 4, st.extractLsb' 0 2 ++ cp.extractLsb' 2 3, cp.extractLsb' 0 2 ++ (mx ++ fb)⟩
  | .tspawn a b => some ⟨0x07, 0, a, b, 0x000⟩
  | .tdone a => some ⟨0x07, 0, a, 0, 0x001⟩
  | .tyield => some ⟨0x07, 0, 0, 0, 0x002⟩
  | .gang n => some ⟨0x07, 0, 0, (match n with | .two => 2 | .four => 4), 0x003⟩
  | .ungang => some ⟨0x07, 0, 0, 0, 0x004⟩
  | .send d a b => some ⟨0x07, d, a, b, 0x005⟩
  | .recv d a b => some ⟨0x07, d, a, b, 0x006⟩
  | .phase s => some ⟨0x07, 0, 0, 0, opFn 0 (lineLow 2 s.code)⟩
  | .add d a b => some ⟨0x08, d, a, b, 0x000⟩
  | .sub d a b => some ⟨0x08, d, a, b, 0x001⟩
  | .and d a b => some ⟨0x08, d, a, b, 0x002⟩
  | .or d a b => some ⟨0x08, d, a, b, 0x003⟩
  | .xor d a b => some ⟨0x08, d, a, b, 0x004⟩
  | .andn d a b => some ⟨0x08, d, a, b, 0x005⟩
  | .shl d a b => some ⟨0x08, d, a, b, 0x006⟩
  | .shr d a b => some ⟨0x08, d, a, b, 0x007⟩
  | .sar d a b => some ⟨0x08, d, a, b, 0x008⟩
  | .rol d a b => some ⟨0x08, d, a, b, 0x009⟩
  | .minI64 d a b => some ⟨0x08, d, a, b, 0x00A⟩
  | .minN64 d a b => some ⟨0x08, d, a, b, 0x00B⟩
  | .maxI64 d a b => some ⟨0x08, d, a, b, 0x00C⟩
  | .maxN64 d a b => some ⟨0x08, d, a, b, 0x00D⟩
  | .mul d a b => some ⟨0x08, d, a, b, 0x010⟩
  | .mulhI64 d a b => some ⟨0x08, d, a, b, 0x011⟩
  | .mulhN64 d a b => some ⟨0x08, d, a, b, 0x012⟩
  | .divI64 d a b => some ⟨0x08, d, a, b, 0x014⟩
  | .divN64 d a b => some ⟨0x08, d, a, b, 0x015⟩
  | .remI64 d a b => some ⟨0x08, d, a, b, 0x016⟩
  | .remN64 d a b => some ⟨0x08, d, a, b, 0x017⟩
  | .sextB d a => some ⟨0x08, d, a, 0, 0x018⟩
  | .sextH d a => some ⟨0x08, d, a, 0, 0x019⟩
  | .sextW d a => some ⟨0x08, d, a, 0, 0x01A⟩
  | .zextB d a => some ⟨0x08, d, a, 0, 0x01C⟩
  | .zextH d a => some ⟨0x08, d, a, 0, 0x01D⟩
  | .zextW d a => some ⟨0x08, d, a, 0, 0x01E⟩
  | .bext d a b => some ⟨0x08, d, a, b, 0x020⟩
  | .bins d a b => some ⟨0x08, d, a, b, 0x021⟩
  | .clz d a => some ⟨0x08, d, a, 0, 0x022⟩
  | .ctz d a => some ⟨0x08, d, a, 0, 0x023⟩
  | .popc d a => some ⟨0x08, d, a, 0, 0x024⟩
  | .brev d a => some ⟨0x08, d, a, 0, 0x025⟩
  | .leaH d a b => some ⟨0x08, d, a, b, 0x029⟩
  | .leaW d a b => some ⟨0x08, d, a, b, 0x02A⟩
  | .leaD d a b => some ⟨0x08, d, a, b, 0x02B⟩
  | .shlImm d a n => some ⟨0x08, d, a, 0, opFn 1 (selLow 0 n)⟩
  | .shrImm d a n => some ⟨0x08, d, a, 0, opFn 1 (selLow 1 n)⟩
  | .sarImm d a n => some ⟨0x08, d, a, 0, opFn 1 (selLow 2 n)⟩
  | .rolImm d a n => some ⟨0x08, d, a, 0, opFn 1 (selLow 3 n)⟩
  | .addi d a imm => some ⟨0x09, d, a, imm.extractLsb' 11 5, imm.extractLsb' 0 11⟩
  | .andi d a imm => some ⟨0x0A, d, a, imm.extractLsb' 11 5, imm.extractLsb' 0 11⟩
  | .ori d a imm => some ⟨0x0B, d, a, imm.extractLsb' 11 5, imm.extractLsb' 0 11⟩
  | .cmpeq p a b => some ⟨0x0C, reg3Field p, a, b, 0x000⟩
  | .cmpeqImm p a imm => some ⟨0x0C, reg3Field p, a, imm, 0x400⟩
  | .cmpne p a b => some ⟨0x0C, reg3Field p, a, b, 0x001⟩
  | .cmpneImm p a imm => some ⟨0x0C, reg3Field p, a, imm, 0x401⟩
  | .cmpltI64 p a b => some ⟨0x0C, reg3Field p, a, b, 0x002⟩
  | .cmpltI64Imm p a imm => some ⟨0x0C, reg3Field p, a, imm, 0x402⟩
  | .cmpltN64 p a b => some ⟨0x0C, reg3Field p, a, b, 0x003⟩
  | .cmpltN64Imm p a imm => some ⟨0x0C, reg3Field p, a, imm, 0x403⟩
  | .cmpleI64 p a b => some ⟨0x0C, reg3Field p, a, b, 0x004⟩
  | .cmpleI64Imm p a imm => some ⟨0x0C, reg3Field p, a, imm, 0x404⟩
  | .cmpleN64 p a b => some ⟨0x0C, reg3Field p, a, b, 0x005⟩
  | .cmpleN64Imm p a imm => some ⟨0x0C, reg3Field p, a, imm, 0x405⟩
  | .cmpgtI64 p a b => some ⟨0x0C, reg3Field p, a, b, 0x006⟩
  | .cmpgtI64Imm p a imm => some ⟨0x0C, reg3Field p, a, imm, 0x406⟩
  | .cmpgtN64 p a b => some ⟨0x0C, reg3Field p, a, b, 0x007⟩
  | .cmpgtN64Imm p a imm => some ⟨0x0C, reg3Field p, a, imm, 0x407⟩
  | .cmpgeI64 p a b => some ⟨0x0C, reg3Field p, a, b, 0x008⟩
  | .cmpgeI64Imm p a imm => some ⟨0x0C, reg3Field p, a, imm, 0x408⟩
  | .cmpgeN64 p a b => some ⟨0x0C, reg3Field p, a, b, 0x009⟩
  | .cmpgeN64Imm p a imm => some ⟨0x0C, reg3Field p, a, imm, 0x409⟩
  | .pand d a b => some ⟨0x0C, reg3Field d, reg3Field a, reg3Field b, 0x010⟩
  | .por d a b => some ⟨0x0C, reg3Field d, reg3Field a, reg3Field b, 0x011⟩
  | .pxor d a b => some ⟨0x0C, reg3Field d, reg3Field a, reg3Field b, 0x012⟩
  | .pandn d a b => some ⟨0x0C, reg3Field d, reg3Field a, reg3Field b, 0x013⟩
  | .pnot d a => some ⟨0x0C, reg3Field d, reg3Field a, 0, 0x014⟩
  | .pmov d a => some ⟨0x0C, reg3Field d, reg3Field a, 0, 0x015⟩
  | .pget d => some ⟨0x0C, d, 0, 0, 0x020⟩
  | .pset a => some ⟨0x0C, 0, a, 0, 0x021⟩
  | .fadd d a b => some ⟨0x0D, d, a, b, 0x000⟩
  | .fsub d a b => some ⟨0x0D, d, a, b, 0x001⟩
  | .fmul d a b => some ⟨0x0D, d, a, b, 0x002⟩
  | .fdiv d a b => some ⟨0x0D, d, a, b, 0x003⟩
  | .fsqrt d a => some ⟨0x0D, d, a, 0, 0x004⟩
  | .fmin d a b => some ⟨0x0D, d, a, b, 0x005⟩
  | .fmax d a b => some ⟨0x0D, d, a, b, 0x006⟩
  | .fma d a b => some ⟨0x0D, d, a, b, 0x007⟩
  | .fnma d a b => some ⟨0x0D, d, a, b, 0x008⟩
  | .fabs d a => some ⟨0x0D, d, a, 0, 0x009⟩
  | .fneg d a => some ⟨0x0D, d, a, 0, 0x00A⟩
  | .fcmpeq p a b => some ⟨0x0D, reg3Field p, a, b, 0x010⟩
  | .fcmplt p a b => some ⟨0x0D, reg3Field p, a, b, 0x011⟩
  | .fcmple p a b => some ⟨0x0D, reg3Field p, a, b, 0x012⟩
  | .fcmpun p a b => some ⟨0x0D, reg3Field p, a, b, 0x013⟩
  | .fcvtiI32 d a ovp rtz => some ⟨0x0D, d, a, 0, cvtFn ovp.code (bitFor rtz) 0⟩
  | .fcvtiN32 d a ovp rtz => some ⟨0x0D, d, a, 0, cvtFn ovp.code (bitFor rtz) 1⟩
  | .fcvtiI64 d a ovp rtz => some ⟨0x0D, d, a, 0, cvtFn ovp.code (bitFor rtz) 2⟩
  | .fcvtiN64 d a ovp rtz => some ⟨0x0D, d, a, 0, cvtFn ovp.code (bitFor rtz) 3⟩
  | .icvtfI64 d a => some ⟨0x0D, d, a, 0, cvtFn 0 0 4⟩
  | .icvtfN64 d a => some ⟨0x0D, d, a, 0, cvtFn 0 0 5⟩
  | .fcvtBf16 d a ovp => some ⟨0x0D, d, a, 0, cvtFn ovp.code 0 6⟩
  | .fcvtF16 d a ovp => some ⟨0x0D, d, a, 0, cvtFn ovp.code 0 7⟩
  | .fwidBf16 d a => some ⟨0x0D, d, a, 0, cvtFn 0 0 8⟩
  | .fwidF16 d a => some ⟨0x0D, d, a, 0, cvtFn 0 0 9⟩
  | .ld d a off z => some ⟨0x0E, d, a, (relaxedLow off (0#2 ++ z.code)).1, (relaxedLow off (0#2 ++ z.code)).2⟩
  | .ldAcq d a sc off z => some ⟨0x0E, d, a, (orderedLow sc off (1#2 ++ z.code)).1, (orderedLow sc off (1#2 ++ z.code)).2⟩
  | .pfL1 a off => some ⟨0x0E, 0, a, (relaxedLow off 8).1, (relaxedLow off 8).2⟩
  | .pfL2 a off => some ⟨0x0E, 1, a, (relaxedLow off 8).1, (relaxedLow off 8).2⟩
  | .hintNeed a off => some ⟨0x0E, 0, a, (relaxedLow off 12).1, (relaxedLow off 12).2⟩
  | .hintDone a off => some ⟨0x0E, 1, a, (relaxedLow off 12).1, (relaxedLow off 12).2⟩
  | .hintNear a off => some ⟨0x0E, 2, a, (relaxedLow off 12).1, (relaxedLow off 12).2⟩
  | .st s a off z => some ⟨0x0F, s, a, (relaxedLow off (0#2 ++ z.code)).1, (relaxedLow off (0#2 ++ z.code)).2⟩
  | .stRel s a sc off z => some ⟨0x0F, s, a, (orderedLow sc off (1#2 ++ z.code)).1, (orderedLow sc off (1#2 ++ z.code)).2⟩
  | .vaddF d a b k t => some ⟨0x18, d.field, a.field, b, opFn k (widthLow a.qa d.qd t.code 0x0)⟩
  | .vsubF d a b k t => some ⟨0x18, d.field, a.field, b, opFn k (widthLow a.qa d.qd t.code 0x1)⟩
  | .vmulF d a b k t => some ⟨0x18, d.field, a.field, b, opFn k (widthLow a.qa d.qd t.code 0x2)⟩
  | .vdiv d a b k t => some ⟨0x18, d.field, a.field, b, opFn k (widthLow a.qa d.qd t.code 0x3)⟩
  | .vminF d a b k t => some ⟨0x18, d.field, a.field, b, opFn k (widthLow a.qa d.qd t.code 0x4)⟩
  | .vmaxF d a b k t => some ⟨0x18, d.field, a.field, b, opFn k (widthLow a.qa d.qd t.code 0x5)⟩
  | .vfma d a b k t => some ⟨0x18, d, a.field, b, opFn k (widthLow a.qa 0 t.code 0x6)⟩
  | .vfms d a b k t => some ⟨0x18, d, a.field, b, opFn k (widthLow a.qa 0 t.code 0x7)⟩
  | .vfnma d a b k t => some ⟨0x18, d, a.field, b, opFn k (widthLow a.qa 0 t.code 0x8)⟩
  | .vabs d a k t => some ⟨0x18, d.field, a.field, 0, opFn k (widthLow a.qa d.qd t.code 0x9)⟩
  | .vneg d a k t => some ⟨0x18, d.field, a.field, 0, opFn k (widthLow a.qa d.qd t.code 0xA)⟩
  | .vsqrt d a k t => some ⟨0x18, d.field, a.field, 0, opFn k (widthLow a.qa d.qd t.code 0xB)⟩
  | .vrcp d a k t => some ⟨0x18, d.field, a.field, 0, opFn k (widthLow a.qa d.qd t.code 0xC)⟩
  | .vrsq d a k t => some ⟨0x18, d.field, a.field, 0, opFn k (widthLow a.qa d.qd t.code 0xD)⟩
  | .vexp2 d a k t => some ⟨0x18, d.field, a.field, 0, opFn k (widthLow a.qa d.qd t.code 0xE)⟩
  | .vaddInt d a b k w => some ⟨0x19, d.field, a.field, b, opFn k (widthLow a.qa d.qd w.code 0x0)⟩
  | .vsubInt d a b k w => some ⟨0x19, d.field, a.field, b, opFn k (widthLow a.qa d.qd w.code 0x1)⟩
  | .vmulInt d a b k w => some ⟨0x19, d.field, a.field, b, opFn k (widthLow a.qa d.qd w.code 0x2)⟩
  | .vmulhI d a b k w => some ⟨0x19, d.field, a.field, b, opFn k (widthLow a.qa d.qd w.code 0x3)⟩
  | .vmulhN d a b k w => some ⟨0x19, d.field, a.field, b, opFn k (widthLow a.qa d.qd w.code 0x4)⟩
  | .vminI d a b k w => some ⟨0x19, d.field, a.field, b, opFn k (widthLow a.qa d.qd w.code 0x5)⟩
  | .vminN d a b k w => some ⟨0x19, d.field, a.field, b, opFn k (widthLow a.qa d.qd w.code 0x6)⟩
  | .vmaxI d a b k w => some ⟨0x19, d.field, a.field, b, opFn k (widthLow a.qa d.qd w.code 0x7)⟩
  | .vmaxN d a b k w => some ⟨0x19, d.field, a.field, b, opFn k (widthLow a.qa d.qd w.code 0x8)⟩
  | .vand d a b k w => some ⟨0x19, d.field, a.field, b, opFn k (widthLow a.qa d.qd w.code 0x9)⟩
  | .vor d a b k w => some ⟨0x19, d.field, a.field, b, opFn k (widthLow a.qa d.qd w.code 0xA)⟩
  | .vxor d a b k w => some ⟨0x19, d.field, a.field, b, opFn k (widthLow a.qa d.qd w.code 0xB)⟩
  | .vshl d a b k w => some ⟨0x19, d.field, a.field, b, opFn k (widthLow a.qa d.qd w.code 0xC)⟩
  | .vshr d a b k w => some ⟨0x19, d.field, a.field, b, opFn k (widthLow a.qa d.qd w.code 0xD)⟩
  | .vsar d a b k w => some ⟨0x19, d.field, a.field, b, opFn k (widthLow a.qa d.qd w.code 0xE)⟩
  | .vadds d a b k w => some ⟨0x19, d.field, a.field, b, opFn k (widthLow a.qa d.qd w.code 0xF)⟩
  | .vcvt d a ovp rtz uns k dst src => some ⟨0x1A, d.field, a.field, ovp.code ++ (bitFor rtz ++ (bitFor uns ++ 0#1)), opFn k (typeLow a.qa d.qd dst.code src.code)⟩
  | .vcmpeq d a b k t => some ⟨0x1B, reg3Field d, a.field, b, opFn k (typeLow a.qa 0 t.code 0)⟩
  | .vcmpne d a b k t => some ⟨0x1B, reg3Field d, a.field, b, opFn k (typeLow a.qa 0 t.code 1)⟩
  | .vcmplt d a b k t => some ⟨0x1B, reg3Field d, a.field, b, opFn k (typeLow a.qa 0 t.code 2)⟩
  | .vcmple d a b k t => some ⟨0x1B, reg3Field d, a.field, b, opFn k (typeLow a.qa 0 t.code 3)⟩
  | .vcmpgt d a b k t => some ⟨0x1B, reg3Field d, a.field, b, opFn k (typeLow a.qa 0 t.code 4)⟩
  | .vcmpge d a b k t => some ⟨0x1B, reg3Field d, a.field, b, opFn k (typeLow a.qa 0 t.code 5)⟩
  | .vcmpun d a b k t => some ⟨0x1B, reg3Field d, a.field, b, opFn k (typeLow a.qa 0 t.cmpCode 6)⟩
  | .vrsum d a k t => some ⟨0x1C, d, a.field, 0, opFn k (typeLow a.qa 0 t.code 0)⟩
  | .vrmin d a k t => some ⟨0x1C, d, a.field, 0, opFn k (typeLow a.qa 0 t.code 1)⟩
  | .vrmax d a k t => some ⟨0x1C, d, a.field, 0, opFn k (typeLow a.qa 0 t.code 2)⟩
  | .vscan d a k t => some ⟨0x1C, d, a.field, 0, opFn k (typeLow a.qa 0 t.code 3)⟩
  | .vscanmin d a k t => some ⟨0x1C, d, a.field, 0, opFn k (typeLow a.qa 0 t.code 4)⟩
  | .vscanmax d a k t => some ⟨0x1C, d, a.field, 0, opFn k (typeLow a.qa 0 t.code 5)⟩
  | .vrand d a k t => some ⟨0x1C, d, a.field, 0, opFn k (typeLow a.qa 0 t.code 6)⟩
  | .vror d a k t => some ⟨0x1C, d, a.field, 0, opFn k (typeLow a.qa 0 t.code 7)⟩
  | .kand d a b => some ⟨0x1D, reg3Field d, reg3Field a, reg3Field b, 0x000⟩
  | .kor d a b => some ⟨0x1D, reg3Field d, reg3Field a, reg3Field b, 0x001⟩
  | .kxor d a b => some ⟨0x1D, reg3Field d, reg3Field a, reg3Field b, 0x002⟩
  | .kandn d a b => some ⟨0x1D, reg3Field d, reg3Field a, reg3Field b, 0x003⟩
  | .knot d a => some ⟨0x1D, reg3Field d, reg3Field a, 0, 0x004⟩
  | .kmov d a => some ⟨0x1D, reg3Field d, reg3Field a, 0, 0x005⟩
  | .vperm d a b k w => some ⟨0x1E, d, a, b, opFn k (widthLow 0 0 w.code 0x0)⟩
  | .vsel d a b k w => some ⟨0x1E, d, a, b, opFn k (widthLow 0 0 w.code 0x1)⟩
  | .vbcast d a b k w => some ⟨0x1E, d, a, b, opFn k (widthLow 0 0 w.code 0x2)⟩
  | .vslup d a b k w => some ⟨0x1E, d, a, b, opFn k (widthLow 0 0 w.code 0x3)⟩
  | .vsldn d a b k w => some ⟨0x1E, d, a, b, opFn k (widthLow 0 0 w.code 0x4)⟩
  | .vzip d a b k w => some ⟨0x1E, d, a, b, opFn k (widthLow 0 0 w.code 0x5)⟩
  | .vunzip d a b k w => some ⟨0x1E, d, a, b, opFn k (widthLow 0 0 w.code 0x6)⟩
  | .vmov d a k w => some ⟨0x1E, d, a, 0, opFn k (widthLow 0 0 w.code 0x7)⟩
  | .vrng d a k => some ⟨0x1F, d, a, 0, opFn k 0x00⟩
  | .vdqGq4 d a b k => some ⟨0x1F, d, a, b, opFn k 0x01⟩
  | .vsplat d a k w => some ⟨0x1F, d, a, 0, opFn k (widthLow 0 0 w.code 0x2)⟩
  | .vext d a b w => some ⟨0x1F, d, a, b, opFn 0 (widthLow 0 0 w.code 0x3)⟩
  | .viota d k w => some ⟨0x1F, d, 0, 0, opFn k (widthLow 0 0 w.code 0x4)⟩
  | .vld d a b k w => some ⟨0x20, d, a, b, opFn k (widthLow 0 0 w.code 0x0)⟩
  | .vst d a b k w => some ⟨0x20, d, a, b, opFn k (widthLow 0 0 w.code 0x1)⟩
  | .vlds d a b k w => some ⟨0x20, d, a, b, opFn k (widthLow 0 0 w.code 0x2)⟩
  | .vsts d a b k w => some ⟨0x20, d, a, b, opFn k (widthLow 0 0 w.code 0x3)⟩
  | .vgath d a b k w => some ⟨0x21, d, a, b, opFn k (widthLow 0 0 w.code 0x0)⟩
  | .vscat d a b k w => some ⟨0x21, d, a, b, opFn k (widthLow 0 0 w.code 0x1)⟩
  | .vldzBf16 d a k => some ⟨0x22, d, a, 0, opFn k 0x10⟩
  | .vstzBf16 d a k => some ⟨0x22, d, a, 0, opFn k 0x11⟩
  | .qbind d a => some ⟨0x22, reg3Field d, a, 0, 0x002⟩
  | .qstat d a => some ⟨0x22, d, reg3Field a, 0, 0x003⟩
  | .qflush d => some ⟨0x22, reg3Field d, 0, 0, 0x004⟩
  | .vstc d a b k w => some ⟨0x23, d, a, b, opFn k (widthLow 0 0 w.code 0x0)⟩
  | .vscatc d a b k w => some ⟨0x23, d, a, b, opFn k (widthLow 0 0 w.code 0x1)⟩
  | .mctx a => some ⟨0x24, a, 0, 0, 0x000⟩
  | .mprog a => some ⟨0x24, a, 0, 0, 0x100⟩
  | .mscale a b => some ⟨0x24, a, b, 0, 0x200⟩
  | .mzero t => some ⟨0x25, 0, 0, 0, opFn 0 (tileLow t)⟩
  | .mldb a => some ⟨0x25, a, 0, 0, 0x100⟩
  | .mldc t a b => some ⟨0x25, a, b, 0, opFn 2 (tileLow t)⟩
  | .mst t a b => some ⟨0x25, a, b, 0, opFn 3 (tileLow t)⟩
  | .mma t a b c => some ⟨0x26, a, b, c, opFn 0 (tileLow t)⟩
  | .mring => some ⟨0x27, 0, 0, 0, 0x000⟩
  | .mchk t a c raise fix => some ⟨0x27, a, 0, c, opFn 1 (checkLow (bitFor raise) (bitFor fix) t)⟩
  | .trap n => some ⟨0x3F, 0, 0, n.extractLsb' 7 5, sysFn 0 (n.extractLsb' 0 7)⟩
  | .eret => some ⟨0x3F, 0, 0, 0, 0x080⟩
  | .sysr d n => some ⟨0x3F, d, 0, n.extractLsb' 7 5, sysFn 2 (n.extractLsb' 0 7)⟩
  | .sysw n a => some ⟨0x3F, 0, a, n.extractLsb' 7 5, sysFn 3 (n.extractLsb' 0 7)⟩
  | .tlbinv a => some ⟨0x3F, 0, a, 0, 0x200⟩
  | .diagw a b => some ⟨0x3F, 0, a, b, 0x280⟩
  | .diagr d a => some ⟨0x3F, d, a, 0, 0x300⟩
  | .mirq a => some ⟨0x3F, 0, a, 0, 0x380⟩
  | .cld d a b => some ⟨0x10, d, a, b, 0x000⟩
  | .vcld d a b k => some ⟨0x10, d, a, b, opFn k 0x01⟩
  | .amoAdd d a b z o sc => some ⟨0x11, d, a, b, amoFn 0x0 z.code o.code sc.code⟩
  | .amoAnd d a b z o sc => some ⟨0x11, d, a, b, amoFn 0x1 z.code o.code sc.code⟩
  | .amoOr d a b z o sc => some ⟨0x11, d, a, b, amoFn 0x2 z.code o.code sc.code⟩
  | .amoXor d a b z o sc => some ⟨0x11, d, a, b, amoFn 0x3 z.code o.code sc.code⟩
  | .amoMinI d a b z o sc => some ⟨0x11, d, a, b, amoFn 0x4 z.code o.code sc.code⟩
  | .amoMaxI d a b z o sc => some ⟨0x11, d, a, b, amoFn 0x5 z.code o.code sc.code⟩
  | .amoMinN d a b z o sc => some ⟨0x11, d, a, b, amoFn 0x6 z.code o.code sc.code⟩
  | .amoMaxN d a b z o sc => some ⟨0x11, d, a, b, amoFn 0x7 z.code o.code sc.code⟩
  | .amoSwap d a b z o sc => some ⟨0x11, d, a, b, amoFn 0x8 z.code o.code sc.code⟩
  | .cas d a b z o sc => some ⟨0x11, d, a, b, amoFn 0x9 z.code o.code sc.code⟩
  | .famoAdd d a b o sc => some ⟨0x11, d, a, b, amoFn 0xA 2 o.code sc.code⟩
  | .famoMin d a b o sc => some ⟨0x11, d, a, b, amoFn 0xB 2 o.code sc.code⟩
  | .famoMax d a b o sc => some ⟨0x11, d, a, b, amoFn 0xC 2 o.code sc.code⟩
  | .redAdd a b z rel sc => some ⟨0x12, 0, a, b, amoFn 0x0 z.code (redOrder rel) sc.code⟩
  | .redAnd a b z rel sc => some ⟨0x12, 0, a, b, amoFn 0x1 z.code (redOrder rel) sc.code⟩
  | .redOr a b z rel sc => some ⟨0x12, 0, a, b, amoFn 0x2 z.code (redOrder rel) sc.code⟩
  | .redXor a b z rel sc => some ⟨0x12, 0, a, b, amoFn 0x3 z.code (redOrder rel) sc.code⟩
  | .redMinI a b z rel sc => some ⟨0x12, 0, a, b, amoFn 0x4 z.code (redOrder rel) sc.code⟩
  | .redMaxI a b z rel sc => some ⟨0x12, 0, a, b, amoFn 0x5 z.code (redOrder rel) sc.code⟩
  | .redMinN a b z rel sc => some ⟨0x12, 0, a, b, amoFn 0x6 z.code (redOrder rel) sc.code⟩
  | .redMaxN a b z rel sc => some ⟨0x12, 0, a, b, amoFn 0x7 z.code (redOrder rel) sc.code⟩
  | .fredAdd a b rel sc => some ⟨0x12, 0, a, b, amoFn 0x8 2 (redOrder rel) sc.code⟩
  | .fredMin a b rel sc => some ⟨0x12, 0, a, b, amoFn 0x9 2 (redOrder rel) sc.code⟩
  | .fredMax a b rel sc => some ⟨0x12, 0, a, b, amoFn 0xA 2 (redOrder rel) sc.code⟩
  | .redx d a b rel sc => some ⟨0x12, d, a, b, amoFn 0xB 3 (redOrder rel) sc.code⟩
  | .fence o sc => some ⟨0x13, 0, 0, 0, opFn 0 (fenceLow o.code sc.code)⟩
  | .bar a sc => some ⟨0x13, 0, a, 0, opFn 1 (lineLow 0 sc.code)⟩
  | .evwait n => some ⟨0x13, 0, 0, 0, opFn 2 (lineLow n 0)⟩
  | .evsig n => some ⟨0x13, 0, 0, 0, opFn 3 (lineLow n 0)⟩
  | .chopen a b c => some ⟨0x14, a, b, c, 0x000⟩
  | .chclose a => some ⟨0x14, a, 0, 0, 0x100⟩
  | .chstat a b c => some ⟨0x14, a, b, c, 0x200⟩
  | .stc a b c z => some ⟨0x14, a, b, c, opFn 3 (tileLow z.code)⟩
  | .flagw a b c => some ⟨0x14, a, b, c, 0x400⟩
  | .cpy ch a b c => some ⟨0x15, a, b, c, opFn 0 (chanLow ch)⟩
  | .cpy2d ch a b c => some ⟨0x15, a, b, c, opFn 1 (chanLow ch)⟩
  | .cpybind ch a b => some ⟨0x15, a, b, 0, opFn 3 (chanLow ch)⟩
  | .cpywm ch c => some ⟨0x15, 0, 0, c, opFn 4 (chanLow ch)⟩
  | .cpycan ch => some ⟨0x15, 0, 0, 0, opFn 5 (chanLow ch)⟩
  | .cpyec ch a b c => some ⟨0x15, a, b, c, opFn 6 (chanLow ch)⟩
  | .capgive a b => some ⟨0x16, a, b, 0, 0x000⟩
  | .captake a => some ⟨0x16, a, 0, 0, 0x100⟩
  | .capq a c => some ⟨0x16, a, 0, c, 0x200⟩
  | .domopen a c => some ⟨0x16, a, 0, c, 0x300⟩
  | .domclose a => some ⟨0x16, a, 0, 0, 0x400⟩
  | .domfail a => some ⟨0x16, a, 0, 0, 0x500⟩
  | .allocg d a => some ⟨0x17, d, a, 0, 0x000⟩
  | .genpass a => some ⟨0x17, 0, a, 0, 0x001⟩
  | _ => none

/-- The word of an instruction of the T9. -/
def encode (i : Instr) : Option IWord := (encodeFields i).map Fields.toWord

/-- The word of the host chiplet's `VLSP` (16_system.md R424). -/
def encodeVlsp (f : BitVec 15) (s d : BitVec 5) : IWord :=
  f.extractLsb' 8 7 ++ (f.extractLsb' 3 5 ++ (s ++ (f.extractLsb' 0 3 ++ (d ++ 0x0B#7))))

end Sys2Proof
end

