-- ==== Sys2Proof/Machine/Scalar.lean ====
section
/-! DEFINITION. Scalar integer, compare, predicate and FP32 instructions, majors 0x08 to 0x0D (04_scalar.md). -/

namespace Sys2Proof.Machine

/-- The issuing task writes a result into `g`d (04_scalar.md R102, R103). -/
def writeG (s : State) (d : GReg) (f : Task → Word) : Out State :=
  withTask s fun t => complete s (t.setG d (f t))

/-- The issuing task writes a predicate (R109, R110). -/
def writeP (s : State) (p : Reg3) (f : Task → Bool) : Out State :=
  withTask s fun t => complete s (t.setP p (f t))

/-- Signed or unsigned minimum and maximum (R102). -/
def minMax (signed mx : Bool) (a b : Word) : Word :=
  let less := if signed then a.slt b else a.ult b
  if less != mx then a else b

/-- Shift left; 0 for counts of 64 and more (R104). -/
def shiftLeft (a : Word) (c : Nat) : Word := if 64 ≤ c then 0 else a <<< c
/-- Logical shift right (R104). -/
def shiftRight (a : Word) (c : Nat) : Word := if 64 ≤ c then 0 else a >>> c
/-- Arithmetic shift right (R104). -/
def shiftArith (a : Word) (c : Nat) : Word := if 64 ≤ c then (if a.msb then BitVec.allOnes 64 else 0) else a.sshiftRight c
/-- Rotate left by the count modulo 64 (R104). -/
def rotate (a : Word) (c : Nat) : Word := a <<< (c % 64) ||| a >>> ((64 - c % 64) % 64)

/-- Bits 127:64 of the product (R105). -/
def mulHigh (signed : Bool) (a b : Word) : Word :=
  if signed then BitVec.ofInt 64 (a.toInt * b.toInt / 2 ^ 64) else BitVec.ofNat 64 (a.toNat * b.toNat / 2 ^ 64)

/-- Quotient (R106). -/
def quotient (signed : Bool) (a b : Word) : Word :=
  if b = 0 then BitVec.allOnes 64
  else if signed then BitVec.ofInt 64 (a.toInt.tdiv b.toInt) else BitVec.ofNat 64 (a.toNat / b.toNat)

/-- Remainder (R106). -/
def remainder (signed : Bool) (a b : Word) : Word :=
  if b = 0 then a
  else if signed then BitVec.ofInt 64 (a.toInt.tmod b.toInt) else BitVec.ofNat 64 (a.toNat % b.toNat)

/-- Sign extension of the low `w` bits (R107). -/
def signLow (w : Nat) (a : Word) : Word := (a.setWidth w).signExtend 64
/-- Zero extension of the low `w` bits (R107). -/
def zeroLow (w : Nat) (a : Word) : Word := (a.setWidth w).zeroExtend 64

/-- Position and width of the field that a `BEXT` or `BINS` descriptor names (R108). -/
def fieldOf (b : Word) : Nat × Nat :=
  (field b.toNat 0 6, if field b.toNat 8 6 = 0 then 64 else field b.toNat 8 6)
/-- The bits that `BEXT` reads (R108). -/
def extractField (a b : Word) : Word :=
  let (pos, w) := fieldOf b
  BitVec.ofNat 64 (a.toNat >>> pos % 2 ^ w)
/-- `g`d with the field that `BINS` writes (R108). -/
def insertField (d a b : Word) : Word :=
  let (pos, w) := fieldOf b
  let m := BitVec.ofNat 64 ((2 ^ w - 1) <<< pos)
  d &&& ~~~m ||| a <<< pos &&& m

/-- The relations of the integer compares (R109). -/
inductive IRel where
  | eq | ne | lt | le | gt | ge
deriving DecidableEq, Repr

/-- Does a relation hold, signed or unsigned (R109)? -/
def IRel.holds (r : IRel) (signed : Bool) (a b : Word) : Bool :=
  let less (x y : Word) := if signed then x.slt y else x.ult y
  match r with
  | .eq => a == b
  | .ne => a != b
  | .lt => less a b
  | .le => !less b a
  | .gt => less b a
  | .ge => !less a b

/-- FP32 pattern in the low half of a register (R98). -/
def fp32Of (a : Word) : Nat := (a.setWidth 32).toNat

/-- The issuing task writes an FP32 result with its flags (R98, R111). -/
def writeF (s : State) (d : GReg) (f : Task → Rounded) : Out State :=
  withTask s fun t => complete s ((t.setG d (BitVec.ofNat 64 (f t).bits)).raise (f t).flags)

/-- An FP32 operand of an instruction (R98). -/
def Task.fval (t : Task) (a : GReg) : Num := Format.value .f32 (fp32Of (t.greg a))

/-- An FP32 compare (R114). -/
def fcompare (s : State) (p : Reg3) (a b : GReg) (r : FRel) : Out State :=
  withTask s fun t => complete s ((t.setP p (r.holds (t.fval a) (t.fval b))).raise (r.flags (t.fval a) (t.fval b)))

/-- `ADD` (R102). -/
def execAdd (d a b : GReg) (s : State) : Out State :=
  writeG s d fun t => t.greg a + t.greg b

/-- `SUB` (R102). -/
def execSub (d a b : GReg) (s : State) : Out State :=
  writeG s d fun t => t.greg a - t.greg b

/-- `AND` (R102). -/
def execAnd (d a b : GReg) (s : State) : Out State :=
  writeG s d fun t => t.greg a &&& t.greg b

/-- `OR` (R102). -/
def execOr (d a b : GReg) (s : State) : Out State :=
  writeG s d fun t => t.greg a ||| t.greg b

/-- `XOR` (R102). -/
def execXor (d a b : GReg) (s : State) : Out State :=
  writeG s d fun t => t.greg a ^^^ t.greg b

/-- `ANDN` (R102). -/
def execAndn (d a b : GReg) (s : State) : Out State :=
  writeG s d fun t => t.greg a &&& ~~~t.greg b

/-- `SHL` with its count in a register (R104). -/
def execShl (d a b : GReg) (s : State) : Out State :=
  writeG s d fun t => shiftLeft (t.greg a) (t.greg b).toNat

/-- `SHR` with its count in a register (R104). -/
def execShr (d a b : GReg) (s : State) : Out State :=
  writeG s d fun t => shiftRight (t.greg a) (t.greg b).toNat

/-- `SAR` with its count in a register (R104). -/
def execSar (d a b : GReg) (s : State) : Out State :=
  writeG s d fun t => shiftArith (t.greg a) (t.greg b).toNat

/-- `ROL` with its count in a register (R104). -/
def execRol (d a b : GReg) (s : State) : Out State :=
  writeG s d fun t => rotate (t.greg a) (t.greg b).toNat

/-- `MIN.i64` (R102). -/
def execMinI64 (d a b : GReg) (s : State) : Out State :=
  writeG s d fun t => minMax true false (t.greg a) (t.greg b)

/-- `MIN.n64` (R102). -/
def execMinN64 (d a b : GReg) (s : State) : Out State :=
  writeG s d fun t => minMax false false (t.greg a) (t.greg b)

/-- `MAX.i64` (R102). -/
def execMaxI64 (d a b : GReg) (s : State) : Out State :=
  writeG s d fun t => minMax true true (t.greg a) (t.greg b)

/-- `MAX.n64` (R102). -/
def execMaxN64 (d a b : GReg) (s : State) : Out State :=
  writeG s d fun t => minMax false true (t.greg a) (t.greg b)

/-- `MUL` (R105). -/
def execMul (d a b : GReg) (s : State) : Out State :=
  writeG s d fun t => t.greg a * t.greg b

/-- `MULH.i64` (R105). -/
def execMulhI64 (d a b : GReg) (s : State) : Out State :=
  writeG s d fun t => mulHigh true (t.greg a) (t.greg b)

/-- `MULH.n64` (R105). -/
def execMulhN64 (d a b : GReg) (s : State) : Out State :=
  writeG s d fun t => mulHigh false (t.greg a) (t.greg b)

/-- `DIV.i64` (R106). -/
def execDivI64 (d a b : GReg) (s : State) : Out State :=
  writeG s d fun t => quotient true (t.greg a) (t.greg b)

/-- `DIV.n64` (R106). -/
def execDivN64 (d a b : GReg) (s : State) : Out State :=
  writeG s d fun t => quotient false (t.greg a) (t.greg b)

/-- `REM.i64` (R106). -/
def execRemI64 (d a b : GReg) (s : State) : Out State :=
  writeG s d fun t => remainder true (t.greg a) (t.greg b)

/-- `REM.n64` (R106). -/
def execRemN64 (d a b : GReg) (s : State) : Out State :=
  writeG s d fun t => remainder false (t.greg a) (t.greg b)

/-- `SEXT.b` (R107). -/
def execSextB (d a : GReg) (s : State) : Out State :=
  writeG s d fun t => signLow 8 (t.greg a)

/-- `SEXT.h` (R107). -/
def execSextH (d a : GReg) (s : State) : Out State :=
  writeG s d fun t => signLow 16 (t.greg a)

/-- `SEXT.w` (R107). -/
def execSextW (d a : GReg) (s : State) : Out State :=
  writeG s d fun t => signLow 32 (t.greg a)

/-- `ZEXT.b` (R107). -/
def execZextB (d a : GReg) (s : State) : Out State :=
  writeG s d fun t => zeroLow 8 (t.greg a)

/-- `ZEXT.h` (R107). -/
def execZextH (d a : GReg) (s : State) : Out State :=
  writeG s d fun t => zeroLow 16 (t.greg a)

/-- `ZEXT.w` (R107). -/
def execZextW (d a : GReg) (s : State) : Out State :=
  writeG s d fun t => zeroLow 32 (t.greg a)

/-- `CLZ` (R107). -/
def execClz (d a : GReg) (s : State) : Out State :=
  writeG s d fun t => BitVec.ofNat 64 (leadingZeros 64 (t.greg a).toNat)

/-- `CTZ` (R107). -/
def execCtz (d a : GReg) (s : State) : Out State :=
  writeG s d fun t => BitVec.ofNat 64 (trailingZeros 64 (t.greg a).toNat)

/-- `POPC` (R107). -/
def execPopc (d a : GReg) (s : State) : Out State :=
  writeG s d fun t => BitVec.ofNat 64 (countBits 64 (t.greg a).toNat)

/-- `BREV` (R107). -/
def execBrev (d a : GReg) (s : State) : Out State :=
  writeG s d fun t => BitVec.ofNat 64 (reverseBits 64 (t.greg a).toNat)

/-- `BEXT` (R108). -/
def execBext (d a b : GReg) (s : State) : Out State :=
  writeG s d fun t => extractField (t.greg a) (t.greg b)

/-- `BINS` (R108). -/
def execBins (d a b : GReg) (s : State) : Out State :=
  writeG s d fun t => insertField (t.greg d) (t.greg a) (t.greg b)

/-- `LEA.h` (R102). -/
def execLeaH (d a b : GReg) (s : State) : Out State :=
  writeG s d fun t => t.greg a + t.greg b <<< 1

/-- `LEA.w` (R102). -/
def execLeaW (d a b : GReg) (s : State) : Out State :=
  writeG s d fun t => t.greg a + t.greg b <<< 2

/-- `LEA.d` (R102). -/
def execLeaD (d a b : GReg) (s : State) : Out State :=
  writeG s d fun t => t.greg a + t.greg b <<< 3

/-- `SHL` by an immediate count (R104). -/
def execShlImm (d a : GReg) (n : BitVec 6) (s : State) : Out State :=
  writeG s d fun t => shiftLeft (t.greg a) n.toNat

/-- `SHR` by an immediate count (R104). -/
def execShrImm (d a : GReg) (n : BitVec 6) (s : State) : Out State :=
  writeG s d fun t => shiftRight (t.greg a) n.toNat

/-- `SAR` by an immediate count (R104). -/
def execSarImm (d a : GReg) (n : BitVec 6) (s : State) : Out State :=
  writeG s d fun t => shiftArith (t.greg a) n.toNat

/-- `ROL` by an immediate count (R104). -/
def execRolImm (d a : GReg) (n : BitVec 6) (s : State) : Out State :=
  writeG s d fun t => rotate (t.greg a) n.toNat

/-- `ADDI` (R103). -/
def execAddi (d a : GReg) (imm : BitVec 16) (s : State) : Out State :=
  writeG s d fun t => t.greg a + sext imm

/-- `ANDI` (R103). -/
def execAndi (d a : GReg) (imm : BitVec 16) (s : State) : Out State :=
  writeG s d fun t => t.greg a &&& sext imm

/-- `ORI` (R103). -/
def execOri (d a : GReg) (imm : BitVec 16) (s : State) : Out State :=
  writeG s d fun t => t.greg a ||| zext imm

/-- `CMPEQ` (R109). -/
def execCmpeq (p : Reg3) (a b : GReg) (s : State) : Out State :=
  writeP s p fun t => IRel.holds .eq false (t.greg a) (t.greg b)

/-- `CMPEQ` with a number (R109). -/
def execCmpeqImm (p : Reg3) (a : GReg) (imm : BitVec 5) (s : State) : Out State :=
  writeP s p fun t => IRel.holds .eq false (t.greg a) (sext imm)

/-- `CMPNE` (R109). -/
def execCmpne (p : Reg3) (a b : GReg) (s : State) : Out State :=
  writeP s p fun t => IRel.holds .ne false (t.greg a) (t.greg b)

/-- `CMPNE` with a number (R109). -/
def execCmpneImm (p : Reg3) (a : GReg) (imm : BitVec 5) (s : State) : Out State :=
  writeP s p fun t => IRel.holds .ne false (t.greg a) (sext imm)

/-- `CMPLT.i64` (R109). -/
def execCmpltI64 (p : Reg3) (a b : GReg) (s : State) : Out State :=
  writeP s p fun t => IRel.holds .lt true (t.greg a) (t.greg b)

/-- `CMPLT.i64` with a number (R109). -/
def execCmpltI64Imm (p : Reg3) (a : GReg) (imm : BitVec 5) (s : State) : Out State :=
  writeP s p fun t => IRel.holds .lt true (t.greg a) (sext imm)

/-- `CMPLT.n64` (R109). -/
def execCmpltN64 (p : Reg3) (a b : GReg) (s : State) : Out State :=
  writeP s p fun t => IRel.holds .lt false (t.greg a) (t.greg b)

/-- `CMPLT.n64` with a number (R109). -/
def execCmpltN64Imm (p : Reg3) (a : GReg) (imm : BitVec 5) (s : State) : Out State :=
  writeP s p fun t => IRel.holds .lt false (t.greg a) (sext imm)

/-- `CMPLE.i64` (R109). -/
def execCmpleI64 (p : Reg3) (a b : GReg) (s : State) : Out State :=
  writeP s p fun t => IRel.holds .le true (t.greg a) (t.greg b)

/-- `CMPLE.i64` with a number (R109). -/
def execCmpleI64Imm (p : Reg3) (a : GReg) (imm : BitVec 5) (s : State) : Out State :=
  writeP s p fun t => IRel.holds .le true (t.greg a) (sext imm)

/-- `CMPLE.n64` (R109). -/
def execCmpleN64 (p : Reg3) (a b : GReg) (s : State) : Out State :=
  writeP s p fun t => IRel.holds .le false (t.greg a) (t.greg b)

/-- `CMPLE.n64` with a number (R109). -/
def execCmpleN64Imm (p : Reg3) (a : GReg) (imm : BitVec 5) (s : State) : Out State :=
  writeP s p fun t => IRel.holds .le false (t.greg a) (sext imm)

/-- `CMPGT.i64` (R109). -/
def execCmpgtI64 (p : Reg3) (a b : GReg) (s : State) : Out State :=
  writeP s p fun t => IRel.holds .gt true (t.greg a) (t.greg b)

/-- `CMPGT.i64` with a number (R109). -/
def execCmpgtI64Imm (p : Reg3) (a : GReg) (imm : BitVec 5) (s : State) : Out State :=
  writeP s p fun t => IRel.holds .gt true (t.greg a) (sext imm)

/-- `CMPGT.n64` (R109). -/
def execCmpgtN64 (p : Reg3) (a b : GReg) (s : State) : Out State :=
  writeP s p fun t => IRel.holds .gt false (t.greg a) (t.greg b)

/-- `CMPGT.n64` with a number (R109). -/
def execCmpgtN64Imm (p : Reg3) (a : GReg) (imm : BitVec 5) (s : State) : Out State :=
  writeP s p fun t => IRel.holds .gt false (t.greg a) (sext imm)

/-- `CMPGE.i64` (R109). -/
def execCmpgeI64 (p : Reg3) (a b : GReg) (s : State) : Out State :=
  writeP s p fun t => IRel.holds .ge true (t.greg a) (t.greg b)

/-- `CMPGE.i64` with a number (R109). -/
def execCmpgeI64Imm (p : Reg3) (a : GReg) (imm : BitVec 5) (s : State) : Out State :=
  writeP s p fun t => IRel.holds .ge true (t.greg a) (sext imm)

/-- `CMPGE.n64` (R109). -/
def execCmpgeN64 (p : Reg3) (a b : GReg) (s : State) : Out State :=
  writeP s p fun t => IRel.holds .ge false (t.greg a) (t.greg b)

/-- `CMPGE.n64` with a number (R109). -/
def execCmpgeN64Imm (p : Reg3) (a : GReg) (imm : BitVec 5) (s : State) : Out State :=
  writeP s p fun t => IRel.holds .ge false (t.greg a) (sext imm)

/-- `PAND` (R110). -/
def execPand (d a b : Reg3) (s : State) : Out State :=
  writeP s d fun t => t.pred a && t.pred b

/-- `POR` (R110). -/
def execPor (d a b : Reg3) (s : State) : Out State :=
  writeP s d fun t => t.pred a || t.pred b

/-- `PXOR` (R110). -/
def execPxor (d a b : Reg3) (s : State) : Out State :=
  writeP s d fun t => t.pred a != t.pred b

/-- `PANDN` (R110). -/
def execPandn (d a b : Reg3) (s : State) : Out State :=
  writeP s d fun t => t.pred a && !t.pred b

/-- `PNOT` (R110). -/
def execPnot (d a : Reg3) (s : State) : Out State :=
  writeP s d fun t => !t.pred a

/-- `PMOV` (R110). -/
def execPmov (d a : Reg3) (s : State) : Out State :=
  writeP s d fun t => t.pred a

/-- `PGET` (R110). -/
def execPget (d : GReg) (s : State) : Out State :=
  writeG s d fun t => zext (t.p ||| 1)

/-- `PSET` (R110). -/
def execPset (a : GReg) (s : State) : Out State :=
  withTask s fun t => complete s { t with p := (t.greg a).setWidth 8 ||| 1 }

/-- `FADD` (R111). -/
def execFadd (d a b : GReg) (s : State) : Out State :=
  writeF s d fun t => Format.add .f32 (t.fval a) (t.fval b)

/-- `FSUB` (R111). -/
def execFsub (d a b : GReg) (s : State) : Out State :=
  writeF s d fun t => Format.add .f32 (t.fval a) (t.fval b).negate

/-- `FMUL` (R111). -/
def execFmul (d a b : GReg) (s : State) : Out State :=
  writeF s d fun t => Format.mul .f32 (t.fval a) (t.fval b)

/-- `FDIV` (R111). -/
def execFdiv (d a b : GReg) (s : State) : Out State :=
  writeF s d fun t => Format.div .f32 (t.fval a) (t.fval b)

/-- `FSQRT` (R111). -/
def execFsqrt (d a : GReg) (s : State) : Out State :=
  writeF s d fun t => Format.sqrt .f32 (t.fval a)

/-- `FMIN` (R112). -/
def execFmin (d a b : GReg) (s : State) : Out State :=
  writeF s d fun t => Format.minmax .f32 false (fp32Of (t.greg a)) (fp32Of (t.greg b))

/-- `FMAX` (R112). -/
def execFmax (d a b : GReg) (s : State) : Out State :=
  writeF s d fun t => Format.minmax .f32 true (fp32Of (t.greg a)) (fp32Of (t.greg b))

/-- `FMA` (R111). -/
def execFma (d a b : GReg) (s : State) : Out State :=
  writeF s d fun t => Format.fma .f32 false (t.fval a) (t.fval b) (t.fval d)

/-- `FNMA` (R111). -/
def execFnma (d a b : GReg) (s : State) : Out State :=
  writeF s d fun t => Format.fma .f32 true (t.fval a) (t.fval b) (t.fval d)

/-- `FABS` (R98, R113). -/
def execFabs (d a : GReg) (s : State) : Out State :=
  writeG s d fun t => zext ((t.greg a).setWidth 31)

/-- `FNEG` (R98, R113). -/
def execFneg (d a : GReg) (s : State) : Out State :=
  writeG s d fun t => zext ((t.greg a).setWidth 32 ^^^ 0x80000000#32)

/-- `FCMPEQ` (R114). -/
def execFcmpeq (p : Reg3) (a b : GReg) (s : State) : Out State :=
  fcompare s p a b .eq

/-- `FCMPLT` (R114). -/
def execFcmplt (p : Reg3) (a b : GReg) (s : State) : Out State :=
  fcompare s p a b .lt

/-- `FCMPLE` (R114). -/
def execFcmple (p : Reg3) (a b : GReg) (s : State) : Out State :=
  fcompare s p a b .le

/-- `FCMPUN` (R114). -/
def execFcmpun (p : Reg3) (a b : GReg) (s : State) : Out State :=
  fcompare s p a b .un

/-- A conversion writes its result with its flags, or traps with CONVOVF and leaves `g`d and `FSR` (R54, R116). -/
def convert (s : State) (d : GReg) (f : Task → Converted) (widen : Nat → Word) : Out State :=
  withTask s fun t =>
    match f t with
    | some (v, fl) => complete s ((t.setG d (widen v)).raise fl)
    | none => trap s t causeConvovf

/-- Sign extension of a 32-bit result (R115). -/
def signed32 (v : Nat) : Word := (BitVec.ofNat 32 v).signExtend 64

/-- `FCVTI.i32` (R116). -/
def execFcvtiI32 (d a : GReg) (ovp : Ovp) (rtz : Bool) (s : State) : Out State :=
  convert s d (fun t => convertToInt ovp rtz false 32 (t.fval a)) signed32

/-- `FCVTI.n32` (R116). -/
def execFcvtiN32 (d a : GReg) (ovp : Ovp) (rtz : Bool) (s : State) : Out State :=
  convert s d (fun t => convertToInt ovp rtz true 32 (t.fval a)) (BitVec.ofNat 64)

/-- `FCVTI.i64` (R116). -/
def execFcvtiI64 (d a : GReg) (ovp : Ovp) (rtz : Bool) (s : State) : Out State :=
  convert s d (fun t => convertToInt ovp rtz false 64 (t.fval a)) (BitVec.ofNat 64)

/-- `FCVTI.n64` (R116). -/
def execFcvtiN64 (d a : GReg) (ovp : Ovp) (rtz : Bool) (s : State) : Out State :=
  convert s d (fun t => convertToInt ovp rtz true 64 (t.fval a)) (BitVec.ofNat 64)

/-- `ICVTF.i64` (R116). -/
def execIcvtfI64 (d a : GReg) (s : State) : Out State :=
  convert s d (fun t => Format.ofInt .f32 .sat (t.greg a).toInt) (BitVec.ofNat 64)

/-- `ICVTF.n64` (R116). -/
def execIcvtfN64 (d a : GReg) (s : State) : Out State :=
  convert s d (fun t => Format.ofInt .f32 .sat (t.greg a).toNat) (BitVec.ofNat 64)

/-- `FCVT.bf16` (R116). -/
def execFcvtBf16 (d a : GReg) (ovp : Ovp) (s : State) : Out State :=
  convert s d (fun t => Format.convert .bf16 ovp (t.fval a)) (BitVec.ofNat 64)

/-- `FCVT.f16` (R116). -/
def execFcvtF16 (d a : GReg) (ovp : Ovp) (s : State) : Out State :=
  convert s d (fun t => Format.convert .f16 ovp (t.fval a)) (BitVec.ofNat 64)

/-- `FWID.bf16` (R116). -/
def execFwidBf16 (d a : GReg) (s : State) : Out State :=
  convert s d (fun t => Format.convert .f32 .sat (Format.value .bf16 ((t.greg a).setWidth 16).toNat)) (BitVec.ofNat 64)

/-- `FWID.f16` (R116). -/
def execFwidF16 (d a : GReg) (s : State) : Out State :=
  convert s d (fun t => Format.convert .f32 .sat (Format.value .f16 ((t.greg a).setWidth 16).toNat)) (BitVec.ofNat 64)

end Sys2Proof.Machine
end

