-- ==== Sys2Proof/Machine/Control.lean ====
section
/-! DEFINITION. Instruction fetch, control transfer, `LIMM`, `REP`, `WAIT`, spawning, joining, ending, yielding and gangs
(05_tasks.md R134 to R151; 03_encoding.md R67 to R72). -/

namespace Sys2Proof.Machine

/-- Instruction fetch is not checked against declared ranges (R138). -/
def anywhere : List Range := [⟨0, 2 ^ 64, true⟩]

/-- Reads the word at an address as an instruction fetch of a task (R138). -/
def State.fetchWord (s : State) (t : Task) (va : Word) : State × TaskRead :=
  match s.place t.ci t.ctxid anywhere .fetch va 4 with
  | (s, .error d) => (s, .denied va d)
  | (s, .ok l) =>
    if l.pkg = s.svc.packageId then
      if s.found l 4 = .sound then
        let (s, bs) := (s.correct l.pa 4).taskBytes t l.pa 4
        (s, .bytes bs)
      else (s, .broken l)
    else match s.readAt (s.who t) (tokenTask t.uid) l 4 with
      | (s, some bs) => (s, .bytes bs)
      | (s, none) => (s, .pending)

/-- Continues with the word at an address; a fetch fault is reported at that address and parks the task (R138). -/
def withFetch (s : State) (t : Task) (va : Word) (k : State → IWord → Out State) : Out State :=
  match s.fetchWord t va with
  | (s, .denied a d) => deny s t .fetch a d
  | (s, .pending) => .next (s.park t .remote .reads)
  | (s, .broken l) => guardRead s t l 4 (fun s => .next s)
  | (s, .bytes bs) => k s (wordOfBytes bs)

/-- Reads `n` consecutive words. -/
def withFetches (s : State) (t : Task) (va : Word) : Nat → (State → List IWord → Out State) → Out State
  | 0, k => k s []
  | n + 1, k => withFetch s t va fun s w => withFetches s t (va + 4) n fun s ws => k s (w :: ws)

/-- The task goes on at an address. -/
def jumpTo (s : State) (t : Task) (pc : Word) : Out State := .next (s.putTask { t with pc := pc, wait := .none })

/-- Address `n` words from a transferring instruction (R67, R134). -/
def Task.target {w : Nat} (t : Task) (n : BitVec w) : Word := t.pc + 4 * sext n

/-- `BR` (R134). -/
def execBr (off : BitVec 22) (s : State) : Out State := withTask s fun t => jumpTo s t (t.target off)

/-- `BP` (R134). -/
def execBp (p : Reg3) (neg : Bool) (off : BitVec 22) (s : State) : Out State := withTask s fun t =>
  jumpTo s t (if t.pred p != neg then t.target off else t.pc + 4)

/-- `JAL` (R135). -/
def execJal (off : BitVec 26) (s : State) : Out State := withTask s fun t =>
  jumpTo s (t.setG 31 (t.pc + 4)) (t.target off)

/-- `JALR` with its immediate and the address of the next word: ALIGN leaves `g`d; a gang follower goes where its leader
goes (R136, R150). -/
def jumpRegister (s : State) (t : Task) (d a : GReg) (imm next : Word) : Out State :=
  let target := t.greg a + imm
  if target.toNat % 4 ≠ 0 && !t.follows then trap s t causeAlign else jumpTo s (t.setG d next) target

/-- `JALR` (R136). -/
def execJalr (d a : GReg) (imm : BitVec 16) (s : State) : Out State := withTask s fun t =>
  jumpRegister s t d a (sext imm) (t.pc + 4)

/-- `LOOP` (R137). In a gang each member counts down its own register, and the leader's decides where all go: that the
followers' registers change too is the model's choice (R150; log entry 20). -/
def execLoop (d : GReg) (off : BitVec 16) (s : State) : Out State := withTask s fun t =>
  let c := t.greg d
  if 1 < c.toNat then jumpTo s (t.setG d (c - 1)) (t.target off) else jumpTo s (t.setG d 0) (t.pc + 4)

/-- The follower of a `LIMM` executes with the 42-bit immediate, as one instruction; any other follower raises ILLEGAL
(R71, R72). -/
def prefixed (s : State) (t : Task) (hi : BitVec 26) (w : IWord) : Out State :=
  let f := Fields.ofWord w
  let imm := longImm hi (imm16 f.b f.fn)
  let next := t.pc + 8
  match f.major.toNat with
  | 0x02 => jumpRegister s t f.d f.a (sext imm) next
  | 0x09 => jumpTo s (t.setG f.d (t.greg f.a + sext imm)) next
  | 0x0A => jumpTo s (t.setG f.d (t.greg f.a &&& sext imm)) next
  | 0x0B => jumpTo s (t.setG f.d (t.greg f.a ||| zext imm)) next
  | _ => trap s t causeIllegal

/-- The follower of a `LIMM` that a gang follower takes from its leader's stream. -/
def Task.streamFollower (t : Task) : Option IWord := (t.gang.bind fun g => g.stream.head?).bind (·.follower)

/-- `LIMM` (R71, R72). -/
def execLimm (imm : BitVec 26) (s : State) : Out State := withTask s fun t =>
  match t.streamFollower with
  | some w => prefixed s t imm w
  | none => withFetch s t (t.pc + 4) fun s w => prefixed s t imm w

/-- The five-bit fields that bits of SMASK select, by lowest bit, for a captured word of a major (R147). -/
def staggerFields (major : Nat) : List (Nat × Nat) :=
  if major = 0x26 then [(1, 21), (2, 16), (3, 11)]
  else if major = 0x09 ∨ major = 0x0A ∨ major = 0x0B then [(0, 21), (1, 16)]
  else [(0, 21), (1, 16), (2, 11)]

/-- A word with its selected register fields staggered for iteration `i` (R147). -/
def stagger (smask : BitVec 4) (stag : BitVec 5) (i : Nat) (w : IWord) : IWord :=
  (staggerFields (Fields.ofWord w).major.toNat).foldl (fun w (m, lo) =>
    if smask.getLsbD m then
      let f := w.extractLsb' lo 5
      let g := f + BitVec.ofNat 5 (i * stag.toNat)
      (w &&& ~~~(0x1F#32 <<< lo)) ||| (g.zeroExtend 32 <<< lo)
    else w) w

/-- The word that a running frame executes now (R147). -/
def Frame.word (f : Frame) : IWord := stagger f.smask f.stag f.i (f.words.getD f.j 0)

/-- May a word be captured (R146)? -/
def capturable (w : IWord) : Bool :=
  match decodeCapturable (Fields.ofWord w) with
  | .ok _ => true
  | .error _ => false

/-- `REP`: captures the words that follow; its frame replaces one kept by a handler (R146, R148). A gang follower takes
its leader's frame (R150). -/
def execRep (smask : BitVec 4) (stag : BitVec 5) (len : BitVec 4) (count : BitVec 12) (s : State) : Out State :=
  withTask s fun t =>
    if t.follows then complete s t
    else withFetches s t (t.pc + 4) (len.toNat + 1) fun s ws =>
      if ws.all capturable then
        .next (s.putTask { t with
          wait := .none
          rep := some ⟨t.pc, ws, smask, stag, count.toNat + 1, 0, 0, true⟩ })
      else trap s t causeIllegal

/-- Are the counters of a task at or below the fields of a `WAIT` (R145)? -/
def Task.within (t : Task) (ld st cp mx fb : Nat) : Bool :=
  t.ld ≤ ld && t.st ≤ st && t.cp ≤ cp && t.mx ≤ mx && t.fb ≤ fb

/-- `WAIT` (R145): stalls, and parks when its stall lasts 256 cycles (ISSUE_STALL_TIMEOUT). -/
def execWait (ld st : BitVec 6) (cp mx : BitVec 5) (fb : BitVec 4) (s : State) : Out State := withTask s fun t =>
  if t.within ld.toNat st.toNat cp.toNat mx.toNat fb.toNat then
    let (s, t) := s.waited t ld.toNat st.toNat cp.toNat mx.toNat
    complete s t
  else .next (s.stall t (.counters ld.toNat st.toNat cp.toNat mx.toNat fb.toNat))

/-- The die that the target operand of `TSPAWN` names (R139). -/
def spawnDie (own : Nat) (v : Word) : Option Nat :=
  if v = 0 then some own else if 8 ≤ v.toNat ∧ v.toNat < 16 then some (v.toNat % 8) else none

/-- The spawned record enters its queue, or its spawner parks until there is room, and with no queue area raises vector 4
(R139; 16_system.md R412, R417). -/
def enterQueue (s : State) (t : Task) (d : Nat) (e : QEntry) : Out State :=
  let t := { t.advance with ordinal := t.ordinal + 1, wait := .none }
  if s.queueRoom d t.part then .next ((s.putTask t).enqueue d e)
  else
    let s := if areaAbsent (s.part t.part).qarea then s.noteArea t.part 0x40 (stalledTask t.uid) else s
    .next (s.park t .dep (.queue d e))

/-- `TSPAWN` writes SEQ as a store of the task and enqueues the record (R139; 08_matrix.md R231). -/
def spawn (s : State) (t : Task) (d : Nat) (rec : Word) (r : TaskRecord) (rs : List Range) : Out State :=
  match s.checked t .other .store (rec + 56) 8 8 with
  | (s, .error x) => deny s t .other (rec + 56) x
  | (s, .ok l) =>
    if s.writeHeld t.ci (s.clock + 1) l 8 then .next (s.stall t .none)
    else storeRoom s t l <|
      let e := t.spawnEntry s.clock rec r rs t.domain
      let (s, t) := s.taskStore t (rec + 56) l (leBytes 8 t.childSeq.toNat)
      enterQueue s.tick t d e

/-- RANGES of the bytes of a task record (R118). -/
def rangesOf (bs : List Byte) : Word := BitVec.ofNat 64 (field (leNat bs) 64 64)

/-- `TSPAWN`: the record and its range table are read before either is judged; a RANGES that is not a multiple of 64 names
no table that could be read (R139; log entry 79). -/
def execTspawn (a b : GReg) (s : State) : Out State := withTask s fun t =>
  let rec_ := t.greg a
  if rec_.toNat % 64 ≠ 0 then trap s t causeAlign
  else if t.isShadow then
    complete s { t.addSum (rec_ + 56) (leBytes 8 t.childSeq.toNat) with ordinal := t.ordinal + 1 }
  else releasing s t <| withBytes s t .record rec_ 8 fun s bs =>
    let go := fun (s : State) (tb : List Byte) =>
      match parseTask bs true, spawnDie t.die (t.greg b), parseRanges tb with
      | some r, some d, some rs => spawn s t d rec_ r rs
      | _, _, _ => trap s t causeIllegal
    let table := rangesOf bs
    if table = 0 || table.toNat % 64 ≠ 0 then go s [] else withBytes s t .record table 8 go

/-- `TDONE` (R140): a reduction of class `st` that decrements DEPCNT at its home, and releases. -/
def execTdone (a : GReg) (s : State) : Out State := withTask s fun t =>
  let rec_ := t.greg a
  if rec_.toNat % 64 ≠ 0 then trap s t causeAlign else reduce s t (rec_ + 48) .dec 4 (some .pkg) 0

/-- Members of a task's gang that run, the task included: they are switched as one unit (R130, R150). -/
def Task.unit (t : Task) : List Nat :=
  match t.gang with
  | some g => if g.members.isEmpty then [t.uid] else g.members
  | none => [t.uid]

/-- The running task of a core goes to the tail of its ready list; with an empty list it goes on at once (R130, R141). -/
def State.yieldCore (s : State) (t : Task) : State :=
  let c := s.core t.ci
  if c.running ≠ some t.uid ∨ c.ready.isEmpty then s
  else
    ((s.putTask { t with status := .ready }).setCore t.ci { c with
      running := none, stalled := false, ready := c.ready ++ [t.uid] }).switch t.ci

/-- The members of a gang, or a task alone, leave their cores as one unit (R130, R150). -/
def State.yieldUnit (s : State) (t : Task) : State := (t.unit.filterMap s.task?).foldl (fun s u => s.yieldCore u) s

/-- `TYIELD` (R141): a gang's leader yields for all its members, and a follower that comes to the word has yielded
(R150). -/
def execTyield (s : State) : Out State := withTask s fun t =>
  let u := { t.advance with wait := .none }
  .next (if t.follows then s.putTask u else (s.putTask u).yieldUnit u)

/-- Queued vector instructions keep the task that issued them when it leaves its slot (R142, 13_fabric.md R344). -/
def Core.orphan (c : Core) (t : Task) : Core :=
  c.withQueue (c.vq.map fun e => if e.uid = t.uid then { e with issuer := some t } else e)

/-- Removes a task whose `TEND` is done: its slot is FREE (R128, R142). -/
def State.endTask (s : State) (t : Task) : State :=
  let s := ((s.closeSum t).dropReads (tokenTask t.uid)).modCore t.ci (·.orphan t)
  { s with tasks := s.tasks.filter fun u => u.uid != t.uid }

/-- Are the counters that `TEND` waits for 0 (R142)? -/
def Task.ended (t : Task) : Bool := t.ld == 0 && t.st == 0 && t.cp == 0 && t.mx == 0

/-- `TEND` (R142): the slot is ENDING until the counters are 0; the rest of the gang is dissolved (R151). A task's stores
still in its store buffer are made by the core. -/
def execTend (s : State) : Out State := withTask s fun t =>
  let s := (s.dissolve t.uid).putTask { t with status := .ending, gang := none, wait := .none }
  let s := s.leave t
  .next (if t.ended then s.endTask t else s)

/-- Cores of the aligned group of `n` that a core is in (R149). -/
def gangCores (n ci : Nat) : List Nat := (List.range n).map (· + ci / n * n)

/-- Size of a gang. -/
def gangSize : GangSize → Nat
  | .two => 2
  | .four => 4

/-- The tasks of the launch that wait in a `GANG` on a core, with the sizes and ages of their waits (R149). -/
def State.gangWaits (s : State) (t : Task) (ci : Nat) : List (Task × Nat × Nat) :=
  s.tasks.filterMap fun u => match u.wait with
    | .gang n o => if u.ci == ci && u.ctxid == t.ctxid && u.launchid == t.launchid then some (u, n, o)
        else none
    | _ => none

/-- The oldest of some waits. -/
def oldestWait : List (Task × Nat × Nat) → Option Task
  | [] => none
  | x :: xs =>
    match oldestWait xs, xs.foldl (fun m y => min m y.2.2) x.2.2 with
    | some u, m => if x.2.2 ≤ m then some x.1 else some u
    | none, _ => some x.1

/-- The gang forms: every member goes on at the word after its leader's `GANG` (R149, R150). -/
def State.formGang (s : State) (members : List Task) : State :=
  match members with
  | [] => s
  | leader :: _ =>
    let g : Gang := ⟨leader.uid, members.map (·.uid), []⟩
    members.foldl (fun s u =>
      let u := { u with pc := leader.advance.pc, gang := none, wait := .none }
      let s := if u.status = .running then s.putTask u else s.wake u
      s.modTask u.uid ({ · with gang := some g })) s

/-- `GANG` (R149). -/
def execGang (n : GangSize) (s : State) : Out State := withTask s fun t =>
  let k := gangSize n
  let cores := gangCores k t.ci
  if t.inGang || cores.any (fun c => (s.gangWaits t c).any fun w => w.2.1 != k) then trap s t causeIllegal
  else
    let others := cores.map fun c => if c = t.ci then
        (if (s.gangWaits t c).isEmpty then some t else none)
      else oldestWait (s.gangWaits t c)
    match allSome others with
    | some ms => .next (s.formGang ms)
    | none => .next (s.tick.park t .dep (.gang k s.clock))

/-- `UNGANG` (R151): each member goes on alone at the word after it. -/
def execUngang (s : State) : Out State := withTask s fun t =>
  let others := t.unit.filter (· != t.uid)
  let s := s.dissolve t.uid
  let t := { t.advance with wait := .none, gang := if t.inGang then none else t.gang }
  .next ((s.putTask t).modTasks others fun u => if u.follows then u else { u with pc := t.pc })

end Sys2Proof.Machine
end

