-- ==== Sys2Proof/Machine/Channel.lean ====
section
/-! DEFINITION. Counted channels: stamps, drip counters, flags, stalls and resynchronisation, and the instructions of
major 0x14 (13_fabric.md R329 to R347). -/

namespace Sys2Proof.Machine

/-- The partition a channel is allotted to (13_fabric.md R329, 16_system.md R415). -/
def State.allotted (s : State) (ch : Nat) : Option Nat :=
  let b := Sparse.read (0 : Byte) s.fab.allot ch
  if b.getLsbD 7 then some (b.toNat % 16) else none

/-- The channel of a counted message. -/
def messageChannel : Msg → Option Nat
  | .counted _ c => some c.ch
  | .flag f => some f.stamp.ch
  | _ => none

/-- Counted messages on a channel, towards `dst` if given, that have not left the interface. -/
def State.unsent (s : State) (ch : Nat) (dst : Option Nat) : List OutMsg :=
  s.fab.out.filter fun m => messageChannel m.msg == some ch && dst.all (· == m.dst)

/-- Records a contributor of the open epoch, and the base of its domain and of its ancestors at their first counted write
on the pair; of a domain that has sent only a flag there, the place of its first flag is kept until it writes
(13_fabric.md R336). -/
def State.contribute (s : State) (x : SendPair) (w : Who) (write : Bool) : SendPair :=
  let c : Contribution := ⟨x.flags, w.ctxid, w.dom, w.launch⟩
  let x := if x.log.contains c then x else { x with log := x.log ++ [c] }
  (s.ancestors w.ctxid w.dom).foldl (fun x d =>
    let its := fun (b : Base) => b.ctxid == w.ctxid && b.dom == d.id
    if x.bases.any fun b => its b && (b.wrote || !write) then x
    else { x with bases := x.bases.filter (!its ·) ++ [⟨w.ctxid, d.id, x.sent, x.flags, write⟩] }) x

/-- The interface accepts counted writes for a destination: they are stamped and SENT rises (13_fabric.md R331). -/
def State.acceptWrite (s : State) (w : Who) (ch dst n : Nat) : State × Count :=
  let x := s.contribute (s.sender ch dst) w true
  (s.setSender ch dst { x with sent := x.sent + BitVec.ofNat 32 n }, ⟨ch, x.gen, x.ep⟩)

/-- The interface accepts a flag: it is stamped with COUNT, and EP rises (13_fabric.md R331). -/
def State.acceptFlag (s : State) (w : Who) (ch dst : Nat) : State × Count × BitVec 32 :=
  let x := s.contribute (s.sender ch dst) w false
  (s.setSender ch dst { x with flags := x.flags + 1 }, ⟨ch, x.gen, x.ep⟩, x.sent)

/-- Performs the writes of a remote store at their homes in this package (13_fabric.md R328, 09_memory.md R253). -/
def State.performStores (s : State) (src : Nat) (m : StoreMsg) : State :=
  if m.writes.any fun x => s.writeHits ⟨s.svc.packageId, x.1, 0⟩ x.2.length then s.hwerr m.who.part m.who.launch
  else (joinWrites m.writes).foldl (fun (s : State) (a, xs) =>
    (s.mayMiss (some src) a).arrive ⟨m.who, packageIndex src, a, storeOp xs, .none, some (whoTag m.who), 0, [], 0⟩) s

/-- Is a message of the current reset epoch of its partition (13_fabric.md R345)? -/
def State.currentEpoch (s : State) (w : Who) : Bool := w.epoch == (s.part w.part).epoch

/-- Is a counted message to be taken: current epoch, and its channel allotted to its partition; otherwise it is
discarded, and the second case is counted (13_fabric.md R345, R346). -/
def State.admits (s : State) (w : Who) (ch : Nat) : State × Bool :=
  if !s.currentEpoch w then (s, false)
  else if s.allotted ch = some w.part then (s, true)
  else (s.countMisuse, false)

/-- Counts of a later epoch. -/
def RecvPair.pending (t : RecvPair) (e : BitVec 8) : BitVec 32 := Sparse.read 0 t.pend e.toNat

/-- A counted write of a generation and epoch is counted (13_fabric.md R332). -/
def RecvPair.countWrites (t : RecvPair) (c : Count) (n : Nat) : RecvPair :=
  if c.gen ≠ t.gen then t
  else
    let k := c.ep - t.ep
    if k = 0 ∨ 128 ≤ k.toNat then { t with d := t.d + BitVec.ofNat 32 n }
    else { t with pend := Sparse.write 0 t.pend c.ep.toNat (t.pending c.ep + BitVec.ofNat 32 n) }

/-- May a held flag be applied (13_fabric.md R332)? -/
def RecvPair.ready (t : RecvPair) (f : FlagMsg) : Bool := f.stamp.ep == t.ep && t.d == f.count

/-- The next epoch opens once a flag is applied (13_fabric.md R332). -/
def RecvPair.nextEpoch (t : RecvPair) : RecvPair :=
  let e := t.ep + 1
  { t with ep := e, d := t.d + t.pending e, pend := Sparse.write 0 t.pend e.toNat 0 }

/-- Inserts a flag by rising age. -/
def insertFlag (h : HeldFlag) : List HeldFlag → List HeldFlag
  | [] => [h]
  | x :: xs => if h.age < x.age then h :: x :: xs else x :: insertFlag h xs

/-- Spilled flags return to the buffer in age order as entries free; the buffer holds 4096 (13_fabric.md R334). -/
def State.refillHold (s : State) : State :=
  let room := 4096 - s.fab.hold.length
  { s with fab := { s.fab with
    hold := (s.fab.spill.take room).foldl (fun l h => insertFlag h l) s.fab.hold, spill := s.fab.spill.drop room } }

/-- Applies one held or spilled flag of (c, s) that is ready, if there is one (13_fabric.md R332); a store of it to a
poisoned line fails its launch with HWERR instead (15_faults.md R397). -/
def State.applyFlag (s : State) (ch src : Nat) : Option State :=
  let t := s.receiver ch src
  let here := fun (h : HeldFlag) => h.src == src && h.flag.stamp.ch == ch && t.ready h.flag
  match (s.fab.spill ++ s.fab.hold).find? here with
  | none => none
  | some h =>
    let s : State := { s with fab := { s.fab with
      hold := s.fab.hold.erase h, spill := if s.fab.spill.contains h then s.fab.spill.erase h else s.fab.spill } }
    let s : State :=
      if s.writeHits ⟨s.svc.packageId, h.flag.pa, 0⟩ 8 then s.hwerr h.flag.who.part h.flag.who.launch
      else (s.mayMiss (some src) h.flag.pa).arrive ⟨h.flag.who, packageIndex src, h.flag.pa,
        .store (leBytes 8 h.flag.value.toNat), .none, some (whoTag h.flag.who), 0, [], 0⟩
    some (s.setReceiver ch src t.nextEpoch).refillHold

/-- Applies ready flags of (c, s) until none is ready. -/
def State.applyFlags (s : State) (ch src : Nat) : Nat → State
  | 0 => s
  | n + 1 =>
    match s.applyFlag ch src with
    | some s => s.applyFlags ch src n
    | none => s

/-- Applies every flag of (c, s) that is ready. -/
def State.settleFlags (s : State) (ch src : Nat) : State :=
  s.applyFlags ch src (s.fab.hold.length + s.fab.spill.length)

/-- A counted write arrives: always written, counted in its generation (STORE_COUNTED, 13_fabric.md R332, R338). -/
def State.takeCounted (s : State) (src : Nat) (m : StoreMsg) (c : Count) : State :=
  match s.admits m.who c.ch with
  | (s, false) => s
  | (s, true) =>
    let s := s.performStores src m
    (s.setReceiver c.ch src ((s.receiver c.ch src).countWrites c m.writes.length)).settleFlags c.ch src

/-- A flag arrives: discarded when of an older generation, else held; a full buffer spills its oldest flag
(FLAG, FLAG_SPILL, 13_fabric.md R332, R334). -/
def State.takeFlag (s : State) (src : Nat) (f : FlagMsg) : State :=
  match s.admits f.who f.stamp.ch with
  | (s, false) => s
  | (s, true) =>
    if f.stamp.gen ≠ (s.receiver f.stamp.ch src).gen then s
    else
      let fab := s.fab
      let fab := match fab.hold with
        | h :: rest => if 4096 ≤ fab.hold.length then { fab with hold := rest, spill := insertFlag h fab.spill } else fab
        | [] => fab
      let fab := { fab with hold := fab.hold ++ [⟨src, f, s.clock, false⟩] }
      { s.tick with fab := fab }.settleFlags f.stamp.ch src

/-- Held and spilled flags of (c, s), oldest first. -/
def State.heldOf (s : State) (ch src : Nat) : List HeldFlag :=
  (s.fab.spill ++ s.fab.hold).filter fun h => h.src == src && h.flag.stamp.ch == ch

/-- STALL of (c, s) for an epoch and COUNT, with the drip counter as it stands (13_fabric.md R335). -/
def State.sendStall (s : State) (ch src : Nat) (ep : BitVec 8) (count : BitVec 32) : State :=
  let t := s.receiver ch src
  s.send src (s.chanWho ch) (.stall ⟨⟨ch, t.gen, ep⟩, count, t.d⟩)

/-- The hold timer of (c, s) expires: STALLED, notice 2 and STALL; while STALLED, STALL again, for the flag of the last
one where none is held any more (HOLD_TIMEOUT, 13_fabric.md R335; log entry 94). Without a held flag no timer runs but
that of STALLED. -/
def State.holdExpires (s : State) (ch src : Nat) : State :=
  let t := s.receiver ch src
  match s.heldOf ch src with
  | [] => if t.stalled then s.sendStall ch src t.last.1 t.last.2 else s
  | h :: _ =>
    let f := h.flag
    let stall := fun (s : State) => s.sendStall ch src f.stamp.ep f.count
    if t.stalled then stall (s.setReceiver ch src { t with last := (f.stamp.ep, f.count) })
    else
      let va := BitVec.ofNat 64 (ch + src * 2 ^ 16 + f.stamp.ep.toNat * 2 ^ 32)
      let s := s.setReceiver ch src { t with stalled := true, last := (f.stamp.ep, f.count) }
      let s := s.notice 0 ((s.allotted ch).getD 0) 2 va (BitVec.ofNat 64 (f.count.toNat * 2 ^ 32 + t.d.toNat))
      let expire := fun (x : HeldFlag) => if x.src = src ∧ x.flag.stamp.ch = ch then { x with expired := true } else x
      stall { s with fab := { s.fab with hold := s.fab.hold.map expire, spill := s.fab.spill.map expire } }

/-- The number of the epoch that a stamp of a sender's pair names: the last one with that low byte (13_fabric.md R333). -/
def SendPair.epochOf (x : SendPair) (e : BitVec 8) : Nat := x.flags - (x.ep - e).toNat

/-- The replay domain of a stall: the smallest domain that contains every contributor of the stalled and later epochs
and of every epoch from its own base (13_fabric.md R336). -/
def State.stallDomain (s : State) (x : SendPair) (e : Nat) : Option Dom :=
  let from_ := fun b => x.log.filter fun c => b ≤ c.flags
  match from_ e with
  | [] => none
  | c :: cs =>
    (s.ancestors c.ctxid c.dom).find? fun d =>
      let inD := fun (k : Contribution) => k.ctxid == d.ctxid && k.dom != 0 && s.within k.ctxid k.dom d.id
      (c :: cs).all inD && match x.bases.find? fun b => b.ctxid == d.ctxid && b.dom == d.id with
        | some b => !b.wrote || (from_ b.flags).all inD
        | none => false

/-- Is a replay under way that undoes a domain (13_fabric.md R335, R347)? -/
def State.replaying (s : State) (ctxid id : Nat) : Bool :=
  s.doms.any fun y => y.ctxid == ctxid && y.undoing && s.within ctxid id y.id

/-- A sender receives STALL from the destination `src`; while the replay that answers it is under way it starts no second
one (STALL, 13_fabric.md R335, R336, R347). -/
def State.takeStall (s : State) (src : Nat) (m : StallMsg) : State :=
  let ch := m.stamp.ch
  let x := s.sender ch src
  if m.stamp.gen ≠ x.gen then
    if x.resync then s.send src (s.chanWho ch) (.resync ⟨ch, x.gen, x.base.1, x.base.2⟩) else s
  else if x.resync then s
  else
    let e := x.epochOf m.stamp.ep
    let stalled := x.log.filter fun c => c.flags == e
    match stalled with
    | [] =>
      let s := (x.log.eraseDups).foldl (fun (s : State) c => s.hwerr (c.ctxid / 4) c.launch) s
      s.resyncPair ch src x.sent x.flags fun _ _ => false
    | c :: _ =>
      match s.stallDomain x e with
      | none => s.hwerr (c.ctxid / 4) c.launch
      | some d =>
        if s.replaying d.ctxid d.id then s
        else match s.choose d.ctxid 32 d.id false with
          | .stop => s.hwerr (d.ctxid / 4) d.launch
          | k => s.act d.ctxid d.launch .check k

/-- A receiver resets (c, s) to the base, discards its held flags and acknowledges; a generation it already has is
acknowledged only (RESYNC, 13_fabric.md R337). -/
def State.takeResync (s : State) (src : Nat) (m : ResyncMsg) : State :=
  let t := s.receiver m.ch src
  let s : State := if t.gen = m.gen then s
    else
      let keep := fun (h : HeldFlag) => !(h.src == src && h.flag.stamp.ch == m.ch)
      (({ s with fab := { s.fab with hold := s.fab.hold.filter keep, spill := s.fab.spill.filter keep } }).setReceiver
        m.ch src { d := m.sent, gen := m.gen, ep := m.ep }).refillHold
  s.send src (s.chanWho m.ch) (.resyncAck m.ch m.gen)

/-- RESYNC-ACK releases the sender's held counted traffic (RESYNC_ACK, 13_fabric.md R337). -/
def State.takeAck (s : State) (src ch : Nat) (gen : BitVec 8) : State :=
  let x := s.sender ch src
  if x.resync ∧ x.gen = gen then s.setSender ch src { x with resync := false } else s

/-- The channel operand: a reserved bit or a channel no task may name gives `none` (13_fabric.md R339). -/
def channelOperand (v : Word) : Option Nat := if v.toNat < 0xFFE then some v.toNat else none

/-- `CHOPEN` (13_fabric.md R339). A shadow reads the outcome and opens nothing (14_containment.md R370; log entry 93). -/
def execChopen (a b c : GReg) (s : State) : Out State := withTask s fun t =>
  let cfg := (t.greg b).toNat
  let tmo := field cfg 16 20
  let role := BitVec.ofNat 2 cfg
  match channelOperand (t.greg a) with
  | none => trap s t causeIllegal
  | some ch =>
    if field cfg 36 28 ≠ 0 ∨ field cfg 2 14 ≠ 0 ∨ role = 0 ∨ (tmo ≠ 0 ∧ tmo < 64) ∨ 1000000 < tmo then
      trap s t causeIllegal
    else
      let o : ChanOpen := ⟨t.ctxid, role, if tmo = 0 then 1000 else tmo⟩
      let opened := (s.fab.opened.find? (·.1 == ch)).map (·.2)
      let open_ := fun (s : State) => if t.isShadow then s else { s with fab := { s.fab with
        opened := Sparse.insert ch o (Sparse.erase s.fab.opened ch) } }
      if s.allotted ch ≠ some t.part then complete s (t.setG c 1)
      else match opened with
        | some x => if x.ctxid = t.ctxid then complete (open_ s) (t.setG c 3) else complete s (t.setG c 2)
        | none => complete (open_ s) (t.setG c 0)

/-- Has a context a counted vector store on a channel that its core has not executed yet? -/
def State.countedQueued (s : State) (ctxid ch : Nat) : Bool :=
  s.cores.any fun (_, c) => c.vq.any fun e => (e.instr matches .vstc .. || e.instr matches .vscatc ..)
    && e.z.toNat == ch && ((s.task? e.uid).or e.issuer).any (·.ctxid == ctxid)

/-- `CHCLOSE` (13_fabric.md R340). A shadow closes nothing (14_containment.md R370; log entry 93). -/
def execChclose (a : GReg) (s : State) : Out State := withTask s fun t =>
  match channelOperand (t.greg a) with
  | none => trap s t causeIllegal
  | some ch =>
    if (s.unsent ch none).any (·.who.ctxid == t.ctxid) || s.countedQueued t.ctxid ch then .next (s.stall t .none)
    else
      let mine := !t.isShadow && (s.fab.opened.find? (·.1 == ch)).any (·.2.ctxid == t.ctxid)
      let s := if mine then { s with fab := { s.fab with opened := Sparse.erase s.fab.opened ch } } else s
      complete s t

/-- A number saturating at 255. -/
def sat255 (n : Nat) : Nat := min n 255

/-- Counted writes and flags that a message carries (13_fabric.md R330, R341). -/
def countedWrites : Msg → Nat
  | .counted m _ => m.writes.length
  | _ => 1

/-- What `CHSTAT` reads (13_fabric.md R341). -/
def State.chanStatus (s : State) (t : Task) (ch peer : Nat) (sending : Bool) : Nat :=
  if s.allotted ch ≠ some t.part then 0
  else
    let role := match s.fab.opened.find? (·.1 == ch) with
      | some (_, o) => if o.ctxid = t.ctxid then o.role.toNat else 0
      | none => 0
    let opens := role % 2 * 2 ^ 62 + role / 2 * 2 ^ 61
    if sending then
      let x := s.sender ch peer
      opens + sat255 ((s.unsent ch (some peer)).map fun m => countedWrites m.msg).sum * 2 ^ 48 + x.ep.toNat * 2 ^ 40 + x.gen.toNat * 2 ^ 32
        + x.sent.toNat
    else
      let x := s.receiver ch peer
      opens + bit x.stalled * 2 ^ 60 + sat255 (s.heldOf ch peer).length * 2 ^ 48 + x.ep.toNat * 2 ^ 40
        + x.gen.toNat * 2 ^ 32 + x.d.toNat

/-- `CHSTAT` (13_fabric.md R341). -/
def execChstat (a b c : GReg) (s : State) : Out State := withTask s fun t =>
  let v := (t.greg b).toNat
  match channelOperand (t.greg a) with
  | none => trap s t causeIllegal
  | some ch =>
    if field v 10 53 ≠ 0 then trap s t causeIllegal
    else complete s (t.setG c (BitVec.ofNat 64 (s.chanStatus t ch (v % 1024) (v.testBit 63))))

/-- The channel checks that counted stores and flags share: reserved bits, the internal channel, a flag without a
channel, a channel not open for sending (13_fabric.md R342). -/
def State.mayCount (s : State) (t : Task) (v : Word) (flag : Bool) : Bool :=
  v.toNat < 0x1000 && v.toNat != 0xFFE && (if v.toNat = 0xFFF then !flag
    else match s.fab.opened.find? (·.1 == v.toNat) with
      | some (_, o) => o.ctxid == t.ctxid && o.role.getLsbD 0 && s.allotted v.toNat == some t.part
      | none => false)

/-- Writes cut at the boundaries of 64-byte lines. -/
def cutLines (a : Nat) (bs : List Byte) : List (Nat × List Byte) :=
  (linesOf a bs.length).map fun k =>
    let from_ := max a (64 * k)
    (from_, (bs.drop (from_ - a)).take (64 * k + 64 - from_))

/-- Writes by package and line, in order: one message each (13_fabric.md R324). -/
def byLine (ws : List (Nat × Nat × List Byte)) : List (Nat × List (Nat × List Byte)) :=
  ((ws.map fun w => (w.1, lineOf w.2.1)).eraseDups).map fun k =>
    (k.1, (ws.filter fun w => (w.1, lineOf w.2.1) == k).map (·.2))

/-- Counted or uncounted writes to one line of a package, of a counted-store instruction, leave for it (13_fabric.md R331,
R342). -/
def State.sendCounted (s : State) (t : Task) (ch pkg : Nat) (ws : List (Nat × List Byte)) (op : Nat) : State :=
  let w := s.who t
  let m : StoreMsg := ⟨w, ws⟩
  if ch = 0xFFF then s.send pkg w (.store m) .fb op
  else
    let (s, c) := s.acceptWrite w ch pkg ws.length
    s.send pkg w (.counted m c) .fb op

/-- `STC` (13_fabric.md R342). -/
def execStc (a b c : GReg) (z : Size) (s : State) : Out State := withTask s fun t =>
  let n := sizeBytes z
  let va := t.greg a
  require s t (s.mayCount t (t.greg c) false) <| withFabric s t <|
    match s.checked t .other .store va n n with
    | (s, .error d) => deny s t .other va d
    | (s, .ok l) =>
      if l.scratch then .next (s.softwareError t causeRange)
      else unheld s t va n <|
        let bs := leBytes n (t.greg b).toNat
        let t' := t.addSum va bs
        if t.keeps l then complete s { t' with overlay := addOverlay t.overlay (s.overlayKey l) bs }
        else complete (s.sendCounted t (t.greg c).toNat l.pkg [(l.pa, bs)] 0) (t'.count .fb)

/-- `FLAGW` (13_fabric.md R342). -/
def execFlagw (a b c : GReg) (s : State) : Out State := withTask s fun t =>
  let va := t.greg a
  require s t (s.mayCount t (t.greg c) true) <| withFabric s t <| releasing s t <|
    match s.checked t .other .store va 8 8 with
    | (s, .error d) => deny s t .other va d
    | (s, .ok l) =>
      if l.scratch then .next (s.softwareError t causeRange)
      else
        let t' := t.addSum va (leBytes 8 (t.greg b).toNat)
        if t.isShadow then complete s t'
        else
          let w := s.who t
          let (s, st, n) := s.acceptFlag w (t.greg c).toNat l.pkg
          complete (s.send l.pkg w (.flag ⟨w, st, n, l.pa, t.greg b⟩) .fb) (t'.count .fb)

end Sys2Proof.Machine
end

