-- ==== Sys2Proof/Machine/Chain.lean ====
section
/-! DEFINITION. Chained loads: packets, results, faults and `CLD` (09_memory.md R262 to R270). -/

namespace Sys2Proof.Machine

/-- OP of a step word (09_memory.md R262). -/
def stepOp (w : Word) : Nat := field w.toNat 50 2

/-- The masked word of a step (09_memory.md R263). -/
def stepMask (st w : Word) : Word :=
  let keep := field st.toNat 40 6
  let clr := field st.toNat 46 4
  let m := if keep = 0 then w.toNat else w.toNat % 2 ^ keep
  BitVec.ofNat 64 (m / 2 ^ clr * 2 ^ clr)

/-- The address a step forms (09_memory.md R263). -/
def stepAddress (st w : Word) : Word := stepMask st w + (st.extractLsb' 0 40).signExtend 64

/-- Where `locate` sends a chain (09_memory.md R263). -/
inductive Located where
  | home (l : Loc)
  | stop (code : BitVec 3)
  | range
  | fault (f : PageFault)
deriving DecidableEq, Repr

/-- `locate` of R263 at a node of this package. -/
def State.locate (s : State) (ctxid : Nat) (rs : List Range) (final : Bool) (x : Word) : State × Located :=
  if x.toNat % 8 ≠ 0 then (s, .stop 3)
  else if !canonical x || reservedWindow x then (s, .range)
  else if (scratchOf 0 x).isSome then (s, .stop 4)
  else if !s.inRanges rs ctxid x 8 then (s, .range)
  else
    match s.translate ctxid (if final then .chainFinal else .chainStep) x with
    | (s, .error f) => (s, .fault f)
    | (s, .ok l) => (s, .home l)

/-- What a chain does after the word of step `k` is known: go on at an address, do the final load there, or stop. -/
inductive StepEnd where
  | go (c : Word)
  | load (a : Word)
  | stop (result : Word) (code : BitVec 3)
deriving DecidableEq, Repr

/-- One step of R263 on the word `w` at `c`. -/
def chainStep (st c w : Word) : StepEnd :=
  let a := stepAddress st w
  match stepOp st with
  | 0 => .go a
  | 1 => .load a
  | 2 => .stop a 1
  | _ => if stepMask st w = 0 then .stop c 2 else .go a

/-- Status word of a lane that has stopped (09_memory.md R266). -/
def Lane.status (l : Lane) : Word :=
  BitVec.ofNat 64 (min l.nfault 0xFFFF * 0x10000 + bit l.fv * 0x1000 + l.fstep * 0x100 + l.stop.toNat * 0x10 + l.done)

/-- Changes a lane of a task's chain record. -/
def State.modLane (s : State) (uid lane : Nat) (f : Lane → Lane) : State :=
  s.modTask uid fun t => { t with chain := t.chain.map fun c =>
    { c with lanes := c.lanes.map fun l => if l.lane = lane then f l else l } }

/-- Elements of 32 bits of a vector register with some replaced. -/
def replaceLanes (v : VWord) (xs : List (Nat × Word)) : VWord :=
  ofLanes 2048 32 ((List.range 64).map fun i => match xs.find? (·.1 == i) with
    | some x => x.2.toNat % 2 ^ 32
    | none => lane 32 v i)

/-- Writes results and statuses once every lane has stopped, and wakes the task (09_memory.md R264, R267). -/
def State.settleChain (s : State) (uid : Nat) : State :=
  match s.task? uid with
  | none => s
  | some t =>
    match t.chain with
    | none => s
    | some c =>
      if !c.lanes.all (·.ended) then s
      else
        let t := { t with chain := none }
        match c.dest with
        | .scalar d =>
          match c.lanes.head? with
          | some l => s.wake ((t.setG d l.result).setG (d + 1) l.status)
          | none => s.wake t
        | .vector d =>
          let s := s.modCore t.ci fun k => { k with
            v := (k.v.set d.toNat (replaceLanes k.v[d.toNat] (c.lanes.map fun l => (l.lane, l.result)))).set
              (d + 1).toNat (replaceLanes k.v[(d + 1).toNat] (c.lanes.map fun l => (l.lane, l.status))) }
          s.wake t

/-- A lane's result arrives at the origin; RANGE ends the task (CHAIN_RESULT, 09_memory.md R263, R264). -/
def State.chainEnds (s : State) (m : ChainEnd) : State :=
  match s.task? m.task with
  | none => s
  | some t =>
    if m.range then s.softwareError t causeRange
    else (s.modLane m.task m.lane fun l =>
      { l with ended := true, result := m.result, stop := m.stop, done := m.done }).settleChain m.task

/-- Does a lane's fault on a page join an entry: one of its chain, written and not yet read, or waiting to be written
(09_memory.md R267, 15_faults.md R388)? -/
def FaultEntry.joins (e : FaultEntry) (uid : Nat) (x : Word) : Bool :=
  match e.target with
  | .lanes u _ => u == uid && !e.read && !e.void && pageOf e.vaddr == pageOf x
  | _ => false

/-- An entry with one lane more. -/
def FaultEntry.addLane (e : FaultEntry) (lane : Nat) : FaultEntry :=
  match e.target with
  | .lanes u ls => { e with target := .lanes u (ls ++ [lane]) }
  | _ => e

/-- A chain fault reply reaches the origin: an entry with cause CHAINF, and the park kind becomes FAULT
(CHAIN_FAULT_REPLY, 09_memory.md R265, R267). -/
def State.chainFaults (s : State) (m : ChainFault) : State :=
  match s.task? m.task with
  | none => s
  | some t =>
    let s := s.modLane m.task m.lane fun l =>
      { l with k := m.k, x := m.x, final := m.final, nfault := l.nfault + 1, fv := true, fstep := m.k }
    let s := s.modTask m.task ({ · with status := .parked .fault })
    let joins := fun (e : FaultEntry) => e.joins m.task m.x
    let d := s.die t.die
    if d.entries.any (joins ·.2) || d.unreported.any joins then s.mapEntries joins (·.addLane m.lane)
    else
      let e := t.faultEntry (.lanes m.task [m.lane]) (if m.final then .chainFinal else .chainStep) m.x 0x0A
        ⟨m.prot, m.why, m.level⟩
      s.postEntry t.die { e with final := m.final, step := BitVec.ofNat 4 m.k }

/-- Is a task on a core that is pre-empted, so that replies of its chain wait until resumption (09_memory.md R269)? -/
def State.awayTask (s : State) (uid : Nat) : Option Task := (s.task? uid).filter fun t => s.halted t.ci && !t.spilled

/-- A lane's result reaches the origin: at once, or at resumption (CHAIN_RESULT, 09_memory.md R263, R269). -/
def State.takeChainEnd (s : State) (m : ChainEnd) : State :=
  match s.awayTask m.task with
  | some t => s.divert t.ci (.chainEnd m)
  | none => s.chainEnds m

/-- A fault reply reaches the origin: at once, or at resumption (CHAIN_FAULT_REPLY, 09_memory.md R265, R269). -/
def State.takeChainFault (s : State) (m : ChainFault) : State :=
  match s.awayTask m.task with
  | some t => s.divert t.ci (.chainFault m)
  | none => s.chainFaults m

/-- A result or fault goes to the origin of a packet. -/
def State.toOrigin (s : State) (p : Packet) (m : ChainEnd ⊕ ChainFault) : State :=
  if p.origin = s.svc.packageId then
    match m with
    | .inl e => s.takeChainEnd e
    | .inr f => s.takeChainFault f
  else s.send p.origin p.who (match m with
    | .inl e => .chainEnd e
    | .inr f => .chainFault f)

/-- A packet is located at the next address and goes to its home (09_memory.md R263). -/
def State.forward (s : State) (p : Packet) (k : Nat) (x : Word) (final : Bool) : State :=
  let done := if final then k + 1 else k
  match s.locate p.ctxid p.ranges final x with
  | (s, .stop code) => s.toOrigin p (.inl ⟨p.who.task, p.lane, x, code, done, false⟩)
  | (s, .range) => s.toOrigin p (.inl ⟨p.who.task, p.lane, x, 0, done, true⟩)
  | (s, .fault f) => s.toOrigin p (.inr ⟨p.who.task, p.lane, k, x, final, f.prot, f.why, f.level⟩)
  | (s, .home l) =>
    let p := { p with k := k, c := x, pa := l.pa, final := final }
    if l.pkg = s.svc.packageId then { s with packets := s.packets ++ [p] } else s.send l.pkg p.who (.chain p)

/-- Goes on after the word `w` of step `p.k` is known (09_memory.md R263). -/
def State.afterWord (s : State) (p : Packet) (w : Word) : State :=
  match chainStep (p.steps.getD p.k 0) p.c w with
  | .stop r code => s.toOrigin p (.inl ⟨p.who.task, p.lane, r, code, p.k + 1, false⟩)
  | .load a => s.forward p p.k a true
  | .go c =>
    if p.k + 1 < p.steps.length then s.forward p (p.k + 1) c false
    else s.toOrigin p (.inl ⟨p.who.task, p.lane, c, 0, p.k + 1, false⟩)

/-- The doubleword that a packet loads. A task of this package reads none of its bytes older from then on, and a shadow
those of its overlay (11_order.md R287, R291; 14_containment.md R370). -/
def State.chainWord (s : State) (p : Packet) : State × Nat :=
  let (s, w) := (s.mayMiss (if p.origin = s.svc.packageId then none else some p.origin) p.pa).fetchDword p.pa
  match if p.origin = s.svc.packageId then s.task? p.who.task else none with
  | none => (s, w)
  | some t =>
    let (s, u) := s.readAs t none p.pa 8 s.past.length
    (s.putTask u, leNat (overlaid t.overlay p.pa (leBytes 8 w)))

/-- A packet runs one step at the owner of its address (CHAIN_PACKET, 09_memory.md R263, R268); an error in the line is
handled as for a read of the task. The word is the home's: a store of the issuing task that is still buffered is not
seen, which is the model's choice (R268 leaves the order of the two free). -/
def State.runPacket (s : State) (p : Packet) : State :=
  match s.found ⟨s.svc.packageId, p.pa, 0⟩ 8 with
  | .poisoned => s.hwerr p.who.part p.who.launch
  | .error | .rebuild => { s.memoryError p.pa with packets := s.packets ++ [p] }
  | .sound =>
    let (s, w) := s.chainWord p
    if p.final then s.toOrigin p (.inl ⟨p.who.task, p.lane, BitVec.ofNat 64 w, 1, p.k + 1, false⟩)
    else s.afterWord p (BitVec.ofNat 64 w)

/-- Packets of a task's lanes as the origin sends them again, each from its step (09_memory.md R265). -/
def State.resendLanes (s : State) (uid : Nat) (ls : List Nat) : State :=
  match s.task? uid with
  | none => s
  | some t =>
    match t.chain with
    | none => s
    | some c =>
      let s := s.modTask uid ({ · with status := .parked .chain })
      (c.lanes.filter fun l => ls.contains l.lane && !l.ended).foldl (fun s l =>
        s.forward ⟨s.who t, s.svc.packageId, t.ctxid, l.lane, c.steps, t.ranges, l.k, l.x, 0, l.final⟩ l.k l.x l.final) s

/-- Lanes of a fault entry are retried; on a pre-empted core only after resumption (09_memory.md R265, R269). Another
entry of the chain keeps the park kind FAULT (R267). -/
def State.retryLanes (s : State) (uid : Nat) (ls : List Nat) : State :=
  match s.task? uid with
  | none => s
  | some t =>
    if s.halted t.ci && !t.spilled then s.divert t.ci (.resend uid ls)
    else
      let s := s.resendLanes uid ls
      let waiting := s.dies.any fun (_, d) =>
        (d.entries.any fun (_, e) => match e.target with
          | .lanes u _ => u == uid && !e.void
          | _ => false) || d.unreported.any fun e => match e.target with
          | .lanes u _ => u == uid
          | _ => false
      if waiting then s.modTask uid fun t => if t.chain.isSome then { t with status := .parked .fault } else t else s

/-- The steps of a descriptor of which `bs` holds the header and step words; `none` raises ILLEGAL
(09_memory.md R262, R263). -/
def chainSteps (n : Nat) (bs : List Byte) : Option (List Word) :=
  let ws := (List.range n).map fun i => BitVec.ofNat 64 (leNat ((bs.drop (8 * i)).take 8))
  if ws.all fun w => field w.toNat 52 12 = 0 then some ws else none

/-- Reads and checks a descriptor, then goes on with its steps (09_memory.md R263). -/
def withSteps (s : State) (t : Task) (va : Word) (k : State → List Word → Out State) : Out State :=
  if va.toNat % 8 ≠ 0 then trap s t causeAlign
  else withBytes s t .record va 1 fun s h =>
    let n := leNat h
    if n = 0 ∨ 8 < n then trap s t causeIllegal
    else withBytes s t .record (va + 8) n fun s bs =>
      match chainSteps n bs with
      | none => trap s t causeIllegal
      | some steps => k s steps

/-- The task parks as CHAIN with its chain record, past the instruction. -/
def State.startChain (s : State) (t : Task) (c : ChainRec) : State :=
  s.park { t.advance with chain := some c } .chain .chain

/-- `CLD` (09_memory.md R264). -/
def execCld (d a b : GReg) (s : State) : Out State := withTask s fun t =>
  let c := t.greg a
  if c.toNat % 8 ≠ 0 then trap s t causeAlign
  else withSteps s t (t.greg b) fun s steps =>
    let s := s.startChain t ⟨.scalar d, steps, [{ lane := 0, x := c }]⟩
    .next (s.resendLanes t.uid [0])

/-- Active 32-bit elements of a register under a mask; `k0` reads all ones (03_encoding.md R64, 06_vector.md R164). -/
def activeElements (v : VWord) (m : KWord) (k : Reg3) : List (Nat × Word) :=
  ((List.range 64).filter fun i => k = 0 || m.getLsbD i).map fun i => (i, BitVec.ofNat 64 (lane 32 v i))

/-- `VCLD` (09_memory.md R267). -/
def execVcld (d a : VReg) (b : GReg) (k : Reg3) (s : State) : Out State := withTask s fun t =>
  let c := s.core t.ci
  if !c.vq.isEmpty then .next (s.stall t .none)
  else withSteps s t (t.greg b) fun s steps =>
    let es := activeElements c.v[a.toNat] c.k[k.toNat] k
    let s := s.startChain t ⟨.vector d, steps, es.map fun (i, x) => { lane := i, x := x }⟩
    let s := es.foldl (fun s (i, x) =>
      s.afterWord ⟨s.who t, s.svc.packageId, t.ctxid, i, steps, t.ranges, 0, x, 0, false⟩ x) s
    .next (s.settleChain t.uid)

end Sys2Proof.Machine
end

