-- ==== Sys2Proof/Machine/Fabric.lean ====
section
/-! DEFINITION. The fabric interface: what arriving messages do, flits, rotor slots, relays, and the fabric's happenings
of the table (13_fabric.md R322 to R337, 09_memory.md R253). -/

namespace Sys2Proof.Machine

/-- The value of a remote load is written: to the parked task's destination, or to the reads of an instruction, which
wake its task when the last has come (09_memory.md R253, 05_tasks.md R132). -/
def State.takeLoadReply (s : State) (dest : ReplyTo) (bs : List Byte) : State :=
  match dest with
  | .scalar u =>
    match s.task? u with
    | none => s
    | some t =>
      match t.wait with
      | .load d key n acq =>
        let (s, t) := s.sawAfar t acq
        s.wake (t.setG d (BitVec.ofNat 64 (leNat (overlaid t.overlay key (bs.take n)))))
      | _ => s
  | .part token i =>
    let s := { s with reads := s.reads.map fun r => if r.token = token ∧ r.id = i then { r with value := some bs } else r }
    if token % 8 = 0 && s.readsCome token then
      match s.task? (token / 8) with
      | some t => if t.wait = .reads then s.wake t else s
      | none => s
    else s

/-- An access of another package's task to a line of this one: an uncorrectable error is charged as for a read of the
task, and a poisoned line fails its launch with HWERR (15_faults.md R397, R399). -/
def State.remoteAccess (s : State) (w : Who) (a n : Nat) (k : State → State) : State :=
  let s := if s.unsound a n then s.memoryError (s.badLine a n) else s
  if s.poisonedIn a n then s.hwerr w.part w.launch else k (s.correct a n)

/-- A remote load is performed at its home and answered (LOAD_REQUEST, 09_memory.md R253). -/
def State.takeLoad (s : State) (src : Nat) (m : LoadReq) : State :=
  s.remoteAccess m.who m.pa m.bytes fun s =>
  let (s, bs) := (s.mayMiss (some src) m.pa).fetchBytes m.pa m.bytes
  s.send src m.who (.loadReply m.dest bs)

/-- A far returning atomic executes at its home and is answered with the old value and the flags (ATOMIC_REQUEST,
10_atomics.md R271, R275). On a line in error it is abandoned with no effect; once the error has gone its way the request
is taken again (10_atomics.md R284). -/
def State.takeAtomicReq (s : State) (src : Nat) (m : AtomicReq) : State :=
  let n := amoBytes m.z
  if s.unsound m.pa n then
    let s := s.memoryError (s.badLine m.pa n)
    { s with fab := { s.fab with redo := s.fab.redo ++ [(src, m)] } }
  else s.remoteAccess m.who m.pa n fun s =>
    let (s, r) := (s.mayMiss (some src) m.pa).doAtomic m.pa m.op m.z m.v m.c (whoTag m.who)
      { uid := 0, core := none, atomic := true, rel := [⟨.sys, 0⟩] }
    s.send src m.who (.atomicReply m.who.task (BitVec.ofNat 64 r.old) r.flags)

/-- What waits for the capability entry of a page for a task asks again if it does not find the entry. -/
def State.entryCame (s : State) (uid page : Nat) : State :=
  { s with cores := s.cores.map fun (k, c) => (k, { c with
      vq := c.vq.map fun e => if e.uid = uid then { e with asked := e.asked.erase page } else e
      mq := c.mq.map fun e => if e.uid = uid then { e with asked := e.asked.erase page } else e
      chans := c.chans.map fun x => { x with copies := x.copies.map fun y =>
        if y.uid = uid then { y with asked := y.asked.erase page } else y } }) }

/-- A task, or the one that has left queued instructions behind. -/
def State.issuerOf (s : State) (uid : Nat) : Option Task :=
  (s.task? uid).or <| s.cores.findSome? fun x =>
    ((x.2.vq.filterMap (·.issuer)) ++ x.2.mq.filterMap (·.issuer)).find? (·.uid == uid)

/-- A capability entry arrives and its waiter goes on (CAPABILITY_ENTRY_FETCH, 14_containment.md R348). -/
def State.takeCapEntry (s : State) (task page : Nat) (entry : Word) : State :=
  match s.issuerOf task with
  | none => s
  | some t =>
    let s := (s.entryCame task page).modQuad (quadOf t.ci) fun q =>
      { q with caps := (q.caps.filter fun e => !(e.1 == t.ctxid && e.2.1 == page)) ++ [(t.ctxid, page, entry)] }
    if t.wait = .capFetch page then s.wake t else s

/-- A domain id drawn from another package arrives (DOMAIN_ID_DRAW_REPLY, 14_containment.md R357). -/
def State.takeDrawnId (s : State) (task : Nat) (id : BitVec 32) : State :=
  if 2 ^ 64 ≤ task then
    let part := (task - 2 ^ 64) / 2 ^ 32 % 16
    if (task - 2 ^ 64) / 2 ^ 36 ≠ (s.part part).epoch.toNat then s
    else s.modLaunch part (BitVec.ofNat 32 task) ({ · with drawn := some id.toNat })
  else match s.task? task with
  | none => s
  | some t => if t.wait = .idDraw then s.wake { t with drawn := some id.toNat } else s

/-- DEPCNT of a record of another package has come to 0: entries blocked on it return to their queues, and what was
read of it before is read again (05_tasks.md R140). -/
def State.recordReleased (s : State) (src pa : Nat) : State :=
  { s.unblock src pa with reads := s.reads.filter fun r => !(r.token % 8 == 5 && r.pkg == src && r.pa / 64 * 64 == pa) }

/-- A remote reduction arrives at its home (REDUCTION_MESSAGE, 10_atomics.md R277; 15_faults.md R397). -/
def State.takeReduction (s : State) (src : Nat) (m : RedMsg) : State :=
  if s.poisoned m.pa then s.hwerr m.who.part m.who.launch
  else (s.mayMiss (some src) m.pa).arrive ⟨m.who, packageIndex src, m.pa, m.op, .none, some (whoTag m.who), 0, [], 0⟩

/-- A task of another package claims a slice that lies here (14_containment.md R374). -/
def State.takeClaim (s : State) (src : Nat) (w : Who) (uid pa : Nat) (seq : Word) : State :=
  s.remoteAccess w pa 16 fun s =>
    let (s, ok) := s.claimSlice pa seq (whoTag w) { uid := 0, core := none, rel := [⟨.sys, 0⟩] }
    s.send src w (.claimed uid ok)

/-- What a message of the current reset epoch does on arrival (13_fabric.md R324). -/
def State.take (s : State) (src : Nat) (w : Who) : Msg → State
  | .loadReq m => s.takeLoad src m
  | .loadReply dest bs => s.takeLoadReply dest bs
  | .store m => s.performStores src m
  | .counted m c => s.takeCounted src m c
  | .flag f => s.takeFlag src f
  | .red m => s.takeReduction src m
  | .atomicReq m => s.takeAtomicReq src m
  | .atomicReply u v f => s.takeAtomicReply u v f
  | .chain p => { s with packets := s.packets ++ [p] }
  | .chainEnd m => s.takeChainEnd m
  | .chainFault m => s.takeChainFault m
  | .stall m => s.takeStall src m
  | .resync m => s.takeResync src m
  | .resyncAck ch g => s.takeAck src ch g
  | .barrier m => s.takeArrival src m
  | .capFetch u ctxid page =>
    s.send src (s.deviceWho ctxid) (.capEntry u page (BitVec.ofNat 64 (((s.capAddr ctxid page).map fun a =>
      s.lookNat a 8).getD 0)))
  | .capEntry u page e => s.takeCapEntry u page e
  | .capChange id ctxid steps => s.takeChange src id ctxid steps
  | .capResult id r => s.takeResult id r
  | .invalidate id ctxid reach => s.takeInvalidate src id ctxid reach
  | .confirmed id => s.takeConfirmed src id
  | .domQuery id ctxid dom =>
    s.send src (s.deviceWho ctxid) (.domAnswer id ((s.dom? ctxid dom).any (·.state == .provisional)))
  | .domAnswer id yes => s.takeDomAnswer src id yes
  | .idFree ctxid id unused => s.freeId ctxid id unused
  | .claim u pa seq => s.takeClaim src w u pa seq
  | .claimed u ok => s.answerTo (tokenTask u, forClaim) ⟨if ok then .done else .conflict, []⟩
  | .idDraw u ctxid =>
    let (s, id) := s.drawId ctxid
    s.send src (s.deviceWho ctxid) (.idReply u (BitVec.ofNat 32 id))
  | .idReply u id => s.takeDrawnId u id
  | .near _ pa => s.nearHint (some src) pa
  | .released _ pa => s.recordReleased src pa

/-- A message of another package arrives; one of another reset epoch of its partition is discarded (13_fabric.md R345).
-/
def State.receive (s : State) (src : Nat) (w : Who) (m : Msg) : State := if s.currentEpoch w then s.take src w m else s

/-- The lines that a task's access in a message touches (13_fabric.md R328). -/
def messageLines : Msg → List Nat
  | .loadReq m => linesOf m.pa m.bytes
  | .store m | .counted m _ => m.writes.flatMap fun x => linesOf x.1 x.2.length
  | .flag f => [lineOf f.pa]
  | .red m => [lineOf m.pa]
  | .atomicReq m => [lineOf m.pa]
  | _ => []

/-- Do two messages carry accesses of one task to one line (13_fabric.md R328)? -/
def sameLine (a b : Msg) (u v : Who) : Bool := u.task == v.task && (messageLines a).any (messageLines b).contains

/-- Is an access of the same task to the line of a message still under way to its destination: in a flit that is not
acknowledged or is to be sent again, in a burst held here, or with a relay that has not reported it as forwarded
(13_fabric.md R325 to R328)? -/
def State.underWay (s : State) (m : OutMsg) : Bool :=
  let carries := fun (ps : List Parcel) => ps.any fun p => p.src == s.svc.packageId && sameLine p.msg m.msg p.who m.who
  ((s.fab.handed ++ s.fab.unacked ++ s.fab.resend).any fun f => f.dst == m.dst && carries f.parcels)
    || s.fab.relay.any fun b => b.dst == m.dst && carries b.parcels

/-- The messages that may leave, in order: counted traffic of a pair waits for RESYNC-ACK (R337), and a task's accesses to
one line go in issue order on one route, so that they wait for one that waits or is under way (R328). -/
def State.leaving (s : State) : List OutMsg → List OutMsg → List OutMsg
  | _, [] => []
  | held, m :: ms =>
    let waits := (match messageChannel m.msg with
        | some ch => (s.sender ch m.dst).resync
        | none => false)
      || held.any (fun h => h.dst == m.dst && sameLine h.msg m.msg h.who m.who) || s.underWay m
    if waits then s.leaving (m :: held) ms else m :: s.leaving held ms

/-- Bytes of a message of the device or of a scalar access in a flit; what the table does not list goes as a control
message (13_fabric.md R324). -/
def messageBytes : Msg → Nat
  | .loadReply _ bs => if bs.length ≤ 8 then 16 else 80
  | .loadReq _ | .atomicReply _ _ _ | .stall _ | .resync _ | .resyncAck _ _ | .barrier _ => 16
  | .store m => if m.writes.length ≤ 1 && m.writes.all (·.2.length ≤ 8) then 24 else 88
  | .counted m _ => if m.writes.length ≤ 1 && m.writes.all (·.2.length ≤ 8) then 32 else 96
  | .flag _ => 40
  | .red m => match m.op with
    | .xor _ => 48
    | _ => 24
  | .atomicReq _ => 32
  | .chain p => 24 + 8 * (p.steps.length - p.k)
  | .chainEnd _ | .chainFault _ => 24
  | .claim _ _ _ => 24
  | .capChange _ _ _ | .capResult _ _ | .invalidate _ _ _ | .confirmed _ | .domQuery _ _ _ | .domAnswer _ _ | .idFree _ _ _ | .claimed _ _
  | .capFetch _ _ _ | .capEntry _ _ _ | .idDraw _ _ | .idReply _ _ | .near _ _ | .released _ _ => 16

/-- Bytes of a message that waits in the interface: the stores of vector, matrix and copy operations go as lines
(13_fabric.md R324). -/
def OutMsg.bytes (m : OutMsg) : Nat :=
  match m.msg, m.op with
  | .store _, _ + 1 => 88
  | .counted _ _, _ + 1 => 96
  | x, _ => messageBytes x

/-- A message leaves the interface: its operation leaves its count when nothing of it remains (05_tasks.md R143). -/
def State.departed (s : State) (m : OutMsg) : State :=
  s.settle m.who.task m.cls m.op

/-- Far atomics that were abandoned are taken again once the error of their line has gone its way (10_atomics.md R284). -/
def State.redoAtomics (s : State) : State :=
  let (again, wait) := s.fab.redo.partition fun x => !s.unsound x.2.pa (amoBytes x.2.z)
  again.foldl (fun s x => if s.currentEpoch x.2.who then s.takeAtomicReq x.1 x.2 else s)
    { s with fab := { s.fab with redo := wait } }

/-- Messages homed in this package leave by loopback and arrive at its own receiver (13_fabric.md R342). -/
def State.loopback (s : State) : State :=
  match (s.leaving [] s.fab.out).find? fun m => m.dst == s.svc.packageId with
  | none => s
  | some m =>
    let s : State := { s with fab := { s.fab with out := s.fab.out.erase m } }
    (s.departed m).receive s.svc.packageId m.who m.msg

/-- Fills one flit from a list of messages in order: at most 240 bytes (13_fabric.md R322, R324). -/
def packFlit : Nat → List OutMsg → List OutMsg
  | _, [] => []
  | room, m :: ms => if m.bytes ≤ room then m :: packFlit (room - m.bytes) ms else []

/-- Key of a fabric virtual time. -/
def fabKey (dst p : Nat) : Nat := dst * 16 + p

/-- Is a virtual time before another, by the sign of their difference (05_tasks.md R123)? -/
def timeBefore (a b : BitVec 32) : Bool := (a - b).msb

/-- A virtual time that is inactive: when the smallest active one goes from one value to another past a multiple of 2^30,
it is raised to that if it lies behind (05_tasks.md R123). -/
def raised (low now v : BitVec 32) : BitVec 32 :=
  if low.toNat / 2 ^ 30 ≠ now.toNat / 2 ^ 30 ∧ timeBefore low now ∧ timeBefore v now then now else v

/-- The partition with the smallest virtual time of those given, lower numbers first (05_tasks.md R123). -/
def earliest (time : Nat → BitVec 32) : List Nat → Option Nat
  | [] => none
  | p :: ps =>
    match earliest time ps with
    | none => some p
    | some q => if timeBefore (time q) (time p) then some q else some p

/-- The partitions in rising order that have a message for a destination. -/
def sending (ready : List OutMsg) (dst : Nat) : List Nat :=
  (List.range 16).filter fun p => ready.any fun m => m.dst == dst && m.who.part == p

/-- Weight of a partition in the fabric (16_system.md R413). -/
def State.fabWeight (s : State) (p : Nat) : Nat := max 1 (field (s.part p).pqos.toNat 24 8)

/-- Virtual time of a partition towards a destination (16_system.md R413). -/
def State.fabTime (s : State) (dst p : Nat) : BitVec 32 := Sparse.read 0 s.fab.time (fabKey dst p)

/-- Raises virtual times towards a destination to one that they lie behind. -/
def State.raiseTimes (s : State) (dst : Nat) (to_ : BitVec 32) (ps : List Nat) : State :=
  { s with fab := { s.fab with time := ps.foldl (fun t p =>
      if timeBefore (Sparse.read 0 t (fabKey dst p)) to_ then Sparse.write 0 t (fabKey dst p) to_ else t) s.fab.time } }

/-- The smallest active time towards a destination is looked at: when it has passed a multiple of 2^30 the times of the
other partitions are raised to it (05_tasks.md R123, 16_system.md R413). -/
def State.settleFabric (s : State) (dst : Nat) (ps : List Nat) : State :=
  match (earliest (s.fabTime dst) ps).map (s.fabTime dst) with
  | none => s
  | some now =>
    let low := Sparse.read 0 s.fab.low dst
    { s with fab := { s.fab with
      low := Sparse.write 0 s.fab.low dst now
      time := ((List.range 16).filter fun q => !ps.contains q).foldl (fun t q =>
        Sparse.write 0 t (fabKey dst q) (raised low now (Sparse.read 0 t (fabKey dst q)))) s.fab.time } }

/-- Partitions that have become active towards a destination take the smallest time of those already active if it is
later; then the smallest times are looked at (05_tasks.md R123, 16_system.md R413). -/
def State.activateFabric (s : State) : State :=
  if s.fab.out.isEmpty && s.fab.active.isEmpty then s
  else
    let now := (s.fab.out.map fun m => fabKey m.dst m.who.part).eraseDups
    let new := now.filter fun k => !s.fab.active.contains k
    let old := now.filter s.fab.active.contains
    let s := ((new.map (· / 16)).eraseDups).foldl (fun (s : State) dst =>
      match earliest (s.fabTime dst) ((List.range 16).filter fun p => old.contains (fabKey dst p)) with
      | none => s
      | some q => s.raiseTimes dst (s.fabTime dst q) ((List.range 16).filter fun p => new.contains (fabKey dst p))) s
    let s : State := { s with fab := { s.fab with
      active := now, passed := s.fab.passed.filter fun e => now.contains e.1 } }
    ((now.map (· / 16)).eraseDups).foldl (fun s dst =>
      s.settleFabric dst ((List.range 16).filter fun p => now.contains (fabKey dst p))) s

/-- The partition whose flit goes next to a destination: one that would else go without for 64 flits, or the earliest by
virtual time (16_system.md R413). -/
def State.nextSender (s : State) (dst : Nat) (ps : List Nat) : Option Nat :=
  let passed := fun p => Sparse.read 0 s.fab.passed (fabKey dst p)
  match ps.find? fun p => 64 ≤ passed p + ps.length && ps.all fun q => passed q ≤ passed p with
  | some p => some p
  | none => earliest (s.fabTime dst) ps

/-- A flit of partition `p` for a destination is charged (16_system.md R413, 05_tasks.md R123). -/
def State.chargeFlit (s : State) (dst p : Nat) (ps : List Nat) : State :=
  let s : State := { s with fab := { s.fab with
    time := Sparse.write 0 s.fab.time (fabKey dst p) (s.fabTime dst p + BitVec.ofNat 32 (65536 / s.fabWeight p))
    passed := ps.foldl (fun t q => Sparse.write 0 t (fabKey dst q)
      (if q = p then 0 else Sparse.read 0 t (fabKey dst q) + 1)) s.fab.passed } }
  s.settleFabric dst ps

/-- A flit leaves by a port for a peer under the peer's next number (13_fabric.md R326). -/
def State.launchFlit (s : State) (port peer dst : Nat) (parcels : List Parcel) : State :=
  let seq := Sparse.read 0 s.fab.nextSeq peer
  { s with fab := { s.fab with
    nextSeq := Sparse.write 0 s.fab.nextSeq peer (seq + 1)
    unacked := s.fab.unacked ++ [⟨port, peer, dst, seq, parcels, 0⟩] } }

/-- Sends one flit for `dst` through a port to the peer that it meets, from the messages ready at the start of the slot
(13_fabric.md R324, 16_system.md R413). -/
def State.sendFlit (s : State) (port peer dst : Nat) (ready : List OutMsg) : Option (State × List OutMsg) :=
  let ps := sending ready dst
  match s.nextSender dst ps with
  | none => none
  | some p =>
    let ms := packFlit 240 (ready.filter fun m => m.dst == dst && m.who.part == p)
    if ms.isEmpty then none
    else
      let s : State := { s with fab := { s.fab with out := ms.foldl (fun o m => o.erase m) s.fab.out } }
      let s := (s.launchFlit port peer dst (ms.map fun m => ⟨s.svc.packageId, m.who, m.msg⟩)).chargeFlit dst p ps
      some (ms.foldl (fun s m => s.departed m) s, ms.foldl (fun r m => r.erase m) ready)

/-- Sends flits for a destination through a port while it has room; how much is left. -/
def State.sendFlits (s : State) (port peer dst : Nat) (ready : List OutMsg) : Nat → State × List OutMsg × Nat
  | 0 => (s, ready, 0)
  | n + 1 =>
    match s.sendFlit port peer dst ready with
    | none => (s, ready, n + 1)
    | some (s, ready) => s.sendFlits port peer dst ready n

/-- The peer that a package's port meets in a slot by the pod's slot table (13_fabric.md R323). -/
def State.meeting (s : State) (pkg port slot : Nat) : Option Nat :=
  match Sparse.read 0 s.fab.slotTable (pkg * 1024 + port * 32 + slot) with
  | 0 => none
  | p + 1 => some p

/-- Slots from the present one until a package next meets another, at least one; none when the table shows no meeting
(13_fabric.md R323). -/
def State.slotsTo (s : State) (pkg dst : Nat) : Option Nat :=
  ((List.range 32).map (· + 1)).find? fun k => (List.range 32).any fun j =>
    s.meeting pkg j ((s.fab.slotNow + k) % 32) == some dst

/-- The peer that a port meets in a slot, from the slot table; a lost port meets none (13_fabric.md R323). -/
def State.meets (s : State) (port slot : Nat) : Option Nat :=
  if s.fab.portsLost.contains port then none
  else s.meeting s.svc.packageId port slot

/-- Does some slot and port of the table meet a package directly? -/
def State.meetsEver (s : State) (dst : Nat) : Bool :=
  (List.range 32).any fun j => (List.range 32).any fun sl => s.meets j sl == some dst

/-- Notes and parity supplements for the peer go ahead of further data; eight supplements take the room of a flit
(13_fabric.md R326). -/
def State.sendLinks (s : State) (peer n : Nat) : State × Nat :=
  let mine := s.fab.links.filter (·.peer == peer)
  ({ s with fab := { s.fab with links := s.fab.links.filter (·.peer != peer) } },
    n - ceilDiv ((mine.filter (·.note.isNone)).length) 8)

/-- Flits to be sent again to the peer leave by this port (13_fabric.md R326). -/
def State.resendFlits (s : State) (port peer n : Nat) : State × Nat :=
  let mine := (s.fab.resend.filter (·.peer == peer)).take n
  ({ s with fab := { s.fab with
    resend := s.fab.resend.filter fun f => !mine.contains f
    unacked := s.fab.unacked ++ mine.map ({ · with port := port, sups := 0 }) } }, n - mine.length)

/-- Held bursts leave by a port for a peer; the packages that handed them over are told at the next meeting
(RELAY_FORWARD, 13_fabric.md R325, R327). -/
def State.forwardBursts (s : State) (port peer n : Nat) (which : Burst → Bool) : State × Nat :=
  let mine := (s.fab.relay.filter which).take n
  (mine.foldl (fun (s : State) b =>
    let s := s.launchFlit port peer b.dst b.parcels
    { s with fab := { s.fab with
      relay := s.fab.relay.erase b
      links := if b.from_ = s.svc.packageId then s.fab.links
        else s.fab.links ++ [⟨b.from_, b.seq, some .forwarded⟩] } }) s, n - mine.length)

/-- What one port sends directly in a slot, of at most 292 flits: notes and supplements, flits sent again, bursts held for
the peer, and the messages for it; how much room is left (13_fabric.md R324, R325). -/
def State.portSlot (s : State) (port : Nat) (ready : List OutMsg) : State × List OutMsg × Nat :=
  match s.meets port s.fab.slotNow with
  | none => (s, ready, 0)
  | some peer =>
    let (s, n) := s.sendLinks peer 292
    let (s, n) := s.resendFlits port peer n
    let (s, n) := s.forwardBursts port peer n (·.dst == peer)
    s.sendFlits port peer peer ready n

/-- Flits that the direct meetings of one rotor cycle carry to a destination. -/
def State.directRoom (s : State) (dst : Nat) : Nat :=
  292 * (((List.range 32).map fun j => ((List.range 32).filter fun sl => s.meets j sl == some dst).length).sum)

/-- May the interface choose relay by a peer for a destination in this slot: the table shows that the peer meets it sooner,
or the direct bursts of the coming slots are full (13_fabric.md R325)? -/
def State.mayRelay (s : State) (peer dst : Nat) (ready : List OutMsg) : Bool :=
  (match s.slotsTo peer dst, (List.range 32).find? fun k => (List.range 32).any fun j =>
      s.meets j ((s.fab.slotNow + k + 1) % 32) == some dst with
    | some a, some b => a < b + 1
    | _, _ => false)
  || s.directRoom dst * 240 < ((ready.filter (·.dst == dst)).map OutMsg.bytes).sum

/-- Does the interface choose relay by a peer for a destination in this slot? Always when no slot meets the destination
directly; where it may, a free value (13_fabric.md R325; log entry 11). -/
def State.relays (s : State) (peer dst : Nat) (ready : List OutMsg) : State × Bool :=
  if !s.meetsEver dst then (s, true)
  else if s.mayRelay peer dst ready then (s.draw, Config.relays s.fresh)
  else (s, false)

/-- What one port sends by relay in the room that the direct bursts leave (13_fabric.md R325). -/
def State.relaySlot (s : State) (port n : Nat) (ready : List OutMsg) : State × List OutMsg :=
  match s.meets port s.fab.slotNow with
  | none => (s, ready)
  | some peer =>
    let (s, n) := s.forwardBursts port peer n fun b =>
      b.from_ == s.svc.packageId && b.dst != peer && !s.meetsEver b.dst
    let dsts := ((ready.map (·.dst)).filter fun d => d != s.svc.packageId && d != peer).eraseDups
    let (s, ready, _) := dsts.foldl (fun (x : State × List OutMsg × Nat) d =>
      match x.1.relays peer d x.2.1 with
      | (s, true) => s.sendFlits port peer d x.2.1 x.2.2
      | (s, false) => (s, x.2)) (s, ready, n)
    (s, ready)

/-- Flits to be sent again to a peer that no slot meets any more go by relay: their bursts are held here
(13_fabric.md R323, R326). -/
def State.reroute (s : State) : State :=
  let (gone, stay) := s.fab.resend.partition fun f => !s.meetsEver f.peer
  { s with fab := { s.fab with
    resend := stay, relay := s.fab.relay ++ gone.map fun f => ⟨f.dst, s.svc.packageId, f.seq, f.parcels⟩ } }

/-- ROTOR_SLOT (13_fabric.md R322, R324, R325). -/
def execRotorSlot (s : State) : Out State :=
  let s := s.reroute
  let (s, ready, room) := (List.range 32).foldl (fun (x : State × List OutMsg × List Nat) j =>
    let (s, ready, n) := x.1.portSlot j x.2.1
    (s, ready, x.2.2 ++ [n])) (s, s.leaving [] s.fab.out, [])
  let (s, _) := (List.range 32).foldl (fun (x : State × List OutMsg) j => x.1.relaySlot j (room.getD j 0) x.2) (s, ready)
  .next { s with fab := { s.fab with slotNow := (s.fab.slotNow + 1) % 32 } }

/-- A note for the far end of a hop waits for the next meeting. -/
def State.note (s : State) (peer : Nat) (seq : BitVec 32) (n : Option LinkNote) : State :=
  { s with fab := { s.fab with links := s.fab.links ++ [⟨peer, seq, n⟩] } }

/-- Flit numbers of a peer that lie 2^31 or more behind a new one stand for no flit any more. -/
def recentFlits (seen : List (Nat × BitVec 32)) (src : Nat) (seq : BitVec 32) : List (Nat × BitVec 32) :=
  seen.filter fun x => x.1 != src || (seq - x.2).toNat < 2 ^ 31

/-- A flit that passed its check is acknowledged; unless it is a duplicate its messages arrive, or are held for another
destination (13_fabric.md R325, R326). -/
def State.takeFlit (s : State) (src dst : Nat) (seq : BitVec 32) (parcels : List Parcel) : State :=
  let s := s.note src seq (some .ack)
  if s.fab.seen.contains (src, seq) then s
  else
    let s : State := { s with fab := { s.fab with seen := recentFlits s.fab.seen src seq ++ [(src, seq)] } }
    if dst = s.svc.packageId then parcels.foldl (fun s p => s.receive p.src p.who p.msg) s
    else { s with fab := { s.fab with relay := s.fab.relay ++ [⟨dst, src, seq, parcels⟩] } }

/-- FLIT_ARRIVAL: a damaged flit is kept, and supplements are asked for (13_fabric.md R326). -/
def execFlitArrival (src dst : Nat) (seq : BitVec 32) (good : Bool) (parcels : List Parcel) (s : State) : Out State :=
  let s : State := { s with fab := { s.fab with
    damaged := s.fab.damaged.filter fun d => !(d.1.peer == src && d.1.seq == seq) } }
  if good then .next (s.takeFlit src dst seq parcels)
  else .next (State.note { s with fab := { s.fab with
    damaged := s.fab.damaged ++ [(⟨0, src, dst, seq, parcels, 0⟩, 0)] } } src seq (some .supplement))

/-- A supplement for a flit is asked for: up to three are sent, then the whole flit again (13_fabric.md R326). -/
def State.supplement (s : State) (f : Flit) : State :=
  let rest := s.fab.unacked.filter (· != f)
  if f.sups < 3 then
    State.note { s with fab := { s.fab with unacked := rest ++ [{ f with sups := f.sups + 1 }] } } f.peer f.seq none
  else { s with fab := { s.fab with unacked := rest, resend := s.fab.resend ++ [{ f with sups := 0 }] } }

/-- FLIT_ACK: what the far end says of a flit: it has it, and a relay has it from then on until it has forwarded it; or it
asks for a supplement (13_fabric.md R326, R327). -/
def execFlitAck (peer : Nat) (a : LinkAnswer) (s : State) : Out State :=
  let mine := fun (f : Flit) => f.peer == peer && f.seq == a.seq
  .next (match a.note with
    | .forwarded => { s with fab := { s.fab with handed := s.fab.handed.filter fun f => !mine f } }
    | .supplement => (s.fab.unacked.filter mine).foldl State.supplement s
    | .ack => { s with fab := { s.fab with
        unacked := s.fab.unacked.filter fun f => !mine f
        resend := s.fab.resend.filter fun f => !mine f
        handed := s.fab.handed ++ (s.fab.unacked ++ s.fab.resend).filter fun f => mine f && f.dst != f.peer } })

/-- PARITY_SUPPLEMENT: combined with the damaged flit, which is checked again; one more is asked for, and after the third
failure the sender sends the whole flit (13_fabric.md R326). -/
def execParitySupplement (src : Nat) (seq : BitVec 32) (good : Bool) (parcels : List Parcel) (s : State) : Out State :=
  match s.fab.damaged.find? fun d => d.1.peer == src && d.1.seq == seq with
  | none => .next s
  | some (f, n) =>
    let rest := s.fab.damaged.filter fun d => !(d.1.peer == src && d.1.seq == seq)
    if good then .next (State.takeFlit { s with fab := { s.fab with damaged := rest } } src f.dst seq parcels)
    else
      .next (State.note { s with fab := { s.fab with damaged := if n = 2 then rest else rest ++ [(f, n + 1)] } } src seq
        (some .supplement))

/-- LOAD_REQUEST (09_memory.md R253). -/
def execLoadRequest (src : Nat) (m : LoadReq) (s : State) : Out State := .next (s.receive src m.who (.loadReq m))
/-- LOAD_REPLY (05_tasks.md R132). -/
def execLoadReply (dest : ReplyTo) (bs : List Byte) (s : State) : Out State := .next (s.takeLoadReply dest bs)
/-- STORE_UNCOUNTED (09_memory.md R253). -/
def execStoreUncounted (src : Nat) (m : StoreMsg) (s : State) : Out State := .next (s.receive src m.who (.store m))
/-- STORE_COUNTED (13_fabric.md R332). -/
def execStoreCounted (src : Nat) (m : StoreMsg) (c : Count) (s : State) : Out State :=
  .next (s.receive src m.who (.counted m c))
/-- FLAG (13_fabric.md R332). -/
def execFlag (src : Nat) (m : FlagMsg) (s : State) : Out State := .next (s.receive src m.who (.flag m))
/-- REDUCTION_MESSAGE (10_atomics.md R277). -/
def execReductionMessage (src : Nat) (m : RedMsg) (s : State) : Out State := .next (s.receive src m.who (.red m))
/-- ATOMIC_REQUEST (10_atomics.md R271). -/
def execAtomicRequest (src : Nat) (m : AtomicReq) (s : State) : Out State :=
  .next (s.receive src m.who (.atomicReq m))
/-- ATOMIC_REPLY (10_atomics.md R275). -/
def execAtomicReply (task : Nat) (v : Word) (flags : BitVec 6) (s : State) : Out State :=
  .next (s.takeAtomicReply task v flags)
/-- CHAIN_PACKET (09_memory.md R263): the packet runs one step at the owner of its address. -/
def execChainPacket (m : Packet) (s : State) : Out State :=
  .next (if s.currentEpoch m.who then s.runPacket m else s)
/-- CHAIN_RESULT (09_memory.md R264). -/
def execChainResult (m : ChainEnd) (s : State) : Out State := .next (s.takeChainEnd m)
/-- CHAIN_FAULT_REPLY (09_memory.md R265). -/
def execChainFaultReply (m : ChainFault) (s : State) : Out State := .next (s.takeChainFault m)
/-- STALL (13_fabric.md R336). -/
def execStall (src : Origin) (m : StallMsg) (s : State) : Out State :=
  .next (s.receive src.pkg { s.chanWho m.stamp.ch with epoch := src.epoch } (.stall m))
/-- RESYNC (13_fabric.md R337). -/
def execResync (src : Origin) (m : ResyncMsg) (s : State) : Out State :=
  .next (s.receive src.pkg { s.chanWho m.ch with epoch := src.epoch } (.resync m))
/-- RESYNC_ACK (13_fabric.md R337). -/
def execResyncAck (src : Origin) (ch : Nat) (gen : BitVec 8) (s : State) : Out State :=
  .next (s.receive src.pkg { s.chanWho ch with epoch := src.epoch } (.resyncAck ch gen))
/-- HOLD_TIMEOUT (13_fabric.md R335). -/
def execHoldTimeout (ch src : Nat) (s : State) : Out State := .next (s.holdExpires ch src)
/-- RESYNC_RESEND (13_fabric.md R337). -/
def execResyncResend (ch dst : Nat) (s : State) : Out State :=
  let x := s.sender ch dst
  .next (if x.resync then s.send dst (s.chanWho ch) (.resync ⟨ch, x.gen, x.base.1, x.base.2⟩) else s)
/-- SLOT_TABLE_LOAD (13_fabric.md R323): entries (package × 1024 + port × 32 + slot, peer) of the pod's table. -/
def execSlotTableLoad (table : List (Nat × Nat)) (s : State) : Out State :=
  .next { s with fab := { s.fab with
    slotTable := table.foldl (fun t e => Sparse.write 0 t e.1 (e.2 + 1)) [] } }
/-- BARRIER_CONTROL_MESSAGE (11_order.md R293). -/
def execBarrierControlMessage (src : Origin) (m : BarrierMsg) (s : State) : Out State :=
  .next (s.receive src.pkg ⟨0, 0, 4 * m.part, src.epoch, 0, 0⟩ (.barrier m))
/-- CAPABILITY_ENTRY_FETCH (14_containment.md R348). -/
def execCapabilityEntryFetch (task page : Nat) (entry : Word) (s : State) : Out State :=
  .next (s.takeCapEntry task page entry)
/-- DOMAIN_ID_DRAW_REPLY (14_containment.md R357). -/
def execDomainIdDrawReply (task : Nat) (id : BitVec 32) (s : State) : Out State := .next (s.takeDrawnId task id)

/-- Ports lost: their flits that no one acknowledged go by another port (13_fabric.md R326; 15_faults.md R399). -/
def State.losePort (s : State) (port : Nat) : State :=
  { s with fab := { s.fab with
    portsLost := if s.fab.portsLost.contains port then s.fab.portsLost else s.fab.portsLost ++ [port]
    unacked := s.fab.unacked.filter (·.port != port)
    resend := s.fab.resend ++ s.fab.unacked.filter (·.port == port) } }

/-- PORT_LOSS (15_faults.md R399). -/
def execPortLoss (port : Nat) (s : State) : Out State := .next (s.losePort port)

/-- ROTOR_LOSS: every package loses the port attached to the rotor; port j is attached to rotor j (15_faults.md R399,
13_fabric.md R322, log entry 11). -/
def execRotorLoss (rotor : Nat) (s : State) : Out State :=
  .next ({ s with fab := { s.fab with rotorsLost := s.fab.rotorsLost ++ [rotor] } }.losePort rotor)

/-- MERGE_STEP (10_atomics.md R280). -/
def execMergeStep (place : Nat) (indices : List Nat) (s : State) : Out State := .next (s.mergeAt place indices)

end Sys2Proof.Machine
end

