-- ==== Sys2Proof/Machine/Copy.lean ====
section
/-! DEFINITION. Copy engines, watermarks and the instructions of major 0x15 (12_copy.md R305 to R321). -/

namespace Sys2Proof.Machine

/-- The part of row `r` that falls in the 32-byte block of the destination at `b`: its first byte in copy order, and its
length. -/
def Copy.piece? (c : Copy) (b r : Nat) : Option (Nat × Nat) :=
  let d := c.dstAt (r * c.len0)
  let into := (b + 2 ^ 64 - d) % 2 ^ 64
  let after := (d + 2 ^ 64 - b) % 2 ^ 64
  if into < c.len0 then some (r * c.len0 + into, min 32 (c.len0 - into))
  else if after < 32 then some (r * c.len0, min (32 - after) c.len0)
  else none

/-- The parts of a copy's rows in the 32-byte block of the destination that byte `i` goes to: the sector, in copy order
(12_copy.md R305). -/
def Copy.sector (c : Copy) (i : Nat) : List (Nat × Nat) :=
  (List.range (c.cnt1 * c.cnt2)).filterMap (c.piece? (c.dstAt i / 32 * 32))

/-- Bytes from byte `i` on to the end of its row or of its block of the destination. -/
def Copy.chunk (c : Copy) (i : Nat) : Nat := min (32 - c.dstAt i % 32) (c.len0 - i % c.len0)

/-- The first byte, from byte `i` on, that begins a sector: the earliest of its block in copy order. -/
def Copy.sectorFrom (c : Copy) : Nat → Nat → Option Nat
  | 0, _ => none
  | n + 1, i =>
    if c.limit ≤ i then none
    else if (c.sector i).head?.any (·.1 == i) then some i
    else c.sectorFrom n (i + c.chunk i)

/-- The sector that a copy attempts next for the first time. -/
def Copy.nextSector (c : Copy) : Option Nat := c.sectorFrom (c.limit - c.pos) c.pos

/-- End of the part, from an address on, that a task may reach without the page checks: of a scratchpad segment
allotted to its partition, or of a declared or always-open range (09_memory.md R236 steps 2 to 4). -/
def State.openUntil (s : State) (t : Task) (a : Nat) : Option Nat :=
  let w := BitVec.ofNat 64 a
  if !canonical w || reservedWindow w then none
  else match scratchOf t.ci w with
    | some (ci, o) => if s.segmentPart ci o = t.part then some (a - o % 0x4000 + 0x4000) else none
    | none =>
      let top := if a < 2 ^ 54 then 2 ^ 54 else if a < scratchBase then scratchBase else 0xFFFFFFFFFFFC0000
      ((t.ranges ++ s.openRanges t.ctxid).find? fun r => rangeHolds r a).map fun r => min top (r.base + r.len)

/-- May a task reach every byte of an interval, found part by part? Addresses wrap (09_memory.md R235). -/
def State.openSpan (s : State) (t : Task) : Nat → Nat → Nat → Bool
  | 0, _, _ => false
  | n + 1, a, len =>
    let a := a % 2 ^ 64
    if len = 0 then true
    else match s.openUntil t a with
      | none => false
      | some e => if a + len ≤ e then true else s.openSpan t n e (a + len - e)

/-- Parts that an interval is found to need at most: more than the segments of every scratchpad. -/
def spanFuel : Nat := 40000

/-- May a task reach every byte of every row (12_copy.md R309)? -/
def State.openRows (s : State) (t : Task) (c : Copy) (start : Nat) (str1 str2 : Int) : Bool :=
  (List.range (c.cnt1 * c.cnt2)).all fun r => s.openSpan t spanFuel (c.address start str1 str2 (r * c.len0)) c.len0

/-- Changes a copy channel of a core. -/
def State.modChan (s : State) (ci ch : Nat) (f : CopyChan → CopyChan) : State :=
  s.modCore ci fun c => { c with chans := Vector.ofFn fun i => if i.val = ch then f c.chans[i] else c.chans[i] }

/-- Copy channel of a core. -/
def State.chan (s : State) (ci : Nat) (ch : Reg3) : CopyChan := (s.core ci).chans[ch.toNat]

/-- Changes a copy of a channel. -/
def State.modCopy (s : State) (ci ch serial : Nat) (f : Copy → Copy) : State :=
  s.modChan ci ch fun x => { x with copies := x.copies.map fun c => if c.serial = serial then f c else c }

/-- An interval joined with those it touches. -/
def joinInterval (lo hi : Nat) : List (Nat × Nat) → List (Nat × Nat)
  | [] => [(lo, hi)]
  | (a, b) :: rest => if hi < a ∨ b < lo then (a, b) :: joinInterval lo hi rest
      else joinInterval (min a lo) (max b hi) rest

/-- The watermark advances over what copies of the channel have written from it on (WATERMARK_ADVANCE, 12_copy.md
R313). -/
def CopyChan.advance (x : CopyChan) (lo n : Nat) : CopyChan :=
  match x.bound with
  | none => x
  | some (b, len) =>
    let w := joinInterval lo (lo + n) x.written
    let wm := match w.find? fun i => i.1 ≤ x.wm && x.wm < i.2 with
      | some i => max x.wm (min i.2 (b + len))
      | none => x.wm
    { x with written := w, wm := wm }

/-- What became of one side of a sector. -/
inductive Side where
  | at (l : Loc)
  | fault (va : Nat) (f : PageFault)
  | range
  | capv
  /-- The capability entry of a page must come first (14_containment.md R348). -/
  | fetch (page : Nat)
  /-- The line at an address is poisoned, or in error (15_faults.md R397, R399). -/
  | poisoned
  | error (pa : Nat)
deriving DecidableEq, Repr

/-- Places one byte's page for a copy: scratchpad or translation, and on a destination the writer capability or the mark
of a reduction (12_copy.md R310, R319). -/
def State.copySide (s : State) (t : Task) (va : Nat) (acc : Acc) (cap : CapRule) : State × Side :=
  match s.checked t acc cap (BitVec.ofNat 64 va) 1 1 with
  | (s, .ok l) => (s, .at l)
  | (s, .error (.page f)) => (s, .fault va f)
  | (s, .error .capv) => (s, .capv)
  | (s, .error (.fetch p)) => (s, .fetch p)
  | (s, .error _) => (s, .range)

/-- Reads a piece of a copy's source at its place, with what the task itself wrote there (12_copy.md R311;
14_containment.md R370); `none` while replies or a rebuilt line are awaited. -/
def State.copyPiece (s : State) (t : Task) (serial : Nat) (l : Loc) (k : Nat) : State × (Side ⊕ Option (List Byte)) :=
  if l.pkg = s.svc.packageId then
    match s.found l k with
    | .sound =>
      let (s, bs) := (s.correct l.pa k).taskBytes t l.pa k
      (s, .inr (some bs))
    | .poisoned => (s, .inl .poisoned)
    | .error => (s, .inl (.error (s.badLine l.pa k)))
    | .rebuild => (s, .inr none)
  else
    let (s, bs) := s.readAt (s.who t) (tokenCopy serial) l k
    (s, .inr (bs.map (overlaid t.overlay (s.overlayKey l))))

/-- Reads `n` bytes of a copy's source, piece by piece at page ends. -/
def State.copyRead (s : State) (t : Task) (serial : Nat) (va n : Nat) : State × (Side ⊕ Option (List Byte)) :=
  let first := min n (0x10000 - va % 0x10000)
  match s.copySide t va .copySrc .none with
  | (s, .at l) =>
    match s.copyPiece t serial l first with
    | (s, .inl x) => (s, .inl x)
    | (s, .inr none) => (s, .inr none)
    | (s, .inr (some bs)) =>
      if first = n then (s, .inr (some bs))
      else match s.copySide t ((va + first) % 2 ^ 64) .copySrc .none with
        | (s, .at l) => match s.copyPiece t serial l (n - first) with
          | (s, .inl x) => (s, .inl x)
          | (s, .inr none) => (s, .inr none)
          | (s, .inr (some cs)) => (s, .inr (some (bs ++ cs)))
        | (s, x) => (s, .inl x)
  | (s, x) => (s, .inl x)

/-- Reads the source of every part of a sector: addresses and lengths. -/
def State.copyReads (s : State) (t : Task) (serial : Nat) :
    List (Nat × Nat) → State × (Side ⊕ Option (List (List Byte)))
  | [] => (s, .inr (some []))
  | (va, n) :: rest =>
    match s.copyRead t serial va n with
    | (s, .inl x) => (s, .inl x)
    | (s, .inr none) => (s, .inr none)
    | (s, .inr (some bs)) =>
      match s.copyReads t serial rest with
      | (s, .inr (some bss)) => (s, .inr (some (bs :: bss)))
      | r => r

/-- What attempting a sector came to. -/
inductive Sector where
  | done
  | pending
  | faulted (va : Nat) (f : PageFault) (acc : Acc)
  | ended (cause : BitVec 8)
  | poisoned
  | error (pa : Nat)
deriving DecidableEq, Repr

/-- The 32 bytes of a block of the destination at `b` that a sector writes: of parts that overlap the last in copy order
stands (12_copy.md R305, R311). -/
def blockImage (b : Nat) (parts : List (Nat × List Byte)) : List (Option Byte) :=
  (List.range 32).map fun k => parts.reverse.findSome? fun (a, bs) =>
    if (b + k + 2 ^ 64 - a) % 2 ^ 64 < bs.length then bs[(b + k + 2 ^ 64 - a) % 2 ^ 64]? else none

/-- The runs of adjacent bytes of a block, from offset `k` on. -/
def imageRuns : Nat → List (Option Byte) → List (Nat × List Byte)
  | _, [] => []
  | k, none :: r => imageRuns (k + 1) r
  | k, some x :: r => match imageRuns (k + 1) r with
    | (j, bs) :: rest => if j = k + 1 then (k, x :: bs) :: rest else (k, [x]) :: (j, bs) :: rest
    | [] => [(k, [x])]

/-- The differences that a `CPYEC` scales: of the source from the old symbol, or the source itself (12_copy.md R319). -/
def copyDelta (new old : List (List Byte)) : List (List Byte) :=
  if old.isEmpty then new else List.zipWith xorBytes new old

/-- Bytes cut at the ends of doublewords. -/
def cutDwords (a : Nat) (bs : List Byte) : List (Nat × List Byte) :=
  (List.range ((a + bs.length + 7) / 8 - a / 8)).map fun i =>
    let from_ := max a (8 * (a / 8 + i))
    (from_, (bs.drop (from_ - a)).take (8 * (a / 8 + i) + 8 - from_))

/-- A stretch of a sector is written at its home here, gaps inside a doubleword being left as they are, and the watermark
advances when it is (12_copy.md R310, R311, R313; log entry 95). -/
def State.copyRun (s : State) (t : Task) (ch va : Nat) (l : Loc) (xs : List (Option Byte)) : State :=
  let r : Request := ⟨s.who t, engineIndex t.ci, l.pa, storeOp xs, .none, some t.tag, 0, [], 0⟩
  let stamp := ((s.core t.ci).chans.toList.getD ch {}).stamp
  (imageRuns 0 xs).foldl (fun s x =>
    if s.divertsAt r then s.divert (scratchCore l.pa) (.watermark t.ci ch stamp (va + x.1) x.2.length)
    else s.modChan t.ci ch (·.advance (va + x.1) x.2.length)) (s.arrive r)

/-- Writes of a copy to a line of another package: they join the message for the line that has not left the interface yet,
or make one (13_fabric.md R324). -/
def State.sendLine (s : State) (dst : Nat) (who : Who) (ws : List (Nat × List Byte)) (op : Nat) : State :=
  let at_ := fun (xs : List (Nat × List Byte)) => xs.map fun w => lineOf w.1
  let joins := fun (m : OutMsg) => m.dst == dst && m.op == op && m.who == who && match m.msg with
    | .store x => (at_ x.writes).any (at_ ws).contains
    | _ => false
  if s.fab.out.any joins then
    { s with fab := { s.fab with out := s.fab.out.map fun m => if joins m then
        (match m.msg with
          | .store x => { m with msg := .store { x with writes := x.writes ++ ws } }
          | _ => m) else m } }
  else s.send dst who (.store ⟨who, ws⟩) .none op

/-- The runs of a sector are written, at a place given for each: to another package in one message, of which a shadow
keeps the bytes. The sums of DUAL tasks take them by doublewords (12_copy.md R310; 13_fabric.md R324; 14_containment.md
R370, R371; log entry 96). -/
def State.copyPlain (s : State) (t : Task) (c : Copy) (ch : Nat) (ws : List (Nat × Loc × List Byte)) : State :=
  let s := s.modTask t.uid fun t =>
    ws.foldl (fun t w => (cutDwords w.1 w.2.2).foldl (fun t x => t.addSum (BitVec.ofNat 64 x.1) x.2) t) t
  match ws with
  | [] => s
  | (va, l, _) :: _ =>
    if t.keeps l then
      let s := s.modTask t.uid fun t =>
        { t with overlay := ws.foldl (fun o w => addOverlay o (s.overlayKey w.2.1) w.2.2) t.overlay }
      if l.pkg = s.svc.packageId then ws.foldl (fun s w => s.modChan t.ci ch (·.advance w.1 w.2.2.length)) s else s
    else if l.pkg = s.svc.packageId then
      (joinWrites (ws.map fun w => (w.2.1.pa, w.2.2))).foldl (fun s w =>
        s.copyRun t ch (va + (w.1 - l.pa)) { l with pa := w.1 } w.2) s
    else s.sendLine l.pkg (s.who t) (ws.map fun w => (w.2.1.pa, w.2.2)) c.serial

/-- A sector of parity is sent to its home: a reduction, which a shadow does not perform. It advances no watermark, which
is the model's choice: the spec does not say whether such a reduction writes its bytes in the sense of R313 (12_copy.md
R313, R319; log entry 106). -/
def State.copyParity (s : State) (t : Task) (c : Copy) (l : Loc) (bs : List Byte) : State :=
  if t.isShadow then s
  else if l.pkg ≠ s.svc.packageId then s.send l.pkg (s.who t) (.red ⟨s.who t, l.pa, .xor bs⟩) .none c.serial
  else s.arrive ⟨s.who t, engineIndex t.ci, l.pa, .xor bs, .none, some t.tag, 0, [], 0⟩

/-- A copy waits for the capability entry of a page, which is asked for once (14_containment.md R348). -/
def State.copyAsks (s : State) (t : Task) (c : Copy) (ch page : Nat) : State :=
  if c.asked.contains page then s
  else (s.modCopy t.ci ch c.serial fun x => { x with asked := x.asked ++ [page] }).send (s.capHome t.ctxid) (s.who t)
    (.capFetch t.uid t.ctxid page)

/-- Attempts the sector that begins at byte `i` of a copy: the source is read, then the destination's page checked and the
bytes written, all in one (12_copy.md R310, R311). A sector of parity whose difference is zero is not sent (R319). -/
def State.trySector (s : State) (t : Task) (c : Copy) (ch i : Nat) : State × Sector :=
  let fail := fun (s : State) (x : Side) (acc : Acc) => match x with
    | .fault va f => (s, Sector.faulted va f acc)
    | .capv => (s, .ended causeCapv)
    | .poisoned => (s, .poisoned)
    | .error a => (s, .error a)
    | .fetch p => (s.copyAsks t c ch p, .pending)
    | _ => (s, .ended causeRange)
  let ps : List (Nat × Nat) := c.sector i
  let b := c.dstAt i / 32 * 32
  match s.copyReads t c.serial (ps.map fun (p : Nat × Nat) => (c.srcAt p.1, p.2)) with
  | (s, .inl x) => fail s x .copySrc
  | (s, .inr none) => (s, .pending)
  | (s, .inr (some new)) =>
    let old := match c.op with
      | .parity _ (some o) => s.copyReads t c.serial (ps.map fun (p : Nat × Nat) => ((o + p.1) % 2 ^ 64, p.2))
      | _ => (s, .inr (some []))
    match old with
    | (s, .inl x) => fail s x .copySrc
    | (s, .inr none) => (s, .pending)
    | (s, .inr (some ob)) =>
      let d := copyDelta new ob
      let zero := (match c.op with
        | .plain => false
        | .parity _ _ => d.all fun bs => bs.all (· == 0))
      let cap := match c.op with
        | .plain => CapRule.store
        | .parity _ _ => if zero then .none else .mark
      match s.copySide t (c.dstAt i) .copyDst cap with
      | (s, .at l) =>
        let at_ := fun (k : Nat) => { l with pa := l.pa - c.dstAt i % 32 + k }
        let runs : List (Nat × List Byte) := imageRuns 0 (blockImage b ((ps.map fun (p : Nat × Nat) => c.dstAt p.1).zip d))
        if runs.any fun (r : Nat × List Byte) => s.writeHits (at_ r.1) r.2.length then (s, .poisoned)
        else (match c.op with
          | .plain => s.copyPlain t c ch (runs.map fun (r : Nat × List Byte) => (b + r.1, at_ r.1, r.2))
          | .parity k _ =>
            if zero then s else runs.foldl (fun (s : State) (r : Nat × List Byte) => s.copyParity t c (at_ r.1) (r.2.map (gfmul k))) s, .done)
      | (s, x) => fail s x .copyDst

/-- The pages of 64 KiB that a sector reads and writes. -/
def Copy.pages (c : Copy) (i : Nat) : List Nat :=
  let ends : Nat → Nat → List Nat := fun a n => [a % 2 ^ 64 / 0x10000, (a + n - 1) % 2 ^ 64 / 0x10000]
  ((c.sector i).flatMap fun (p : Nat × Nat) => ends (c.srcAt p.1) p.2 ++ ends (c.dstAt p.1) p.2 ++ (match c.op with
    | .parity _ (some o) => ends (o + p.1) p.2
    | _ => [])).eraseDups

/-- A fault of a copy: one entry for each page of each copy; the sectors of the page wait (12_copy.md R310). A sector that
is already cancelled writes no entry (R316). -/
def State.copyFault (s : State) (t : Task) (c : Copy) (ch i va : Nat) (f : PageFault) (acc : Acc) : State :=
  if c.stopAt.isSome then s
  else
    let s := s.modCopy t.ci ch c.serial fun x => { x with held := x.held ++ [(i, c.chunk i, va / 0x10000)] }
    s.postEntry t.die
      { t.faultEntry (.copy t.ci ch c.serial) acc (BitVec.ofNat 64 va) f.cause f with ch := BitVec.ofNat 3 ch }

/-- A copy that has written everything leaves its channel and the `cp` count, once its remote writes have left the
interface (12_copy.md R310, R316). -/
def State.finishCopy (s : State) (ci ch : Nat) : State :=
  match ((s.core ci).chans.toList.getD ch {}).copies with
  | [] => s
  | c :: _ =>
    if c.nextSector.isSome || !c.held.isEmpty || !c.again.isEmpty || s.fab.out.any (fun m => m.op == c.serial) then s
    else ((s.modChan ci ch fun x => { x with copies := x.copies.drop 1 }).retire c.uid .cp).dropReads
      (tokenCopy c.serial)

/-- Moves one sector of the copy at the head of a channel; one on a page that waits for service waits with it
(12_copy.md R305, R306, R310). -/
def State.moveSector (s : State) (ci ch : Nat) : State :=
  match ((s.core ci).chans.toList.getD ch {}).copies with
  | [] => s
  | c :: _ =>
    match s.task? c.uid with
    | none => s.modChan ci ch fun x => { x with copies := x.copies.drop 1 }
    | some t =>
      let next := match c.again with
        | (i, _) :: _ => some (i, true)
        | [] => c.nextSector.map fun i => (i, false)
      match next with
      | none => s.finishCopy ci ch
      | some (i, redo) =>
        let past := fun (s : State) => s.modCopy ci ch c.serial fun x =>
          if redo then { x with again := x.again.drop 1 }
          else { x with pos := i + c.chunk i, restart := false, begun := true }
        if c.restart && !c.held.isEmpty then s
        else match c.held.find? fun h => (c.pages i).contains h.2.2 with
          | some h => (past s).modCopy ci ch c.serial fun x => { x with held := x.held ++ [(i, c.chunk i, h.2.2)] }
          | none =>
            match s.trySector t c ch i with
            | (s, .pending) => s
            | (s, .ended cause) => s.softwareError t cause
            | (s, .poisoned) => s.hwerrTask t
            | (s, .error a) => s.lineError a
            | (s, .faulted va f acc) => ((past s).copyFault t c ch i va f acc).finishCopy ci ch
            | (s, .done) => (past s).finishCopy ci ch

/-- Channels of an engine: of the cores of the quads that it serves, eight each (12_copy.md R305). -/
def engineChannels (d e : Nat) : List (Nat × Nat) :=
  ((List.range 16).flatMap fun i => (List.range 8).map fun ch =>
    (d * 256 + (e + 16 * (i / 4)) * 4 + i % 4, ch))

/-- Does the copy at the head of a channel have a sector to move? -/
def State.movable (s : State) (ci ch : Nat) : Bool :=
  match ((s.core ci).chans.toList.getD ch {}).copies with
  | [] => false
  | c :: _ => s.enginesRun ci && !(c.restart && !c.held.isEmpty)
    && (c.nextSector.isSome || !c.again.isEmpty || c.held.isEmpty)

/-- One turn of an engine's rotation: the next channel with a sector moves it. -/
def State.engineTurn (s : State) (d e : Nat) : State :=
  let cs := engineChannels d e
  let at_ := Sparse.read 0 (s.die d).engineNext e
  let order := (List.range cs.length).map fun i => (at_ + i) % cs.length
  match order.find? fun i => let c := cs.getD i (0, 0); s.movable c.1 c.2 with
  | none => s
  | some i =>
    let c := cs.getD i (0, 0)
    (s.modDie d fun x => { x with engineNext := Sparse.write 0 x.engineNext e ((i + 1) % cs.length) }).moveSector c.1 c.2

/-- COPY_ENGINE_CYCLE: one 64-byte unit, two sectors (12_copy.md R305). -/
def execCopyEngineCycle (die engine : Nat) (s : State) : Out State :=
  .next ((s.engineTurn die engine).engineTurn die engine)

/-- Service of a page of a copy: its sectors are made again (12_copy.md R310, R317). -/
def State.retryCopy (s : State) (ci ch serial page : Nat) : State :=
  s.modCopy ci ch serial fun c =>
    let (mine, rest) := c.held.partition fun h => h.2.2 == page
    { c with held := rest, again := if c.restart && c.op == .plain then c.again else c.again ++ mine.map fun h => (h.1, h.2.1) }

/-- A copy with sectors that wait for service stops at its resume point: the first sector not yet written, or the
watermark for a `CPY` onto a bound channel whose destination begins at its base; of the two the earlier, where an earlier
copy has brought the watermark further, which is the model's choice. A copy of parity makes again only what waits, since
its reductions are delivered once (12_copy.md R317, R319; log entry 107). -/
def CopyChan.stop (x : CopyChan) (c : Copy) : Copy :=
  if c.held.isEmpty then c
  else if c.op ≠ .plain then { c with restart := true }
  else
    let first := (c.held.map (·.1) ++ c.again.map (·.1)).foldl min c.pos
    let pos := match x.bound with
      | some (b, _) =>
        if c.op = .plain ∧ c.cnt1 = 1 ∧ c.cnt2 = 1 ∧ c.dst = b then min first (x.wm - b) else first
      | none => first
    { c with pos := pos, again := [], restart := true }

/-- Stops the copies of a core that have sectors waiting for service; what they have read of other packages is read again
(12_copy.md R317). -/
def State.stopCopies (s : State) (ci : Nat) : State :=
  let stopped := (s.core ci).chans.toList.flatMap fun x => (x.copies.filter fun c => !c.held.isEmpty).map (·.serial)
  stopped.foldl (fun s n => s.dropReads (tokenCopy n))
    (s.modCore ci fun c => { c with chans := c.chans.map fun x => { x with copies := x.copies.map x.stop } })

/-- Pushes a copy onto its channel, once every check has passed (12_copy.md R306, R309). -/
def pushCopy (s : State) (t : Task) (ch : Reg3) (c : Copy) : Out State :=
  let rows := s.openRows t c c.dst c.dstr1 c.dstr2 && s.openRows t c c.src c.sstr1 c.sstr2 && match c.op with
    | .parity _ (some o) => s.openSpan t spanFuel o c.len0
    | _ => true
  if !rows then .next (s.softwareError t causeRange)
  else if 16 ≤ (s.chan t.ci ch).copies.length then .next (s.stall t .none)
  else withRoom s t .cp <|
    let s := s.tick.modChan t.ci ch.toNat fun x => { x with copies := x.copies ++ [{ c with serial := s.clock + 1 }] }
    complete s (t.count .cp)

/-- `CPY` (12_copy.md R309). -/
def execCpy (ch : Reg3) (a b c : GReg) (s : State) : Out State := withTask s fun t =>
  let len := (t.greg c).toNat
  if len = 0 ∨ 2 ^ 40 < len then trap s t causeIllegal
  else pushCopy s t ch { serial := 0, uid := t.uid, op := .plain, dst := (t.greg a).toNat, src := (t.greg b).toNat,
                         len0 := len }

/-- `CPY2D` (12_copy.md R308, R309). -/
def execCpy2d (ch : Reg3) (a b c : GReg) (s : State) : Out State := withTask s fun t =>
  let desc := t.greg c
  if desc.toNat % 64 ≠ 0 then trap s t causeAlign
  else withBytes s t .record desc 8 fun s bs =>
    let n := leNat bs
    let len := field n 0 32
    let cnt1 := field n 32 16
    let cnt2 := field n 48 16
    if field n 320 192 ≠ 0 ∨ len = 0 ∨ cnt1 = 0 ∨ cnt2 = 0 ∨ 2 ^ 40 < len * cnt1 * cnt2 then trap s t causeIllegal
    else pushCopy s t ch
      { serial := 0, uid := t.uid, op := .plain, dst := (t.greg a).toNat, src := (t.greg b).toNat, len0 := len,
        cnt1 := cnt1, cnt2 := cnt2, sstr1 := toSigned 64 (field n 64 64), sstr2 := toSigned 64 (field n 128 64),
        dstr1 := toSigned 64 (field n 192 64), dstr2 := toSigned 64 (field n 256 64) }

/-- `CPYEC` (12_copy.md R318, R319). -/
def execCpyec (ch : Reg3) (a b c : GReg) (s : State) : Out State := withTask s fun t =>
  let desc := t.greg c
  let p := (t.greg a).toNat
  let n := (t.greg b).toNat
  if desc.toNat % 32 ≠ 0 then trap s t causeAlign
  else withBytes s t .record desc 4 fun s bs =>
    let x := leNat bs
    let len := field x 0 40
    let old := field x 64 64
    let delta := x.testBit 48
    if p % 32 ≠ 0 ∨ n % 32 ≠ 0 ∨ old % 32 ≠ 0 then trap s t causeAlign
    else if field x 128 128 ≠ 0 ∨ field x 49 15 ≠ 0 ∨ len = 0 ∨ len % 32 ≠ 0 ∨ (!delta ∧ old ≠ 0) then
      trap s t causeIllegal
    else pushCopy s t ch
      { serial := 0, uid := t.uid, op := .parity (BitVec.ofNat 8 (field x 40 8)) (if delta then some old else none),
        dst := p, src := n, len0 := len }

/-- `CPYBIND` (12_copy.md R312). -/
def execCpybind (ch : Reg3) (a b : GReg) (s : State) : Out State := withTask s fun t =>
  let base := (t.greg a).toNat
  let len := (t.greg b).toNat
  if len % 32 ≠ 0 ∨ (len ≠ 0 ∧ base % 32 ≠ 0) then trap s t causeAlign
  else if len ≠ 0 ∧ (base = 0 ∨ 2 ^ 40 < len ∨ !canonical (BitVec.ofNat 64 (base + len - 1))) then
    trap s t causeIllegal
  else if !(s.chan t.ci ch).copies.isEmpty then .next (s.stall t .none)
  else
    let s := s.tick
    complete (s.modChan t.ci ch.toNat fun x =>
    { x with bound := if len = 0 then none else some (base, len), stamp := s.clock, wm := base, written := [] }) t

/-- `CPYWM` (12_copy.md R315). -/
def execCpywm (ch : Reg3) (c : GReg) (s : State) : Out State := withTask s fun t =>
  let x := s.chan t.ci ch
  complete s (t.setG c (match x.bound with
    | some _ => BitVec.ofNat 64 x.wm
    | none => 0))

/-- Cancels the copies of a channel: those not begun leave it with their counts; one that has begun ends where it stands,
its faulted sectors dropped, and leaves once what it has written has left the interface (12_copy.md R316; log entry 97). -/
def State.cancelCopies (s : State) (ci ch : Nat) : State :=
  let cs := ((s.core ci).chans.toList.getD ch {}).copies
  let begun := cs.take 1 |>.filter fun c => c.begun || c.stopAt.isSome
  let rest := if begun.isEmpty then cs else cs.drop 1
  let s := s.voidEntries fun
    | .copy k c _ => k == ci && c == ch
    | _ => false
  let s := s.modChan ci ch ({ · with
    copies := begun.map fun c => { c with stopAt := some (c.stopAt.getD c.pos), held := [], again := [], restart := false } })
  (rest.foldl (fun s c => (s.retire c.uid .cp).dropReads (tokenCopy c.serial)) s).finishCopy ci ch

/-- `CPYCAN`: issue stalls until the copy that it cancelled has gone (12_copy.md R316). -/
def execCpycan (ch : Reg3) (s : State) : Out State := withTask s fun t =>
  let there := fun (s : State) (n : Nat) => (s.chan t.ci ch).copies.any (·.serial == n)
  match t.wait with
  | .cancelled _ n => if there s n then .next (s.stall t t.wait) else complete s t
  | _ =>
    let s := s.cancelCopies t.ci ch.toNat
    match s.task? t.uid, (s.chan t.ci ch).copies with
    | some t, [] => complete s t
    | some t, c :: _ => .next (s.stall t (.cancelled ch.toNat c.serial))
    | none, _ => .next s

end Sys2Proof.Machine
end

