-- ==== Sys2Proof/Machine/Window.lean ====
section
/-! DEFINITION. Device space: partition windows, context blocks, the fault blocks and the service window, the service of
fault entries, and partition reset (16_system.md R411 to R419, 15_faults.md R385 to R389). -/

namespace Sys2Proof.Machine

/-- What a physical address of device space names (R411, R412, R415). -/
inductive Register where
  | pctl | pqos | qarea | pqarea | savearea | spillarea | domarea
  | fbnext (die dword : Nat)
  | fbsvc (die : Nat)
  | context (n offset : Nat)
  | spallot (core : Nat)
  | mrallot (die half : Nat)
  | evallot (quad half : Nat)
  | channels (dword : Nat)
  | hosts (dword : Nat)
  | hotbase | chstate | holdspill | mode
deriving DecidableEq, Repr

/-- The register at an offset of a partition window (R412). -/
def windowRegister (o : Nat) : Option Register :=
  let d := o / 0x40000
  let b := o % 0x40000
  if d < 8 ∧ (b = 0x10 ∨ b = 0x18 ∨ b = 0x20 ∨ b = 0x28) then some (.fbnext d ((b - 0x10) / 8))
  else if d < 8 ∧ b = 0x30 then some (.fbsvc d)
  else if 0x1000 ≤ o ∧ o < 0x1400 ∧ o % 0x100 < 0x80 then some (.context ((o - 0x1000) / 0x100) (o % 0x100))
  else match o with
    | 0x00 => some .pctl
    | 0x08 => some .pqos
    | 0x40 => some .qarea
    | 0x48 => some .pqarea
    | 0x50 => some .savearea
    | 0x58 => some .spillarea
    | 0x60 => some .domarea
    | _ => none

/-- The register at an offset of the package service window (R415). -/
def serviceRegister (o : Nat) : Option Register :=
  if o < 0x4000 then some (.spallot (o / 8))
  else if 0x10000 ≤ o ∧ o < 0x10080 then some (.mrallot ((o - 0x10000) / 16) (o / 8 % 2))
  else if 0x20000 ≤ o ∧ o < 0x22000 then some (.evallot ((o - 0x20000) / 16) (o / 8 % 2))
  else if 0x30000 ≤ o ∧ o < 0x31000 then some (.channels ((o - 0x30000) / 8))
  else if 0x40000 ≤ o ∧ o < 0x40020 then some (.hosts ((o - 0x40000) / 8))
  else match o with
    | 0x50000 => some .hotbase
    | 0x50008 => some .chstate
    | 0x50010 => some .holdspill
    | 0x50018 => some .mode
    | _ => none

/-- Who reaches device space: a partition, by a task or by its function or host cores (R411, R412). -/
structure Accessor where
  part : Nat
  task : Bool
deriving DecidableEq, Repr

/-- The partition of the window and the register that an accessor reaches at an address, if it may: registers are reached
naturally aligned (R411, R412). -/
def reachable (by_ : Accessor) (pa : Nat) : Option (Nat × Register) :=
  if pa % 8 ≠ 0 then none
  else if 0x1E000000000 ≤ pa ∧ pa < 0x1E400000000 then
    let p := (pa - 0x1E000000000) / 0x40000000
    if by_.part = p ∨ by_.part = 0 then (windowRegister (pa % 0x40000000)).map fun r => (p, r) else none
  else if 0x1F000000000 ≤ pa ∧ pa < 0x1F100000000 ∧ by_.part = 0 ∧ !by_.task then
    (serviceRegister (pa - 0x1F000000000)).map fun r => (0, r)
  else none

/-- LANES of an entry (15_faults.md R386). -/
def FaultTarget.laneCount : FaultTarget → Nat
  | .lanes _ ls => ls.length - 1
  | _ => 0

/-- The 32 bytes of an entry (15_faults.md R386). -/
def FaultEntry.bits (e : FaultEntry) (index : Nat) : Nat :=
  (e.vaddr ++ e.record).toNat * 2 ^ 128 + e.ctxid * 2 ^ 96 + e.sid * 2 ^ 81 + e.part * 2 ^ 77 + index * 2 ^ 65
    + e.cause.toNat * 2 ^ 56 + e.kind.toNat * 2 ^ 52 + e.acc.toNat * 2 ^ 48 + bit e.unrep * 2 ^ 47
    + bit e.void * 2 ^ 46 + e.ch.toNat * 2 ^ 43 + bit e.final * 2 ^ 42 + e.step.toNat * 2 ^ 38
    + e.target.laneCount * 2 ^ 32 + e.why.toNat * 2 ^ 24 + e.level.toNat * 2 ^ 22 + e.note.toNat

/-- The oldest of some entries. -/
def oldestEntry : List (Nat × FaultEntry) → Option (Nat × FaultEntry)
  | [] => none
  | x :: xs =>
    match oldestEntry xs with
    | none => some x
    | some y => some (if y.2.age < x.2.age then y else x)

/-- A load of FBNEXT doubleword 0 takes and latches the oldest unread entry of a partition on a die, or latches zeros
(15_faults.md R385). -/
def State.fbTake (s : State) (p d : Nat) : State :=
  let x := s.die d
  match oldestEntry (x.entries.filter fun e => e.2.part == p && !e.2.read) with
  | none => s.setDie d { x with latch := Sparse.write [] x.latch p [] }
  | some (i, e) => s.setDie d { x with
      latch := Sparse.write [] x.latch p (leBytes 32 (e.bits i))
      entries := x.entries.map fun (j, f) => (j, if j = i then { f with read := true } else f) }

/-- A doubleword of the latched entry. -/
def State.latched (s : State) (p d i : Nat) : Word :=
  BitVec.ofNat 64 (field (leNat (Sparse.read [] (s.die d).latch p)) (64 * i) 64)

/-- A register of a context block (R418). -/
def Ctx.reg (c : Ctx) : Nat → Word
  | 0x00 => c.lqbase
  | 0x08 => c.lqsize
  | 0x10 => c.lqtail
  | 0x18 => c.lqhead
  | 0x20 => c.cqbase
  | 0x28 => c.cqsize
  | 0x30 => c.cqhead
  | 0x38 => c.cqtail
  | 0x40 => c.ptroot
  | 0x48 => c.caproot
  | 0x50 => c.stkbase
  | 0x58 => c.stklen
  | 0x60 => c.arbase
  | 0x68 => c.arlen
  | 0x70 => c.alloccfg
  | 0x78 => c.perm
  | _ => 0

/-- Half of a 128-bit register. -/
def halfOf (x : BitVec 128) (h : Nat) : Word := x.extractLsb' (64 * h) 64
/-- A 128-bit register with one half replaced. -/
def withHalf (x : BitVec 128) (h : Nat) (v : Word) : BitVec 128 :=
  if h = 0 then x.extractLsb' 64 64 ++ v else v ++ x.extractLsb' 0 64

/-- Eight allotment bytes from a table, as one doubleword (R412, R415). -/
def eightBytes (t : Table Byte) (j : Nat) : Word :=
  BitVec.ofNat 64 (leNat ((List.range 8).map fun i => Sparse.read 0 t (8 * j + i)))

/-- The value of a register for a load (R412, R415, R418); write-only registers read 0. -/
def State.registerValue (s : State) (p : Nat) : Register → Word
  | .pctl => BitVec.ofNat 64 (bit (s.part p).resetting + 2 * bit (s.part p).en)
  | .pqos => (s.part p).pqos
  | .qarea => (s.part p).qarea
  | .pqarea => (s.part p).pqarea
  | .savearea => (s.part p).savearea
  | .spillarea => (s.part p).spillarea
  | .domarea => (s.part p).domarea
  | .fbnext d i => s.latched p d i
  | .fbsvc _ => 0
  | .context n o => (s.ctx (4 * p + n)).reg o
  | .spallot c => (s.core c).spallot
  | .mrallot d h => halfOf (s.die d).mrallot h
  | .evallot q h => halfOf (s.quad q).evallot h
  | .channels j => eightBytes s.fab.allot j
  | .hosts j => eightBytes s.svc.hostAllot j
  | .hotbase => s.svc.hotbase
  | .chstate => s.svc.chstate
  | .holdspill => s.svc.holdspill
  | .mode => BitVec.ofNat 64 (bit s.svc.selfNext)

/-- A load of device space (R411, R412): the value, or 0 with MISUSE counted. -/
def State.deviceLoad (s : State) (by_ : Accessor) (pa n : Nat) : State × Word :=
  match reachable by_ pa with
  | some (p, .fbnext d 0) => if n = 8 then let s := s.fbTake p d; (s, s.latched p d 0) else (s.countMisuse, 0)
  | some (p, r) => if n = 8 then (s, s.registerValue p r) else (s.countMisuse, 0)
  | none => (s.countMisuse, 0)

/-- A queued vector or matrix instruction has one entry less to wait for. -/
def serviceQueue (s : State) (ci serial : Nat) (matrix : Bool) : State :=
  s.modCore ci fun c =>
    if matrix then { c with mq := c.mq.map fun e => if e.serial = serial then { e with pending := e.pending - 1 } else e }
    else { c with vq := c.vq.map fun e => if e.serial = serial then { e with pending := e.pending - 1 } else e }

/-- An entry of a die's queue has one fault entry less to wait for. -/
def EntryState.serviced : EntryState → EntryState
  | .waiting (n + 2) => .waiting (n + 1)
  | .waiting _ => .queued
  | x => x

/-- RETRY of what an entry stands for (15_faults.md R387). -/
def State.retryTarget (s : State) (e : FaultEntry) : State :=
  match e.target with
  | .task u =>
    match s.task? u with
    | some t => if t.wait = .service then s.wake t else s
    | none => s
  | .lanes u ls => s.retryLanes u ls
  | .vector c n => serviceQueue s c n false
  | .matrix c n => serviceQueue s c n true
  | .copy c ch n => s.retryCopy c ch n (e.vaddr.toNat / 0x10000)
  | .lease d a | .record d a => s.modDie d fun x =>
      { x with queue := x.queue.map fun q => if q.age = a then { q with state := q.state.serviced } else q }
  | .launch id => s.modLaunch e.part id fun l => { l with held := l.held - 1 }
  | .notice => s

/-- The task that a fault belongs to (15_faults.md R387). -/
def State.faultTask (s : State) : FaultTarget → Option Task
  | .task u | .lanes u _ => s.task? u
  | .vector c n => ((s.core c).vq.find? (·.serial == n)).bind fun e => (s.task? e.uid).or e.issuer
  | .matrix c n => ((s.core c).mq.find? (·.serial == n)).bind fun e => s.task? e.uid
  | .copy c ch n => ((((s.core c).chans.toList.getD ch {}).copies).find? (·.serial == n)).bind fun x => s.task? x.uid
  | _ => none

/-- The launch of a lease fault. -/
def State.faultLaunch (s : State) (e : FaultEntry) : Option (BitVec 32) :=
  match e.target with
  | .lease d a | .record d a => ((s.die d).queue.find? (·.age == a)).map (·.launch)
  | .launch id => some id
  | _ => none

/-- KILL of what an entry stands for; an entry with the lease mark, be it a bound task's, ends the launch with LEASE
(15_faults.md R387; 09_memory.md R249; log entry 99). -/
def State.killTarget (s : State) (e : FaultEntry) : State :=
  match s.faultTask e.target with
  | some t => if e.kind = 1 then s.failLaunch t.part t.launchid 6 0 0 else s.softwareError t e.cause
  | none =>
    match s.faultLaunch e with
    | some id => s.failLaunch e.part id 6 0 0
    | none => s

/-- As entries free, the oldest waiting fault that may be written is written with UNREP set (UNREPORTED_FAULT_WRITE,
15_faults.md R388). -/
def State.writeUnreported (s : State) (d : Nat) : State :=
  let x := s.die d
  match x.unreported.find? fun e => x.mayWrite e.part with
  | none => s
  | some e =>
    let s := (s.setDie d { x with unreported := x.unreported.erase e }).markUnreported e.target
    (s.tick).writeEntry d { e with unrep := true, age := s.clock }

/-- Writes waiting faults while entries are free. -/
def State.drainUnreported (s : State) (d : Nat) : Nat → State
  | 0 => s
  | n + 1 => (s.writeUnreported d).drainUnreported d n

/-- Service of an entry of a partition: it is freed, and unless VOID its action takes place; what is retried is
translated from the start of the walk (15_faults.md R387, 09_memory.md R250). -/
def State.serviceEntry (s : State) (p d index : Nat) (kill : Bool) : State :=
  match (s.die d).entries.find? fun e => e.1 == index && e.2.part == p with
  | none => s.countMisuse
  | some (i, e) =>
    let s := s.modDie d fun x => { x with entries := Sparse.erase x.entries i }
    if e.void || e.kind = 2 then s else if kill then s.killTarget e
    else (s.forget (· == e.ctxid) (some (e.vaddr.toNat / 0x10000))).retryTarget e

/-- A write of FBSVC by a partition. Its bits 63:17, of which the spec says nothing, are ignored, which is the model's
choice (15_faults.md R385, R387; 16_system.md R419; log entry 105). -/
def State.writeFbsvc (s : State) (p d : Nat) (v : Word) : State :=
  if field v.toNat 12 4 ≠ p then s.countMisuse else s.serviceEntry p d (field v.toNat 0 12) (v.getLsbD 16)

/-- Is an area's value in range: 64 KiB aligned base in bits 40:16, and a logarithm in its range (R412, R419)? -/
def areaValid (lo hi : Nat) (v : Nat) : Bool :=
  v < 2 ^ 41 && field v 5 11 == 0 && (if hi = 0 then field v 0 5 == 0 else lo ≤ field v 0 5 && field v 0 5 ≤ hi)

/-- Is a value in the stated range of a context register (R418, R419)? -/
def contextValid (o : Nat) (v : Nat) : Bool :=
  match o with
  | 0x00 | 0x20 => v % 64 == 0
  | 0x08 | 0x28 => v == 0 || (4 ≤ v && v ≤ 15)
  | 0x10 | 0x30 => v < 2 ^ 32
  | 0x40 => v % 0x10000 == 0 && v < 2 ^ 41
  | 0x48 => field v 0 16 == 0 && field v 41 7 == 0 && field v 58 6 == 0
  | 0x50 | 0x58 | 0x60 | 0x68 => v % 64 == 0
  | 0x70 => 12 ≤ v && v ≤ 24
  | 0x78 => v < 8
  | _ => false

/-- A context block with a register replaced (R418). -/
def Ctx.setReg (c : Ctx) (o : Nat) (v : Word) : Ctx :=
  match o with
  | 0x00 => { c with lqbase := v }
  | 0x08 => { c with lqsize := v }
  | 0x10 => { c with lqtail := v }
  | 0x20 => { c with cqbase := v }
  | 0x28 => { c with cqsize := v }
  | 0x30 => { c with cqhead := v }
  | 0x40 => { c with ptroot := v }
  | 0x48 => { c with caproot := v }
  | 0x50 => { c with stkbase := v }
  | 0x58 => { c with stklen := v }
  | 0x60 => { c with arbase := v }
  | 0x68 => { c with arlen := v }
  | 0x70 => { c with alloccfg := v }
  | 0x78 => { c with perm := v }
  | _ => c

/-- Records that wait in a launch queue (R418). -/
def Ctx.waiting (c : Ctx) : Nat := (c.lqtail.toNat + 2 ^ 32 - c.lqhead.toNat) % 2 ^ 32

/-- Has the host put more records into a launch queue than it holds (R420)? -/
def Ctx.overrun (c : Ctx) : Bool := c.lqsize != 0 && 2 ^ c.lqsize.toNat < c.waiting

/-- A write of a register of a context block; LQHEAD and CQTAIL are read-only. A write of LQTAIL that puts more records
into the queue than it holds, and a write of LQSIZE by which it holds fewer than are in it, are counted (R418 to
R420). -/
def State.writeContext (s : State) (p n o : Nat) (v : Word) : State :=
  if o = 0x18 ∨ o = 0x38 then s
  else if (s.part p).en && o != 0x10 && o != 0x30 then s.countMisuse
  else if !contextValid o v.toNat then s.countMisuse
  else
    let before := (s.ctx (4 * p + n)).overrun
    let s := s.modCtx (4 * p + n) (·.setReg o v)
    if (o = 0x10 || !before) && (s.ctx (4 * p + n)).overrun then s.countMisuse else s

/-- Does a context fit its arena to its slices (R419)? -/
def Ctx.arenaFits (c : Ctx) : Bool :=
  c.ptroot == 0 || c.arlen == 0 ||
    (12 ≤ c.alloccfg.toNat && c.alloccfg.toNat ≤ 24 && c.arlen.toNat % (4 * 2 ^ c.alloccfg.toNat) == 0)

/-- PCTL.EN is written (PCTL_ENABLE, R412, R419). -/
def State.writeEnable (s : State) (p : Nat) (en : Bool) : State :=
  if en && !((List.range 4).all fun n => (s.ctx (4 * p + n)).arenaFits) then s.countMisuse
  else s.modPart p ({ · with en := en })

/-- Is a byte of memory in a scratchpad segment allotted to a partition (07_scratchpad.md R187)? -/
def State.inSegment (s : State) (p a : Nat) : Bool :=
  scratchBase ≤ a && s.segmentPart (scratchCore a) (a % scratchSize) == p

/-- Step 5 of a partition reset: scratchpad segments, to which every accepted write has been made, matrix contexts, event
lines, explicit barriers (R414; 07_scratchpad.md R188). -/
def State.resetUnits (s : State) (p : Nat) : State :=
  let s := s.serveEverything
  { s with
    mem := s.mem.filter fun c => !s.inSegment p c.1
    flips := s.flips.filter fun f => !s.inSegment p (8 * f.1)
    poison := s.poison.filter fun l => !s.inSegment p (64 * l)
    tags := s.tags.filter fun l => !s.inSegment p (64 * l.1)
    cores := s.cores.map fun (k, c) => (k, { c with
      mctx := if c.mctx.writer = some p then {} else c.mctx
      barriers := c.barriers.filter fun b => b.1 / 64 != p })
    quads := s.quads.map fun (k, q) => (k, { q with
      lines := Vector.ofFn fun i => if field q.evallot.toNat (4 * i.val) 4 = p then 0 else q.lines[i]
      barriers := q.barriers.filter fun b => field q.evallot.toNat (4 * b.1) 4 != p
      ran := q.ran.filter fun w => w.ctxid / 4 != p })
    dies := s.dies.map fun (k, d) => (k, { d with
      barriers := d.barriers.filter fun b => b.1 / 64 != p
      vtime := Sparse.erase d.vtime p }) }

/-- Channels allotted to a partition lose their state (13_fabric.md R329, R345). -/
def State.clearChannel (s : State) (ch : Nat) : State :=
  State.refillHold { s with fab := { s.fab with
    senders := s.fab.senders.filter fun e => e.1 / 1024 != ch
    receivers := s.fab.receivers.filter fun e => e.1 / 1024 != ch
    hold := s.fab.hold.filter fun h => h.flag.stamp.ch != ch
    spill := s.fab.spill.filter fun h => h.flag.stamp.ch != ch } }

/-- Step 3 of a partition reset (R414, 13_fabric.md R345). -/
def State.resetChannels (s : State) (p : Nat) : State :=
  let s := ((s.fab.allot.filter fun e => s.allotted e.1 == some p).map (·.1)).foldl (fun s ch => s.clearChannel ch) s
  { s.modPart p (fun x => { x with epoch := x.epoch + 1, barriers := [] }) with
    fab := { s.fab with
      opened := s.fab.opened.filter fun o => o.2.ctxid / 4 != p, stray := s.fab.stray.filter (·.2 != p) }
    packets := s.packets.filter fun k => k.who.part != p
    podArrivals := s.podArrivals.filter fun a => a.2.part != p
    podSent := s.podSent.filter fun a => a.part != p }

/-- Cores that hold tasks of a partition in their slots. -/
def State.coresWith (s : State) (p : Nat) : List Nat :=
  ((s.tasks.filter fun t => !t.spilled && t.part == p).map (·.ci)).eraseDups

/-- Step 2 of a partition reset: its tasks, queue entries and diverted messages are discarded. What its channels hold until
a RESYNC is acknowledged waits no longer: the reset wins (R414; 05_tasks.md R156; 13_fabric.md R347). -/
def State.discardPartition (s : State) (p : Nat) : State :=
  let s := (s.discardTasks fun t => t.part == p).discardEntries fun e => e.ctxid / 4 == p
  let s : State := { s with
    cores := s.cores.map fun (k, c) => (k, { c with
      sends := c.sends.filter fun e => e.who.part != p
      diverted := c.diverted.filter fun
        | .send e => e.who.part != p
        | .write r => r.who.part != p
        | _ => true })
    fab := { s.fab with senders := s.fab.senders.map fun (k, x) =>
      (k, if s.allotted (k / 1024) = some p then { x with resync := false } else x) } }
  s.modPart p ({ · with resetStep := 1 })

/-- Have the `fb` operations of a partition left the fabric interface (13_fabric.md R345)? -/
def State.fbLeft (s : State) (p : Nat) : Bool :=
  s.fab.out.all (fun m => m.who.part != p || m.cls != .fb) && s.cores.all fun x => x.2.vq.all fun e =>
    e.part != p || e.cls != .fb

/-- The buffered stores and reductions of a partition's tasks, whose tasks are discarded, are made (R414;
14_containment.md R366). -/
def State.flushPartition (s : State) (p : Nat) : State :=
  let mine := s.requests.filter fun r => r.who.part == p
  mine.foldl (fun s r => s.accept r) { s with requests := s.requests.filter fun r => !mine.contains r }

/-- Steps 3 to 7 of a partition reset. The RESET records are posted in the order of admission: for launch ids that have
wrapped, so that 0xFFFFFFFF goes before 1, that is the model's choice of the launch-id order (R414; 01_machine.md R31; log
entry 103). -/
def State.clearPartition (s : State) (p : Nat) : State :=
  let s := s.flushPartition p
  let s := (s.discardEntries fun e => e.ctxid / 4 == p).resetChannels p
  let s := s.discardDoms fun d => d.ctxid / 4 == p
  let s : State := { s with dies := s.dies.map fun (k, d) => (k, { d with
      entries := d.entries.filter fun e => e.2.part != p
      unreported := d.unreported.filter fun e => e.part != p }) }
  let s := s.resetUnits p
  let s := (s.launches.filter (·.part == p)).foldl (fun (s : State) l => (s.postEvent l 4 5 0 0).endLaunch l) s
  let s : State := { s with dies := s.dies.map fun (k, d) => (k, { d with
      vtime := Sparse.write 0 d.vtime p 0, bindings := Sparse.write 0 d.bindings p 0 }) }
  s.modPart p ({ · with launchNext := 1, resetStep := 2 })

/-- A partition reset goes as far as it can: step 2 once its cores are pre-empted, steps 3 to 7 once its `fb` operations
have left (R414). -/
def State.advanceReset (s : State) (p : Nat) : State :=
  let s := if (s.part p).resetting && (s.part p).resetStep == 0 && (s.coresWith p).all (fun ci => (s.core ci).preempted)
    then s.discardPartition p else s
  if (s.part p).resetting && (s.part p).resetStep == 1 && s.fbLeft p then s.clearPartition p else s

/-- A partition reset starts: step 1, and the cores that hold its tasks begin to be pre-empted (R414; 05_tasks.md R156).
It ends when its FAILED records are posted and its messages have left (`settleReset`). A second request meanwhile adds
nothing (R432). -/
def State.resetPartition (s : State) (p : Nat) : State :=
  if (s.part p).resetting then s
  else
    let s := s.modPart p ({ · with en := false, resetting := true, resetStep := 0 })
    let s := (s.discardTasks fun t => t.spilled && t.part == p).discardEntries fun e => e.ctxid / 4 == p
    ((s.coresWith p).foldl (fun s ci => s.stopCore ci [] true) s).advanceReset p

/-- A partition reset goes on; step 8, once its records are posted and its messages have left (R414, 13_fabric.md
R345). -/
def State.settleReset (s : State) (p : Nat) : State :=
  let s := s.advanceReset p
  if (s.part p).resetting && (s.part p).resetStep == 2 && s.posts.all (·.part != p) && s.fab.out.all (·.who.part != p)
      && s.requests.all (·.who.part != p) then (s.modPart p ({ · with resetting := false, resetStep := 0 })).raiseVector p 3
  else s

/-- A write of PCTL (R412, R419). -/
def State.writePctl (s : State) (p : Nat) (v : Word) : State :=
  if 4 ≤ v.toNat then s.countMisuse
  else if v.getLsbD 0 then s.resetPartition p
  else s.writeEnable p (v.getLsbD 1)

/-- A write of PQOS, which only partition 0 makes (R412, R413). -/
def State.writePqos (s : State) (writer p : Nat) (v : Word) : State :=
  if writer ≠ 0 ∨ 2 ^ 32 ≤ v.toNat then s.countMisuse else s.modPart p ({ · with pqos := v })

/-- A write of a channel's allotment byte, which zeroes its state (CHANNEL_ALLOTMENT_WRITE, R415, 13_fabric.md R329). -/
def State.writeAllotment (s : State) (id : Nat) (v : Byte) : State :=
  if 0xFFE ≤ id then s
  else
  let s := s.clearChannel id
  { s with fab := { s.fab with
    allot := Sparse.write 0 s.fab.allot id v, opened := s.fab.opened.filter fun o => o.1 != id } }

/-- An area register, writable while EN = 0 (R412, R419). -/
def State.writeArea (s : State) (p lo hi : Nat) (v : Word) (f : Part → Part) : State :=
  if (s.part p).en || !areaValid lo hi v.toNat then s.countMisuse
  else s.modPart p fun x => { f x with noted := [] }

/-- A write of a register. MODE is written only by the management port: a write through the window is ignored (R412, R415,
R419, R423; log entry 104). -/
def State.writeRegister (s : State) (writer p : Nat) (r : Register) (v : Word) : State :=
  match r with
  | .pctl => s.writePctl p v
  | .pqos => s.writePqos writer p v
  | .qarea => s.writeArea p 10 20 v ({ · with qarea := v })
  | .pqarea => s.writeArea p 8 20 v ({ · with pqarea := v })
  | .savearea => s.writeArea p 0 0 v ({ · with savearea := v })
  | .spillarea => s.writeArea p 6 20 v ({ · with spillarea := v })
  | .domarea => s.writeArea p 0 0 v ({ · with domarea := v })
  | .fbnext _ _ => s
  | .fbsvc d => s.writeFbsvc p d v
  | .context n o => s.writeContext p n o v
  | .spallot c => s.modCore c ({ · with spallot := v })
  | .mrallot d h => s.modDie d fun x => { x with mrallot := withHalf x.mrallot h v }
  | .evallot q h => s.modQuad q fun x => { x with evallot := withHalf x.evallot h v }
  | .channels j => (List.range 8).foldl (fun s i => s.writeAllotment (8 * j + i) (v.extractLsb' (8 * i) 8)) s
  | .hosts j => (List.range 8).foldl (fun (s : State) i =>
      { s with svc := { s.svc with
        hostAllot := Sparse.write 0 s.svc.hostAllot (8 * j + i) (v.extractLsb' (8 * i) 8) } }) s
  | .hotbase => { s with svc := { s.svc with hotbase := v } }
  | .chstate => { s with svc := { s.svc with chstate := v } }
  | .holdspill => { s with svc := { s.svc with holdspill := v } }
  | .mode => s

/-- A store to device space (R411, R412): performed, or nothing written and MISUSE counted. -/
def State.deviceStore (s : State) (by_ : Accessor) (pa n : Nat) (v : Word) : State :=
  match reachable by_ pa with
  | some (p, r) => if n = 8 then s.writeRegister by_.part p r v else s.countMisuse
  | none => s.countMisuse

/-- PCTL_RESET (R414). -/
def execPctlReset (part : Nat) (s : State) : Out State := .next (s.resetPartition part)

/-- PCTL_ENABLE (R419). -/
def execPctlEnable (part : Nat) (en : Bool) (s : State) : Out State := .next (s.writeEnable part en)

/-- PQOS_WRITE (R412, R413). -/
def execPqosWrite (writer part : Nat) (v : Word) (s : State) : Out State := .next (s.writePqos writer part v)

/-- A load of device space by a partition's driver, which gets the value (R411, R412, R422). -/
def State.driverLoad (s : State) (p pa n : Nat) : State :=
  let (s, v) := s.deviceLoad ⟨p, false⟩ pa n
  s.modPart p ({ · with lastRead := v })

/-- FBNEXT_READ: the load of doubleword 0 by the partition's driver (15_faults.md R385). -/
def execFbnextRead (part die : Nat) (s : State) : Out State :=
  let s := s.fbTake part die
  .next (s.modPart part ({ · with lastRead := s.latched part die 0 }))

/-- FBSVC_RETRY (15_faults.md R387). -/
def execFbsvcRetry (part die index : Nat) (s : State) : Out State := .next (s.serviceEntry part die index false)

/-- FBSVC_KILL (15_faults.md R387). -/
def execFbsvcKill (part die index : Nat) (s : State) : Out State := .next (s.serviceEntry part die index true)

/-- REGISTER_WRITE by a partition's function, naturally aligned and as wide as the register (R412). -/
def execRegisterWrite (writer : Nat) (pa : Nat) (v : Word) (s : State) : Out State :=
  .next (s.deviceStore ⟨writer, false⟩ pa 8 v)

/-- PCIE_FLR (R414). -/
def execPcieFlr (part : Nat) (s : State) : Out State := .next (s.resetPartition part)

/-- Every allotment register takes its reset value, and the host allotment and mode of the last write take effect
(R414, R423). -/
def State.resetAllotments (s : State) : State :=
  let s := (s.fab.allot.map (·.1)).foldl (fun s id => s.writeAllotment id 0) s
  { s with
    cores := s.cores.map fun (k, c) => (k, { c with spallot := 0 })
    dies := s.dies.map fun (k, d) => (k, { d with mrallot := 0 })
    quads := s.quads.map fun (k, q) => (k, { q with evallot := 0 })
    svc := { s.svc with hostAllot := [], self := s.svc.selfNext } }

/-- A conventional reset ends once the state of every partition is cleared (R414). -/
def State.settleResetAll (s : State) : State :=
  if s.svc.resetAll && (List.range 16).all fun p => !(s.part p).resetting || (s.part p).resetStep == 2 then
    { s.resetAllotments with svc := { s.resetAllotments.svc with resetAll := false } }
  else s

/-- A conventional reset of the physical function: all sixteen partitions as one, and the allotment registers (R414). -/
def State.conventionalReset (s : State) : State :=
  let s : State := { s with svc := { s.svc with resetAll := true } }
  ((List.range 16).foldl (fun s p => s.resetPartition p) s).settleResetAll

/-- PCIE_CONVENTIONAL_RESET (R414). -/
def execPcieConventionalReset (s : State) : Out State := .next s.conventionalReset

/-- MSIX_UNMASK: a pending interrupt is sent (R417). -/
def execMsixUnmask (part vector : Nat) (s : State) : Out State :=
  let due := (s.part part).pending.getLsbD vector
  let s := s.modPart part fun x => { x with
    masked := x.masked &&& ~~~(1#5 <<< vector), pending := x.pending &&& ~~~(1#5 <<< vector) }
  .next (if due then s.sendVector part vector else s)

/-- CQHEAD_WRITE (R418, R420). -/
def execCqheadWrite (part ctx : Nat) (v : Word) (s : State) : Out State := .next (s.writeContext part ctx 0x30 v)

/-- CHANNEL_ALLOTMENT_WRITE (13_fabric.md R329). -/
def execChannelAllotmentWrite (id : Nat) (v : Byte) (s : State) : Out State := .next (s.writeAllotment id v)

/-- UNREPORTED_FAULT_WRITE (15_faults.md R388). -/
def execUnreportedFaultWrite (die : Nat) (s : State) : Out State := .next (s.writeUnreported die)

end Sys2Proof.Machine
end

