-- ==== Sys2Proof/Machine/ScalarMem.lean ====
section
/-! DEFINITION. Scalar loads and stores, prefetches and residency hints (09_memory.md R255 to R261). -/

namespace Sys2Proof.Machine

/-- Is the location device space? -/
def Loc.device (l : Loc) : Bool := !l.scratch && leafMT l.leaf == 3

/-- A load from another package: the task parks as REMOTE until the reply is written (R253, R255). -/
def loadRemote (s : State) (t : Task) (d : GReg) (l : Loc) (n : Nat) (acq : Option Scope) : Out State :=
  .next ((s.park t.advance .remote (.load d (s.overlayKey l) n acq)).send l.pkg (s.who t)
    (.loadReq ⟨s.who t, l.pa, n, .scalar t.uid⟩))

/-- A scalar load of `n` bytes, an acquire if it has a scope (R255; 11_order.md R287, R288). -/
def loadScalar (s : State) (t : Task) (d : GReg) (va : Word) (n : Nat) (acq : Option Scope) : Out State :=
  match s.checked t .load .none va n n with
  | (s, .error x) => deny s t .load va x
  | (s, .ok l) => unheld s t va n <|
    if l.device then
      let (s, v) := s.deviceLoad ⟨t.part, true⟩ l.pa n
      complete s (t.setG d v)
    else if l.pkg ≠ s.svc.packageId then inFabricOrder s t (loadRemote s t d l n acq)
    else guardRead s t l n fun s =>
      let (s, t, bs) := (s.copiesSeen t va l n).loadBytes t acq l.pa n
      complete s (t.setG d (BitVec.ofNat 64 (leNat bs)))

/-- A scalar store of `n` bytes, a release if it has a scope (R256; 11_order.md R288); one to bytes that a queued matrix
instruction will read stalls until it has (08_matrix.md R231). -/
def storeScalar (s : State) (t : Task) (v va : Word) (n : Nat) (rel : Option Scope) : Out State :=
  match s.checked t .store .store va n n with
  | (s, .error x) => deny s t .store va x
  | (s, .ok l) => unheld s t va n <|
    if l.device && !t.isShadow then
      .next ((s.putTask { t.advance with wait := .none }).deviceStore ⟨t.part, true⟩ l.pa n v)
    else if s.writeHeld t.ci (s.clock + 1) l n then .next (s.stall t .none)
    else guardWrite s t l n <| storeRoom s t l <|
      let (s, t) := s.taskStore t va l (leBytes n v.toNat) rel
      complete s t

/-- `LD` (R255). -/
def execLd (d a : GReg) (off : BitVec 12) (z : Size) (s : State) : Out State := withTask s fun t =>
  loadScalar s t d (effective (t.greg a) off (sizeBytes z)) (sizeBytes z) none

/-- `LD.acq` (R255; 11_order.md R288). -/
def execLdAcq (d a : GReg) (sc : Scope) (off : BitVec 9) (z : Size) (s : State) : Out State := withTask s fun t =>
  loadScalar s t d (effective (t.greg a) off (sizeBytes z)) (sizeBytes z) (some sc)

/-- `ST` (R256). -/
def execSt (src a : GReg) (off : BitVec 12) (z : Size) (s : State) : Out State := withTask s fun t =>
  storeScalar s t (t.greg src) (effective (t.greg a) off (sizeBytes z)) (sizeBytes z) none

/-- `ST.rel` (R256; 11_order.md R288). -/
def execStRel (src a : GReg) (sc : Scope) (off : BitVec 9) (z : Size) (s : State) : Out State := withTask s fun t =>
  releasingAt s t sc
    (storeScalar s t (t.greg src) (effective (t.greg a) off (sizeBytes z)) (sizeBytes z) (some sc))

/-- Where a prefetch or hint goes, with the address of its leaf; `none` when it is dropped (R258). -/
def State.hinted (s : State) (t : Task) (va : Word) : Option (Nat × Loc) :=
  if !canonical va || (scratchOf t.ci va).isSome || reservedWindow va || !s.inRanges t.ranges t.ctxid va 1 then none
  else match s.lookup t.ctxid .load va with
    | .error _ => none
    | .ok (at_, l) => if leafMT l.leaf = 2 ∨ leafMT l.leaf = 3 then none else some (at_, l)

/-- A prefetch or hint completes; a dropped one is counted (R258). -/
def hint (s : State) (t : Task) (va : Word) (k : State → Loc → Option State) : Out State :=
  let drop : Out State := complete s { t with hintdrop := t.hintdrop + 1 }
  match s.hinted t va with
  | none => drop
  | some (at_, l) =>
    match k ((s.setAccessed at_ false).remember (quadOf t.ci) t.ctxid va) l with
    | some s => complete s t
    | none => drop

/-- A form that is dropped when its home is another package and otherwise only moves lines between caches, which hold
what memory holds (R259, R260). -/
def cacheHint (s : State) (l : Loc) : Option State := if l.pkg = s.svc.packageId then some s else none

/-- `PF.l1` (R259). -/
def execPfL1 (a : GReg) (off : BitVec 12) (s : State) : Out State := withTask s fun t =>
  hint s t (effective (t.greg a) off 1) cacheHint

/-- `PF.l2` (R259). -/
def execPfL2 (a : GReg) (off : BitVec 12) (s : State) : Out State := withTask s fun t =>
  hint s t (effective (t.greg a) off 1) cacheHint

/-- `HINT.need` (R260). -/
def execHintNeed (a : GReg) (off : BitVec 12) (s : State) : Out State := withTask s fun t =>
  hint s t (effective (t.greg a) off 1) cacheHint

/-- `HINT.done` (R260). -/
def execHintDone (a : GReg) (off : BitVec 12) (s : State) : Out State := withTask s fun t =>
  hint s t (effective (t.greg a) off 1) fun s _ => some s

/-- `HINT.near` (R260). -/
def execHintNear (a : GReg) (off : BitVec 12) (s : State) : Out State := withTask s fun t =>
  hint s t (effective (t.greg a) off 1) fun s l =>
    some (if l.pkg = s.svc.packageId then s.nearHint none l.pa else s.send l.pkg (s.who t) (.near (s.who t) l.pa))

end Sys2Proof.Machine
end

