-- ==== Sys2Proof/Machine/Mailbox.lean ====
section
/-! DEFINITION. Mailbox rings: `SEND`, placement, ring-full events and `RECV` (07_scratchpad.md R204 to R210). -/

namespace Sys2Proof.Machine

/-- A ring header (R204). -/
structure Ring where
  tail : Nat
  head : Nat
  size : Nat
  fullev : Bool
deriving DecidableEq, Repr

/-- Reads the header at a scratchpad key; `none` when malformed (R204). -/
def State.ring (s : State) (key : Nat) : Option Ring :=
  let n := s.word key 64
  let r : Ring := ⟨field n 0 32, field n 32 32, field n 64 17, n.testBit 128⟩
  if field n 224 288 ≠ 0 ∨ field n 129 63 ≠ 0 ∨ field n 81 47 ≠ 0 ∨ r.size = 0 ∨ r.size % 64 ≠ 0 ∨ 65536 < r.size
      ∨ r.size < (r.tail + 2 ^ 32 - r.head) % 2 ^ 32 then none
  else some r

/-- Does the data area of a ring lie in its core's scratchpad? -/
def Ring.inside (r : Ring) (key : Nat) : Bool := (key - scratchBase) % scratchSize + 64 + r.size ≤ scratchSize

/-- Bytes taken up in a ring. -/
def Ring.used (r : Ring) : Nat := (r.tail + 2 ^ 32 - r.head) % 2 ^ 32

/-- A record header (R205). -/
def recordHeader (len rlen src : Nat) (skip ovr : Bool) : Nat :=
  len + rlen * 2 ^ 16 + bit skip * 2 ^ 33 + bit ovr * 2 ^ 34 + src * 2 ^ 35

/-- Payload padded to a multiple of 8. -/
def padded (bs : List Byte) : List Byte := bs ++ List.replicate ((8 - bs.length % 8) % 8) 0

/-- The writer of a placement: the sender's core, on whose behalf it is made (01_machine.md R18, 07_scratchpad.md R207). -/
def placer (w : Who) : Writer := { uid := 0, core := some (coreOf w.sid) }

/-- Writes a record at an offset of the data area of a ring. -/
def State.putRecord (s : State) (w : Who) (key off header : Nat) (payload : List Byte) : State :=
  let a := key + 64 + off
  let bs := leBytes 8 header ++ padded payload
  (s.perform (placer w) a bs).tagLines a bs.length (whoTag w)

/-- The escalation mark of a placement, by the owner tag of the header line (14_containment.md R351). -/
def State.markPlacement (s : State) (w : Who) (key : Nat) : State :=
  if w.dom = 0 then s
  else match s.tag key with
    | .clean => s
    | .host => s.mark w.ctxid w.dom 0
    | .work o =>
      if o.ctxid = w.ctxid ∧ s.within w.ctxid o.domain w.dom then s
      else
        let common := (s.ancestors w.ctxid w.dom).find? fun d => o.ctxid == w.ctxid && s.within w.ctxid o.domain d.id
        s.mark w.ctxid w.dom ((common.map (·.id)).getD 0)

/-- Tasks parked as MBOX on a ring become READY and receive again (R209). -/
def State.wakeRing (s : State) (key : Nat) : State :=
  (s.tasks.filter fun t => t.wait == .mailbox (BitVec.ofNat 64 key)).foldl (fun s t => s.wake t) s

/-- Places a message in its ring, or holds it: `none` (R207). No segment of the ring's data area is checked, and a ring that
runs past its scratchpad holds the message: the model's choices (log entry 83). -/
def State.place? (s : State) (e : SendEntry) : Option State :=
  match (s.ring e.ring).filter (·.inside e.ring) with
  | none => none
  | some r =>
    let r := if r.tail = r.head then
        let p := (ceilDiv r.tail r.size * r.size) % 2 ^ 32
        { r with tail := p, head := p }
      else r
    let len := e.payload.length
    let whole := 8 + ceilDiv len 8 * 8
    let ovr := r.size < whole
    let rec_ := if ovr then 8 else whole
    let payload := if ovr then [] else e.payload
    let off := r.tail % r.size
    let free := r.size - r.used
    let run := r.size - off
    let finish := fun (s : State) (n : Nat) =>
      let s := s.acceptAll (s.requests.filter fun r => r.who.task == e.who.task && r.plain)
      let s := (s.markPlacement e.who e.ring).setTag e.ring (whoTag e.who)
      some ((s.perform (placer e.who) e.ring (leBytes 4 ((r.tail + n) % 2 ^ 32) ++ leBytes 4 r.head)).wakeRing e.ring)
    if rec_ ≤ run ∧ rec_ ≤ free then
      finish (s.putRecord e.who e.ring off (recordHeader len rec_ e.who.sid false ovr) payload) rec_
    else if run + rec_ ≤ free then
      let s := s.putRecord e.who e.ring off (recordHeader 0 run e.who.sid true false) []
      finish (s.putRecord e.who e.ring 0 (recordHeader len rec_ e.who.sid false ovr) payload) (run + rec_)
    else none

/-- The message of a send entry goes to its ring, is held, or is diverted when the receiving core is pre-empted; earlier
messages of the same core to the ring, and those still diverted from it, go first (R207, R208, R210). Without a spill
area the diversion stalls and raises vector 4 (16_system.md R412, R417). -/
def State.placeEntry (s : State) (ci i : Nat) : State :=
  let c := s.core ci
  match c.sends[i]? with
  | none => s
  | some e =>
    let target := scratchCore e.ring
    if (c.sends.take i).any (·.ring == e.ring) then s
    else if s.diverts target && s.noSpillArea e.who.part then s.noteArea e.who.part 0x58 (stalledSend e.order)
    else if !s.halted target && (s.core target).diverted.any (fun
        | .send x => x.ring == e.ring
        | _ => false) then
      s.setCore ci { c with sends := c.sends.set i { e with held := true } }
    else if s.halted target then
      (s.setCore ci { c with sends := c.sends.eraseIdx i }).modCore target fun x =>
        { x with diverted := x.diverted ++ [.send e] }
    else
      match s.place? e with
      | some s' => s'.modCore ci fun x => { x with sends := x.sends.eraseIdx i }
      | none => s.setCore ci { c with sends := c.sends.set i { e with held := true } }

/-- MAILBOX_PLACEMENT (R207). -/
def execMailboxPlacement (core entry : Nat) (s : State) : Out State := .next (s.placeEntry core entry)

/-- RING_FULL_TIMEOUT: a held message sets FULLEV and counts in FULLCNT once (R208). -/
def execRingFullTimeout (core entry : Nat) (s : State) : Out State :=
  let c := s.core core
  match c.sends[entry]? with
  | none => .next s
  | some e =>
    if !e.held || e.fullDone then .next s
    else
      let s := s.setCore core { c with sends := c.sends.set entry { e with fullDone := true } }
      let s := s.perform (placer e.who) (e.ring + 16) (leBytes 1 (s.word (e.ring + 16) 1 ||| 1))
      .next (s.perform (placer e.who) (e.ring + 24) (leBytes 4 ((s.word (e.ring + 24) 4 + 1) % 2 ^ 32)))

/-- Does every byte of an interval of a core's scratchpad lie in it and in segments of a partition (07_scratchpad.md
R187)? -/
def State.ownScratch (s : State) (ci p o n : Nat) : Bool :=
  o + n ≤ scratchSize && (List.range ((o + n - 1) / 0x4000 - o / 0x4000 + 1)).all fun i =>
    s.segmentPart ci ((o / 0x4000 + i) * 0x4000) == p

/-- A scratchpad address of a core, by either window, as an offset. -/
def ownOffset (ci : Nat) (a : Word) : Option Nat :=
  match scratchOf ci a with
  | some (c, o) => if c = ci then some o else none
  | none => none

/-- The message that `SEND` copies is ready to be placed (R206). -/
def sendMessage (s : State) (t : Task) (ring : Nat) (payload : List Byte) : Out State :=
  let s := s.tick
  complete (s.modCore t.ci fun c => { c with
    sends := c.sends ++ [{ who := s.who t, ring := ring, payload := payload, order := s.clock, phase := t.phase }] }) t

/-- `SEND` (R206). -/
def execSend (d a b : GReg) (s : State) : Out State := withTask s fun t =>
  let len := (t.greg d).toNat
  let ra := t.greg a
  let ba := t.greg b
  if len = 0 ∨ 4096 < len then trap s t causeIllegal
  else if ra.toNat % 64 ≠ 0 ∨ ba.toNat % 8 ≠ 0 then trap s t causeAlign
  else match scratchOf t.ci ra, ownOffset t.ci ba with
    | some (rc, ro), some bo =>
      if s.segmentPart rc ro ≠ t.part ∨ !s.ownScratch t.ci t.part bo len then .next (s.softwareError t causeRange)
      else if t.isShadow then complete s t
      else if 4 ≤ (s.core t.ci).sends.length then .next (s.stall t .none)
      else draining s t <| guardRead s t ⟨s.svc.packageId, scratchKey t.ci bo, 0⟩ len fun s =>
        let (s, bs) := s.taskBytes t (scratchKey t.ci bo) len
        sendMessage s t (scratchKey rc ro) bs
    | _, _ => .next (s.softwareError t causeRange)

/-- Continues once the record header at HEAD of a ring that is not empty is no filler, or the ring is empty; each header
is read on the way (R209). -/
def skipFillers (s : State) (t : Task) (key : Nat) (r : Ring) (k : State → Ring → Out State) : Nat → Out State
  | 0 => k s r
  | n + 1 =>
    if r.tail = r.head then k s r
    else
      let a := key + 64 + r.head % r.size
      guardRead s t ⟨s.svc.packageId, a, 0⟩ 8 fun s =>
        let h := s.word a 8
        if h.testBit 33 then skipFillers s t key { r with head := (r.head + field h 16 17) % 2 ^ 32 } k n else k s r

/-- Takes the message at HEAD into the buffer and writes the status (R209). Of a message with OVR, which has no payload,
no byte is copied, and TRUNC goes by its LEN: the model's choice (log entry 84). -/
def takeMessage (s : State) (t : Task) (d : GReg) (key : Nat) (r : Ring) (buffer cap : Nat) : Out State :=
  let a := key + 64 + r.head % r.size
  let h := s.word a 8
  let len := field h 0 16
  let ovr := h.testBit 34
  let n := if ovr then 0 else min len cap
  let reads := fun (o m : Nat) => m ≠ 0 && s.matrixReads t.ci (s.clock + 1) o m
  if reads buffer n || reads (key - scratchKey t.ci 0 + 4) 4 || reads (key - scratchKey t.ci 0 + 16) 1 then
    .next (s.stall t .none)
  else guardRead s t ⟨s.svc.packageId, a + 8, 0⟩ n fun s =>
    let w : Writer := { uid := t.uid, core := some t.ci, epoch := t.rels }
    let s := if n = 0 then s
      else (s.perform w (scratchKey t.ci buffer) (s.bytes (a + 8) n)).tagLines (scratchKey t.ci buffer) n t.tag
    let s := (s.perform w (key + 4) (leBytes 4 ((r.head + field h 16 17) % 2 ^ 32))).setTag key t.tag
    let s := s.perform w (key + 16) (leBytes 1 (s.word (key + 16) 1 / 2 * 2))
    let s : State := { s with cores := s.cores.map fun (k, c) => (k, { c with
      sends := c.sends.map fun e => if e.ring = key then { e with held := false } else e }) }
    let status := len + bit (cap < len) * 2 ^ 16 + bit ovr * 2 ^ 17 + bit r.fullev * 2 ^ 18 + field h 35 15 * 2 ^ 20
    complete (s.meet t .pkg) (t.setG d (BitVec.ofNat 64 status))

/-- Has a core a vector memory instruction that has not completed: queued, or with writes that have still to be made or to
leave for another package (R209; 05_tasks.md R143)? -/
def State.vectorMemory (s : State) (ci : Nat) : Bool :=
  (s.core ci).vq.any (·.cls != .none)
    || (s.requests.any fun r => r.tally != 0 && r.cls != .mx && r.index < 0x8000 && coreOf r.who.sid == ci)
    || s.fab.out.any fun m => m.op != 0 && m.cls == .fb && m.who.task != 0 && coreOf m.who.sid == ci

/-- `RECV` (R209). -/
def execRecv (d a b : GReg) (s : State) : Out State := withTask s fun t =>
  let ra := t.greg a
  let ba := t.greg b
  if s.vectorMemory t.ci || !s.ownDrained t then .next (s.stall t .none)
  else if ra.toNat % 64 ≠ 0 ∨ ba.toNat % 8 ≠ 0 then trap s t causeAlign
  else match ownOffset t.ci ra, ownOffset t.ci ba with
    | some ro, some bo =>
      let key := scratchKey t.ci ro
      if !s.ownScratch t.ci t.part ro 64 || !s.ownScratch t.ci t.part bo (t.greg d).toNat then
        .next (s.softwareError t causeRange)
      else guardRead s t ⟨s.svc.packageId, key, 0⟩ 64 fun s =>
        match s.ring key with
        | none => trap s t causeIllegal
        | some r =>
          if !s.ownScratch t.ci t.part ro (64 + r.size) then .next (s.softwareError t causeRange)
          else
            skipFillers s t key r (fun s r =>
              if r.tail = r.head then .next (s.park t .mbox (.mailbox (BitVec.ofNat 64 key)))
              else takeMessage s t d key r bo (t.greg d).toNat) (r.size / 8)
    | _, _ => .next (s.softwareError t causeRange)

end Sys2Proof.Machine
end

