-- ==== Sys2Proof/Machine/Capability.lean ====
section
/-! DEFINITION. Capability and domain instructions, commits, clearance, and generation allocation (14_containment.md R352
to R375, 12_copy.md R320). -/

namespace Sys2Proof.Machine

/-- The task waits for a change that it has made: it stalls in a single package and parks as REMOTE across packages
(R352). -/
def waitChange (s : State) (t : Task) : Out State :=
  if s.spans t.part || !s.capLocal t.ctxid then .next (s.park t .remote .capChange) else .next (s.stall t .none)

/-- A change of capabilities by the instruction of a task, logged in its domain: `k` goes on with the outcome (R352). -/
def changing (s : State) (t : Task) (steps : List CapStep) (k : State → CapResult → Out State) : Out State :=
  match s.transact (tokenTask t.uid, forChange) t.ctxid t.domain steps with
  | (s, none) => waitChange s t
  | (s, some r) => k s r

/-- CAPABILITY_CHANGE_COMPLETE (R352). -/
def execCapabilityChangeComplete (task : Nat) (s : State) : Out State :=
  match s.task? task with
  | none => .next s
  | some t => .next (if t.wait = .capChange then s.confirmAll t.uid else s)

/-- Does an entry of a table that lies here not meet a step? One of another package is judged there. -/
def State.misses (s : State) (t : Task) (c : CapStep) : Bool :=
  s.capLocal t.ctxid && judgeStep c (s.capView (quadOf t.ci) t.ctxid c.page) != .done

/-- The domain that a handle names, if it is a live one of the context (R357). -/
def State.handle (s : State) (t : Task) (v : Word) : Option Dom := if v.toNat < 2 ^ 32 then s.dom? t.ctxid v.toNat else none

/-- The mark of a give to a recipient outside the giver's domain and its descendants (R351). -/
def State.markGive (s : State) (ctxid dom to_ : Nat) : State :=
  if to_ = 0 then s.mark ctxid dom (((s.outermost ctxid dom).map (·.id)).getD 0)
  else if s.within ctxid to_ dom then s
  else s.mark ctxid dom ((((s.ancestors ctxid dom).find? fun d => s.within ctxid to_ d.id).map (·.id)).getD 0)

/-- Goes on if the recipient of a give is the pool or a PROVISIONAL domain of the context, in whichever package it was
opened (R353, R357). -/
def withRecipient (s : State) (t : Task) (h : Word) (k : State → Out State) : Out State :=
  if h = 0 then k s
  else match s.handle t h with
    | some d => if d.state = .provisional then k s else trap s t causeIllegal
    | none =>
      if 2 ^ 32 ≤ h.toNat ∨ !s.spans t.part then trap s t causeIllegal
      else match s.askDomain (tokenTask t.uid, forQuery) t.ctxid h.toNat with
        | (s, none) => waitChange s t
        | (s, some r) => if r.verdict = .done then k s else trap s t causeIllegal

/-- The step of `CAPGIVE`: the giver holds the page, and the recipient is checked when the entry changes (R353). -/
def giveStep (t : Task) (va h : Word) : CapStep :=
  { page := pageOf va, holders := some [t.domain], new := some h.toNat, strict := true
    recipient := if h = 0 then none else some h.toNat }

/-- `CAPGIVE` (R353). -/
def execCapgive (a b : GReg) (s : State) : Out State := withTask s fun t =>
  let h := t.greg b
  let step := giveStep t (t.greg a) h
  let given := fun (s : State) (r : CapResult) =>
    match r.verdict with
    | .done => complete (s.markGive t.ctxid t.domain h.toNat) t
    | .gone => trap s t causeIllegal
    | _ => .next (s.softwareError t causeCapv)
  if t.isShadow then complete s t
  else if t.domain = 0 then trap s t causeIllegal
  else match s.takeAnswer (tokenTask t.uid, forChange) with
    | (s, some r) => given s r
    | (s, none) => withRecipient s t h fun s =>
      if s.misses t step then .next (s.softwareError t causeCapv)
      else if !(t.quiet && t.fb == 0 && s.ownDrained t) then .next (s.stall t .none)
      else changing s t [step] given

/-- The step of `CAPTAKE`: the page is in the pool, or held already, and not frozen. -/
def takeStep (t : Task) (va : Word) : CapStep :=
  { page := pageOf va, holders := some [0, t.domain], top := 0, new := some t.domain, strict := true }

/-- `CAPTAKE` (R354). -/
def execCaptake (a : GReg) (s : State) : Out State := withTask s fun t =>
  if t.isShadow then complete s t
  else if t.domain = 0 then trap s t causeIllegal
  else changing s t [takeStep t (t.greg a)] fun s r =>
    if r.verdict = .done then complete s t else .next (s.softwareError t causeCapv)

/-- REL of `CAPQ` (R355). -/
def State.relation (s : State) (t : Task) (holder : Nat) : Nat :=
  if holder = 0 then 1
  else if holder = preserved then 5
  else if holder = t.domain then 2
  else if s.within t.ctxid t.domain holder then 3
  else 4

/-- `CAPQ` (R355): the entry as it stands at its home. A shadow does not perform it (R370; log entry 93). -/
def execCapq (a c : GReg) (s : State) : Out State := withTask s fun t =>
  let va := t.greg a
  if t.isShadow then complete s t
  else if !canonical va || (scratchOf t.ci va).isSome || reservedWindow va then complete s (t.setG c 0)
  else changing s t [{ page := pageOf va }] fun s r =>
    match capOf ((r.steps.headD (.noentry, 0)).2.toNat) with
    | .entry holder frz =>
      complete s (t.setG c (BitVec.ofNat 64 (holder * 2 ^ 32 + frz * 2 ^ 24 + s.relation t holder)))
    | _ => complete s (t.setG c 0)

/-- What the check of a domain's pages came to (R360). -/
inductive PageCheck where
  | ok | conflict | noentry
  | remote (page : Nat)
deriving DecidableEq, Repr

/-- Two outcomes together: a fetch first, then NOENTRY before CONFLICT (R360). -/
def PageCheck.and : PageCheck → PageCheck → PageCheck
  | .remote p, _ => .remote p
  | _, .remote p => .remote p
  | .noentry, _ => .noentry
  | _, .noentry => .noentry
  | .conflict, _ => .conflict
  | _, x => x

/-- One page against a condition on HOLDER and FRZ. -/
def checkEntry (f : Nat → Nat → Bool) (page : Nat) : CapView → PageCheck
  | .remote => .remote page
  | .absent => .noentry
  | .entry h z => if f h z then .ok else .conflict

/-- Pages of the owned and copied ranges, each once. -/
def DomRecord.ownPages (r : DomRecord) : List Nat :=
  ((r.ranges.filter (·.kind != .frozen)).flatMap fun x => pagesOf x.base x.len).eraseDups

/-- Pages of the frozen ranges, each once. -/
def DomRecord.frozenPages (r : DomRecord) : List Nat :=
  ((r.ranges.filter (·.kind == .frozen)).flatMap fun x => pagesOf x.base x.len).eraseDups

/-- Pages of the save area. -/
def DomRecord.savePages (r : DomRecord) : List Nat := pagesOf r.save.toNat (copiedLength r.ranges)

/-- The check of every page that opening a domain under parent `p` (0: none) moves or freezes (R360). -/
def State.checkPages (s : State) (view : Nat → CapView) (ctxid p : Nat) (r : DomRecord) : PageCheck :=
  let own := fun h z => h == p && z == 0
  let frozen := fun h z => (h == 0 || h == p || s.within ctxid p h) && z < 255
  let one := fun f (c : PageCheck) page => c.and (checkEntry f page (view page))
  r.frozenPages.foldl (one frozen) ((r.ownPages ++ r.savePages).foldl (one own) .ok)

/-- The steps of opening a domain under parent `p` (0: none), one for each page: owned and copied pages to the new id,
save area preserved, which an owned page in it is too, frozen counts (R360). -/
def State.openSteps (s : State) (ctxid id p : Nat) (r : DomRecord) : List CapStep :=
  let own := r.ownPages
  let save := r.savePages
  let frozen := r.frozenPages
  (own ++ save ++ frozen).eraseDups.map fun page =>
    let moves := own.contains page || save.contains page
    { page := page
      holders := some (if moves then [p] else 0 :: p :: (s.ancestors ctxid p).map (·.id))
      top := if moves then 0 else 254
      new := if save.contains page then some preserved else if own.contains page then some id else none
      frz := if frozen.contains page then .up else .keep
      strict := true }

/-- A new domain of the table (R357, R358). -/
def newDom (ctxid id : Nat) (launch : BitVec 32) (record : Word) (parent depth : Nat) (r : DomRecord) (root : Word)
    (die prio : Nat) (seq : Word) (phase bar ag : Nat) : Dom :=
  { id := id, ctxid := ctxid, launch := launch, record := record, parent := parent, depth := depth, esc := id,
    replays := r.budget, ranges := r.ranges, save := r.save.toNat, snapshot := copiedLength r.ranges == 0,
    root := root, rootDie := die, rootPrio := prio, rootSeq := seq, rootPhase := phase, rootBar := bar, rootAg := ag,
    dual := r.dual }

/-- The parent of a domain that a task opens: the nearest of its domain and ancestors with the record address named, or
its own domain; 0 is none, and a PARENT that names no such domain is malformed (R359, R360). -/
def State.parentOf (s : State) (t : Task) (parent : Word) : Option Nat :=
  if parent = 0 then some t.domain
  else ((s.ancestors t.ctxid t.domain).find? fun d => d.record == parent).map (·.id)

/-- Entries of the domain table of a partition (R357). -/
def State.domCount (s : State) (p : Nat) : Nat := (s.doms.filter fun d => d.ctxid / 4 == p).length

/-- The table of domains of a partition is there (16_system.md R412). -/
def State.domAreaThere (s : State) (p : Nat) : Bool := !areaAbsent (s.part p).domarea

/-- A domain id for a task: from the counter here, from a reply that has come, or asked for while the task parks
(R357). -/
def withId (s : State) (t : Task) (k : State → Task → Nat → Out State) : Out State :=
  if s.capLocal t.ctxid then
    let (s, id) := s.drawId t.ctxid
    k s t id
  else match t.drawn with
    | some id => k s { t with drawn := none } id
    | none => .next ((s.park t .remote .idDraw).send (s.capHome t.ctxid) (s.who t) (.idDraw t.uid t.ctxid))

/-- A refusal of `DOMOPEN`, which changes nothing: an id that was drawn goes back (R360). -/
def refuseOpen (s : State) (t : Task) (c : GReg) (code : Nat) : Out State :=
  let s := match t.drawn with
    | some id => s.freeId t.ctxid id true
    | none => s
  complete s ({ t with drawn := none }.setG c (BitVec.ofNat 64 (2 ^ 63 + code)))

/-- The moves of a planned domain are complete: table entry, SEQ write, root queued on the issuer's die, handle (R360). -/
def finishOpen (s : State) (t : Task) (c : GReg) (x : OpenPlan) : Out State :=
  let t := { t with plan := none }
  let r := x.dom
  let e := t.spawnEntry s.clock r.root x.root x.ranges x.id
  let d := newDom t.ctxid x.id t.launchid x.record x.parent x.depth r r.root t.die x.root.prio t.childSeq t.phase t.bar t.ag
  let d := { d with pages := r.ownPages.filter fun p => !r.savePages.contains p }
  let s : State := { s.tick.mark t.ctxid t.domain x.esc with doms := (s.mark t.ctxid t.domain x.esc).doms ++ [d] }
  let (s, t) := s.bufferStore t ⟨x.pkg, x.pa, x.leaf⟩ (leBytes 8 t.childSeq.toNat)
  enterQueue s (t.setG c (BitVec.ofNat 64 x.id)) t.die e

/-- The moves of a planned domain are made, once no matrix instruction is to read where SEQ goes; where its pages have
changed since they were checked it is refused, and its id is free again (R360; 08_matrix.md R231). -/
def carryOpen (s : State) (t : Task) (c : GReg) (x : OpenPlan) : Out State :=
  let u := { t with plan := some x }
  if s.writeHeld t.ci (s.clock + 1) ⟨x.pkg, x.pa, x.leaf⟩ 8 then .next (s.stall u .none)
  else changing s u (s.openSteps t.ctxid x.id x.parent x.dom) fun s r => match r.verdict with
    | .done => finishOpen s t c x
    | .noentry => refuseOpen s { t with plan := none, drawn := some x.id } c 4
    | .conflict | .gone => refuseOpen s { t with plan := none, drawn := some x.id } c 3

/-- The pages of a domain to be opened are checked against the table, here or at its home: `k` goes on with the outcome
(R360). -/
def checkingPages (s : State) (t : Task) (p : Nat) (r : DomRecord) (k : State → Verdict → Out State) : Out State :=
  if s.capLocal t.ctxid then
    match s.checkPages (s.capView (quadOf t.ci) t.ctxid) t.ctxid p r with
    | .noentry => k s .noentry
    | .conflict => k s .conflict
    | _ => k s .done
  else match s.transact (tokenTask t.uid, forCheck) t.ctxid t.domain
      ((s.openSteps t.ctxid 0 p r).map fun c => { c with new := none, frz := .keep }) with
    | (s, none) => waitChange s t
    | (s, some x) => k s x.verdict

/-- A domain opens once the writes checked under the entries that it changes are performed (R352, R360). -/
def openDomain (s : State) (t : Task) (c : GReg) (rec_ : Word) (r : DomRecord) (root : TaskRecord) (rs : List Range)
    (p depth : Nat) (l : Loc) (esc : Nat) : Out State :=
  if !s.spans t.part && !s.drained t.part then .next (s.stall t .none)
  else withId s t fun s t id => carryOpen s t c ⟨rec_, r, root, rs, l.pkg, l.pa, l.leaf, p, depth, id, esc⟩

/-- The checks of R360 after the record and the root record are read. That of SEQ leaves its mark when the domain opens: a
refusal changes nothing. -/
def tryOpen (s : State) (t : Task) (c : GReg) (rec_ : Word) (r : DomRecord) (root : TaskRecord) (rs : List Range)
    (p : Nat) : Out State :=
  let depth := (match s.dom? t.ctxid p with
    | some d => d.depth
    | none => 0) + 1
  if 8 < depth then refuseOpen s t c 1
  else if 16384 ≤ s.domCount t.part then refuseOpen s t c 2
  else checkingPages s t p r fun s v => match v with
    | .noentry => refuseOpen s t c 4
    | .conflict | .gone => refuseOpen s t c 3
    | .done =>
      match s.checked t .other .store (r.root + 56) 8 8 with
      | (s, .error x) => deny s t .other (r.root + 56) x
      | (s', .ok l) =>
        let esc := ((s'.dom? t.ctxid t.domain).map (·.esc)).getD 0
        let s := { s' with doms := s.doms }
        releasing s t <| storeRoom s t l <| openDomain s t c rec_ r root rs p depth l esc

/-- `DOMOPEN` (R359, R360). -/
def execDomopen (a c : GReg) (s : State) : Out State := withTask s fun t =>
  let rec_ := t.greg a
  match t.plan with
  | some x => carryOpen s t c x
  | none =>
  if rec_.toNat % 64 ≠ 0 then trap s t causeAlign
  else if t.isShadow then complete s { t with ordinal := t.ordinal + 1 }
  else if !t.quiet then .next (s.stall t .none)
  else if !s.domAreaThere t.part then .next ((s.noteArea t.part 0x60 (stalledTask t.uid)).stall t .none)
  else withBytes s t .record rec_ 32 fun s bs =>
    match parseDomain bs false with
    | none => trap s t causeIllegal
    | some r =>
      match s.parentOf t r.parent with
      | none => trap s t causeIllegal
      | some p =>
        if r.root.toNat % 64 ≠ 0 then trap s t causeIllegal
        else withBytes s t .record r.root 8 fun s bs =>
          match parseTask bs true with
          | none => trap s t causeIllegal
          | some root =>
            let go := fun (s : State) (tb : List Byte) => match parseRanges tb with
              | some rs => tryOpen s t c rec_ r root rs p
              | none => trap s t causeIllegal
            if root.table = 0 then go s [] else withBytes s t .record root.table 8 go

/-- Where the bytes of a physical address lie in its RS(10,8) group: its data index with the places of both parities
(15_faults.md R402); `none` when the package is no data member. -/
def State.parityPlaces (s : State) (pkg pa : Nat) : Option (Nat × (Nat × Nat) × (Nat × Nat)) :=
  let g := s.svc.group
  match g.findIdx? (·.1 == pkg), (g.find? (·.1 == pkg)) with
  | some m, some (_, base) =>
    if pa < base ∨ g.length ≠ 10 then none
    else
      let k := (pa - base) / 0x10000
      let p := k % 10
      let q := (k + 1) % 10
      let at_ := fun i => ((g.getD i (0, 0)).1, (g.getD i (0, 0)).2 + (pa - base))
      if m = p ∨ m = q then none
      else some (((List.range m).filter fun i => i != p && i != q).length, at_ p, at_ q)
  | _, _ => none

/-- The delta of one changed sector goes to both parities of its group (12_copy.md R320). No requester is named for it: the
index, outside the table of 10_atomics.md R280, and that it is accepted alone are the model's choice (log entry 101). -/
def State.sendDelta (s : State) (w : Who) (pkg pa : Nat) (delta : List Byte) : State :=
  if delta.all (· == 0) then s
  else match s.parityPlaces pkg pa with
    | none => s
    | some (j, p, q) =>
      let put := fun (s : State) (x : Nat × Nat) (bs : List Byte) =>
        if x.1 = s.svc.packageId then s.accept ⟨w, 0x9000, x.2, .xor bs, .none, none, 0, [], 0⟩
        else s.send x.1 w (.red ⟨w, x.2, .xor bs⟩)
      put (put s p delta) q (delta.map (gfmul (BitVec.ofNat 8 (2 ^ j))))

/-- The deltas of an outer domain's copied inputs on protected pages; `none` while lines of other packages are read
(12_copy.md R320). -/
def State.deltas (s : State) (d : Dom) : State × Bool :=
  let lines := d.lines.filter fun (va, _) => match s.lookup d.ctxid .record (BitVec.ofNat 64 va) with
    | .ok (_, l) => leafMT l.leaf == 2
    | .error _ => false
  match s.gather d (lines.map (·.1) ++ lines.map (·.2)) with
  | (s, none) => (s, false)
  | (s, some bss) =>
    let n := lines.length
    (((List.range n).foldl (fun (s : State) i =>
      match s.lookup d.ctxid .record (BitVec.ofNat 64 (lines.getD i (0, 0)).1) with
      | .ok (_, l) =>
        let delta := xorBytes (bss.getD i []) (bss.getD (n + i) [])
        (s.sendDelta (s.domWho d) l.pkg l.pa (delta.take 32)).sendDelta (s.domWho d) l.pkg (l.pa + 32) (delta.drop 32)
      | .error _ => s) s).dropReads (tokenDom d), true)

/-- Has the work of a domain drained: tasks ended, operations performed or gone from the interface, snapshot made,
children committed, no replay under way (R363)? -/
def State.workDone (s : State) (d : Dom) : Bool :=
  let mine := fun (w : Who) => w.ctxid == d.ctxid && w.dom == d.id
  (s.tasks.all fun t => !(t.ctxid == d.ctxid && t.domain == d.id))
    && (s.dies.all fun x => x.2.queue.all fun e => !(e.ctxid == d.ctxid && e.domain == d.id))
    && s.requests.all (fun r => !mine r.who) && s.fab.out.all (fun m => !mine m.who)
    && (s.orphans.all fun t => !(t.ctxid == d.ctxid && t.domain == d.id))
    && (s.cores.all fun x => x.2.sends.all fun e => !mine e.who)
    && d.snapshot && !d.restoring && !d.undoing
    && s.doms.all fun c => !(c.ctxid == d.ctxid && c.parent == d.id) || c.state != .provisional

/-- The sums of a DUAL domain differ: a hardware error charged to it, whose replay binds none of its tasks to quarantined
quads (R363, R371). -/
def State.dualMismatch (s : State) (d : Dom) : State :=
  ((s.modDom d.ctxid d.id ({ · with healthyOnly := true })).statistic (d.ctxid / 4) 5).charge
    ⟨d.id, d.ctxid, d.launch⟩ none

/-- A domain commits: its capabilities go to its parent, or to the free pool, and then its state is COMMITTED; the result
says whether it is now. What it no longer holds stays where it is, and what it receives meanwhile follows (R363). -/
def State.commitDom (s : State) (ctxid id : Nat) : Nat → State × Bool
  | 0 => (s, false)
  | n + 1 =>
    match s.dom? ctxid id with
    | none => (s, false)
    | some d =>
      let committed := fun (s : State) =>
        (s.modDom ctxid id ({ · with state := .committed, pages := [], closed := true }), true)
      if d.pages.isEmpty then committed s
      else match s.transact (tokenDom d, forCommit) ctxid (if d.parent = 0 then id else d.parent)
          (d.releaseSteps d.parent) with
        | (s, none) => (s, false)
        | (s, some r) => if r.steps.all (·.1 != .done) then committed s else s.commitDom ctxid id n

/-- Tries to commit a provisional domain: it waits for its work, its sums are compared, an outer one sends its deltas;
the result says whether it is committed now (R363, 12_copy.md R320). -/
def State.tryCommit (s : State) (d : Dom) : State × Bool :=
  if d.state ≠ .provisional ∨ !s.workDone d then (s, false)
  else if d.dual && d.primarySum != d.shadowSum then (s.dualMismatch d, false)
  else if d.parent ≠ 0 || d.sent then s.commitDom d.ctxid d.id 2
  else match s.deltas d with
    | (s, false) => (s, false)
    | (s, true) => (s.modDom d.ctxid d.id ({ · with sent := true })).commitDom d.ctxid d.id 2

/-- `DOMCLOSE` (R363): the issuer waits for the commit. -/
def execDomclose (a : GReg) (s : State) : Out State := withTask s fun t =>
  if t.isShadow then complete s t
  else match s.handle t (t.greg a) with
    | none => trap s t causeIllegal
    | some d =>
      if d.state ≠ .provisional ∨ d.parent ≠ t.domain then trap s t causeIllegal
      else match s.tryCommit d with
        | (s, true) => complete (s.meet t .pod) t
        | (s, false) => match s.task? t.uid with
          | some t => .next (s.stall t (.domain d.id))
          | none => .next s

/-- The domain that an event names: context × 2^32 + id. -/
def State.namedDom (s : State) (n : Nat) : Option Dom := s.dom? (n / 2 ^ 32) (n % 2 ^ 32)

/-- The tasks that wait in a `DOMCLOSE` for a domain go on (R363). -/
def State.closersGo (s : State) (d : Dom) : State :=
  (s.tasks.filter fun t => t.ctxid == d.ctxid && t.domain == d.parent && t.wait == .domain d.id).foldl (fun s t =>
    let s := s.meet t .pod
    if t.status = .running then (s.putTask { t.advance with wait := .none }).unstall t.ci
    else s.wake t.advance) s

/-- Does a domain without a parent commit again, as it did before its replay (01_machine.md R30)? The outer domain of a
launch commits with its launch. -/
def State.recommits (s : State) (d : Dom) : Bool :=
  d.closed && d.parent == 0 && s.launches.all fun l => !(l.ctxid == d.ctxid && l.outer == d.id)

/-- Commits a domain when its work has drained: one that is closed, or one that had committed before it was replayed
(R363; 01_machine.md R30). -/
def State.closeDom (s : State) (d : Dom) : State :=
  if s.recommits d || s.tasks.any fun t => t.ctxid == d.ctxid && t.domain == d.parent && t.wait == .domain d.id then
    match s.tryCommit d with
    | (s, true) => s.closersGo d
    | (s, false) => s
  else s

/-- DOMAIN_COMMIT (R363). -/
def execDomainCommit (dom : Nat) (s : State) : Out State :=
  match s.namedDom dom with
  | some d => .next (s.closeDom d)
  | none => .next s

/-- DOMAIN_SNAPSHOT_COMPLETE (R361). -/
def execDomainSnapshotComplete (dom : Nat) (s : State) : Out State :=
  match s.namedDom dom with
  | some d => .next (if d.snapshot then s else s.takeSnapshot d)
  | none => .next s

/-- `DOMFAIL` (R364). -/
def execDomfail (a : GReg) (s : State) : Out State := withTask s fun t =>
  if t.isShadow then complete s t
  else match s.handle t (t.greg a) with
    | none => trap s t causeIllegal
    | some d =>
      let mine := if t.domain = 0 then d.launch == t.launchid else s.within t.ctxid d.id t.domain
      if !mine ∨ (d.state ≠ .provisional ∧ d.state ≠ .committed) then trap s t causeIllegal
      else .next ((s.putTask { t.advance with wait := .none }).act d.ctxid d.launch .request
        (s.choose d.ctxid 32 d.id false))

/-- Is a COMMITTED domain to be CLEARED: every quad it ran on has passed a scan, every child is CLEARED (R368)? -/
def State.clearable (s : State) (d : Dom) : Bool :=
  d.state == .committed
    && (s.quads.all fun q => q.2.ran.all fun w => !(w.ctxid == d.ctxid && w.dom == d.id))
    && s.doms.all fun c => !(c.ctxid == d.ctxid && c.parent == d.id) || c.state == .cleared

/-- A domain becomes CLEARED: frozen counts fall, its save area goes to the nearest PROVISIONAL ancestor or to the free
pool (DOMAIN_CLEARANCE, R368). -/
def State.clearDom (s : State) (d : Dom) : State :=
  let heir := (((s.ancestors d.ctxid d.parent).find? (·.state == .provisional)).map (·.id)).getD 0
  let steps := d.thawSteps ++ d.saveSteps heir
  let cleared := fun (s : State) => s.modDom d.ctxid d.id ({ · with state := .cleared })
  if steps.isEmpty then cleared s
  else match s.transact (tokenDom d, forClear) d.ctxid heir steps with
    | (s, none) => s
    | (s, some _) => cleared s

/-- May the table entry of a CLEARED domain be freed (R368)? -/
def State.freeable (s : State) (d : Dom) : Bool :=
  d.state == .cleared && (d.parent == 0 || match s.dom? d.ctxid d.parent with
    | none => true
    | some p => p.state == .cleared)

/-- Step 4 of a replay goes on; an error found in the save area starts the replay again (R366; 15_faults.md R397, R399). -/
def State.restore (s : State) (d : Dom) : State :=
  match s.saveBroken d with
  | none => s.replayRestart d
  | some a => if s.poisoned a then s.charge ⟨d.id, d.ctxid, d.launch⟩ none else s.memoryError a

/-- Clears every domain that can be, and frees entries; an outer domain's entry stays until its launch has posted
CLEARED. -/
def State.settleDoms (s : State) : State :=
  let s := (s.doms.filter s.clearable).foldl (fun s d => s.clearDom d) s
  (s.doms.filter fun d => s.freeable d && (s.launches.all fun l => !(l.ctxid == d.ctxid && l.outer == d.id))).foldl
    (fun s d => s.freeDom d.ctxid d.id) s

/-- The claim of a slice for a task, at its home wherever that is (R374): `k` goes on once it holds it. -/
def withClaim (s : State) (t : Task) (l : Loc) (k : State → Out State) : Out State :=
  let go := fun (s : State) (ok : Bool) => if ok then k s else .next (s.softwareError t causeRange)
  if l.pkg = s.svc.packageId then guardRead s t l 16 fun s =>
    let (s, ok) := s.claimSlice l.pa t.seq t.tag { uid := t.uid, core := some t.ci, epoch := t.rels }
    go s ok
  else match s.takeAnswer (tokenTask t.uid, forClaim) with
    | (s, some r) => go s (r.verdict = .done)
    | (s, none) => .next ((s.park t .remote .claim).send l.pkg (s.who t) (.claim t.uid l.pa t.seq))

/-- `ALLOCG` (R374). -/
def execAllocg (d a : GReg) (s : State) : Out State := withTask s fun t =>
  let c := s.ctx t.ctxid
  let ss := 2 ^ field c.alloccfg.toNat 0 5
  let ns := s.slices t.ctxid
  if ns = 0 then trap s t causeIllegal
  else
    let slice := c.arbase + BitVec.ofNat 64 (t.ag % 4 * (c.arlen.toNat / 4) + t.seq.toNat % ns * ss)
    let take := fun (s : State) (t : Task) =>
      let n := ceilDiv (t.greg a).toNat 64 * 64
      if ss - t.aoff < n then complete s (t.setG d 0)
      else complete s { (t.setG d (slice + BitVec.ofNat 64 t.aoff)) with aoff := t.aoff + n }
    if t.claimed || t.isShadow then take s t
    else match s.translate t.ctxid .other slice with
      | (s, .error f) => .next (s.faultPark t .other slice f.cause f)
      | (s, .ok l) => withClaim s t l fun s => take s { t with claimed := true }

/-- The generations of a launch that are still in use: of its tasks, bound or queued, and of its domains that are not
CLEARED or DISCARDED, whose roots have the least AG of their tasks (R375). -/
def State.liveGenerations (s : State) (ctxid : Nat) (launch : BitVec 32) : List Nat :=
  ((s.tasks.filter fun u => u.ctxid == ctxid && u.launchid == launch).map (·.ag))
    ++ (s.dies.flatMap fun x => (x.2.queue.filter fun e => e.ctxid == ctxid && e.launch == launch).map (·.ag))
    ++ (s.doms.filter fun d => d.ctxid == ctxid && d.launch == launch && d.state != .cleared
        && d.state != .discarded).map (·.rootAg)

/-- Is generation `g` of a task's launch at its end (R375)? -/
def State.generationOver (s : State) (t : Task) (g : Nat) : Bool :=
  (s.liveGenerations t.ctxid t.launchid).all fun n => g < n

/-- Reclaims the generations of a launch up to `g`: the claims of their regions are cleared, once (R375). -/
def State.reclaim (s : State) (l : Launch) (g : Nat) : State :=
  let n := s.slices l.ctxid
  let s := (List.range 4).foldl (fun s i =>
    if l.reclaimed ≤ g - i ∧ i ≤ g then s.clearClaims l.ctxid ((g - i) % 4 * n) n else s) s
  s.modLaunch l.part l.id fun l => { l with reclaimed := max l.reclaimed (g + 1) }

/-- The generations of a launch below every one in use are reclaimed (R375); once none is in use, its final event clears
the whole arena. -/
def State.reclaimOver (s : State) (l : Launch) : State :=
  match (s.liveGenerations l.ctxid l.id).min? with
  | none => s
  | some n => if l.reclaimed < n then s.reclaim l (n - 1) else s

/-- `GENPASS` (R375). -/
def execGenpass (a : GReg) (s : State) : Out State := withTask s fun t =>
  let next := (t.ag + 1) % 2 ^ 32
  let go := fun (s : State) => complete s { t with ag := next, aoff := 64, claimed := false }
  if (t.greg a).toNat ≠ next then trap s t causeIllegal
  else if t.ag + 1 < 4 then go s
  else if s.generationOver t (t.ag - 3) then
    go (match s.launch? t.part t.launchid with
      | some l => s.reclaim l (t.ag - 3)
      | none => s)
  else .next (s.stall t (.generation (t.ag - 3)))

end Sys2Proof.Machine
end

