-- ==== Sys2Proof/Machine/Lanes.lean ====
section
/-! DEFINITION. What the vector instructions compute on a core's `v` and `k` registers and streams
(06_vector.md R164 to R183, 07_scratchpad.md R190 to R193). -/

namespace Sys2Proof

open Machine

/-- Format of a vector floating type. -/
def FType.format : FType → Format
  | .f32 => .f32 | .bf16 => .bf16 | .f16 => .f16

/-- Float format of a type of compares and reductions. -/
def RType.format : RType → Option Format
  | .f32 => some .f32 | .bf16 => some .bf16 | .f16 => some .f16
  | .i32 | .n32 | .i16 | .n16 | .i8 => none

/-- Element width of a type of compares and reductions. -/
def RType.width : RType → Nat
  | .f32 | .i32 | .n32 => 32 | .bf16 | .f16 | .i16 | .n16 => 16 | .i8 => 8

/-- Is an integer type unsigned? -/
def RType.unsigned : RType → Bool
  | .n32 | .n16 => true
  | _ => false

/-- The type of compares and reductions that an integer type is. -/
def IType.rtype : IType → RType
  | .i32 => .i32 | .n32 => .n32 | .i16 => .i16 | .n16 => .n16 | .i8 => .i8

/-- Float format of a conversion type. -/
def CvtType.format : CvtType → Option Format
  | .f32 => some .f32 | .bf16 => some .bf16 | .f16 => some .f16 | .e4m3 => some .e4m3 | .e5m2 => some .e5m2
  | .i32 | .i16 | .i8 => none

/-- An element of an integer type as an integer. -/
def RType.int (t : RType) (x : Nat) : Int := if t.unsigned then (x : Int) else toSigned t.width x

/-- An element widened to the accumulation type, with flags (06_vector.md R178). -/
def RType.widen (t : RType) (x : Nat) : Nat × Flags :=
  match t.format with
  | some .f32 => (x, 0)
  | some f => (Format.convert .f32 .inf (f.value x)).getD (0, 0)
  | none => (ofSigned 32 (t.int x), 0)

/-- The accumulator rounded to the element type (06_vector.md R179). -/
def RType.narrow (t : RType) (x : Nat) : Nat × Flags :=
  match t.format with
  | some .f32 => (x, 0)
  | some f => (f.convert .inf (Format.value .f32 x)).getD (0, 0)
  | none => (x % 2 ^ t.width, 0)

end Sys2Proof

namespace Sys2Proof.Machine

/-- Elements of a vector value at a width (06_vector.md R164). -/
def lanesOf (w : Nat) (v : VWord) : List Nat := (List.range (2048 / w)).map (lane w v)

/-- The mask that a field names; `k0` reads all ones (06_vector.md R164). -/
def Core.mask (c : Core) (k : Reg3) : KWord := if k = 0 then BitVec.allOnes 256 else c.k[k.toNat]

/-- Writes a mask; a write to `k0` is discarded (03_encoding.md R64). -/
def Core.setMask (c : Core) (k : Reg3) (m : KWord) : Core := if k = 0 then c else { c with k := c.k.set k.toNat m }

/-- Reads `v`a. -/
def Core.vec (c : Core) (a : VReg) : VWord := c.v[a.toNat]

/-- Writes `v`d. -/
def Core.setVec (c : Core) (d : VReg) (v : VWord) : Core := { c with v := c.v.set d.toNat v }

/-- Vectors of a stream's pattern (07_scratchpad.md R190). -/
def Stream.total (x : Stream) : Nat := x.cnt[0] * x.cnt[1] * x.cnt[2]

/-- Scratchpad offset of vector `n` of a pattern (07_scratchpad.md R190). -/
def Stream.addr (x : Stream) (n : Nat) : Nat :=
  (x.base + (n % x.cnt[0] : Nat) * x.str[0] + (n / x.cnt[0] % x.cnt[1] : Nat) * x.str[1]
    + (n / (x.cnt[0] * x.cnt[1]) : Nat) * x.str[2] : Int).toNat

/-- A vector passes an exhausted stream (07_scratchpad.md R193). -/
def Stream.pass (x : Stream) : Stream := { x with pos := x.pos + 1, beyond := true }

/-- The first source of a vector instruction, taken from a register or consumed from an input stream; `none` while its
buffer is empty (07_scratchpad.md R193). The binding that its push was checked against may be gone when it executes, where
a discard has removed the `QBIND` (06_vector.md R167): that it then reads zero bits and its destination is dropped with no
further check, or goes by the binding found, is the model's choice. -/
def Core.source (c : Core) : VSrc → Option (Core × VWord)
  | .reg a => some (c, c.vec a)
  | .stream q =>
    match c.q[q.toNat] with
    | none => some (c, 0)
    | some x =>
      if x.total ≤ x.pos then some ({ c with q := c.q.set q.toNat (some x.pass) }, 0)
      else match x.buffer with
        | [] => none
        | v :: rest => some ({ c with q := c.q.set q.toNat (some { x with pos := x.pos + 1, buffer := rest }) }, v)

/-- The old value of a destination: zero bits for a produced vector (06_vector.md R165). -/
def Core.old (c : Core) : VDst → VWord
  | .reg d => c.vec d
  | .stream _ => 0

/-- Writes a destination or produces the next vector of an output stream; `none` while its buffer is full
(07_scratchpad.md R193). -/
def Core.deliver (c : Core) (v : VWord) : VDst → Option Core
  | .reg d => some (c.setVec d v)
  | .stream q =>
    match c.q[q.toNat] with
    | none => some c
    | some x =>
      if x.total ≤ x.pos then some { c with q := c.q.set q.toNat (some x.pass) }
      else if 4 ≤ x.buffer.length then none
      else some { c with q := c.q.set q.toNat (some { x with pos := x.pos + 1, buffer := x.buffer ++ [v] }) }

/-- New elements under a mask: an inactive element keeps its old bits (06_vector.md R165). -/
def masked (w : Nat) (m : KWord) (old : VWord) (f : Nat → Nat) : VWord :=
  ofLanes 2048 w ((List.range (2048 / w)).map fun i => if m.getLsbD i then f i else lane w old i)

/-- Flags of the active elements (02_numbers.md R48, 06_vector.md R165). -/
def activeFlags (w : Nat) (m : KWord) (f : Nat → Flags) : Flags :=
  (List.range (2048 / w)).foldl (fun acc i => if m.getLsbD i then acc ||| f i else acc) 0

/-- What an instruction leaves: the core, the flags it raises and a `g` register it writes. -/
abbrev VResult := Core × Flags × Option (GReg × Word)

/-- An instruction that computes element by element from a, b and the old d (06_vector.md R165, R169). -/
def Core.elements (c : Core) (d : VDst) (a : VSrc) (b : VReg) (k : Reg3) (w : Nat)
    (f : Nat → Nat → Nat → Nat × Flags) : Option VResult :=
  let m := c.mask k
  let y := c.vec b
  let old := c.old d
  match c.source a with
  | none => none
  | some (c, x) =>
    let r := fun i => f (lane w x i) (lane w y i) (lane w old i)
    (c.deliver (masked w m old fun i => (r i).1) d).map fun c => (c, activeFlags w m fun i => (r i).2, none)

/-- A float operation of one rounded result on values a, b, d of a format (06_vector.md R169). -/
def Core.floats (c : Core) (d : VDst) (a : VSrc) (b : VReg) (k : Reg3) (t : FType)
    (f : Format → Num → Num → Num → Rounded) : Option VResult :=
  let fm := t.format
  c.elements d a b k fm.width fun x y z =>
    let r := f fm (fm.value x) (fm.value y) (fm.value z)
    (r.bits, r.flags)

/-- A float operation on patterns that raises no flag (06_vector.md R171). -/
def Core.signs (c : Core) (d : VDst) (a : VSrc) (k : Reg3) (t : FType) (f : Nat → Nat → Nat) : Option VResult :=
  c.elements d a 0 k t.format.width fun x _ _ => (f t.format.width x, 0)

/-- Minimum or maximum of floats (06_vector.md R169). -/
def Core.minmax (c : Core) (d : VDst) (a : VSrc) (b : VReg) (k : Reg3) (t : FType) (mx : Bool) : Option VResult :=
  c.elements d a b k t.format.width fun x y _ =>
    let r := t.format.minmax mx x y
    (r.bits, r.flags)

/-- An integer operation, which sets no flag; its result is kept modulo the width (06_vector.md R172). -/
def Core.ints (c : Core) (d : VDst) (a : VSrc) (b : VReg) (k : Reg3) (w : Width) (f : Nat → Nat → Nat → Int) :
    Option VResult :=
  let n := widthBits w
  c.elements d a b k n fun x y _ => (ofSigned n (f n x y), 0)

/-- Arithmetic shift right; at or beyond the width, copies of the sign bit (06_vector.md R172). -/
def sarInt (w x n : Nat) : Int := if w ≤ n then (if toSigned w x < 0 then -1 else 0) else toSigned w x / (2 ^ n : Nat)

/-- Signed addition clamped to the width (06_vector.md R172). -/
def addsInt (w x y : Nat) : Int :=
  let (lo, hi) := intBounds false w
  max lo (min hi (toSigned w x + toSigned w y))

/-- Converts one element (06_vector.md R174, R175; 02_numbers.md R50 to R55). -/
def convertElement (ovp : Ovp) (rtz uns : Bool) (dst src : CvtType) (x : Nat) : Converted :=
  let v : Int := if uns then (x : Int) else toSigned src.bits x
  match src.format, dst.format with
  | some fs, some fd => fd.convert ovp (fs.value x)
  | some fs, none => convertToInt ovp rtz uns dst.bits (fs.value x)
  | none, some fd => fd.ofInt ovp v
  | none, none => clampInt ovp uns dst.bits v

/-- `VCVT`: `none` while its operands are not there, `some none` for the CONVOVF trap (06_vector.md R175). -/
def Core.convert (c : Core) (d : VDst) (a : VSrc) (ovp : Ovp) (rtz uns : Bool) (k : Reg3) (dst src : CvtType) :
    Option (Option VResult) :=
  let n := 2048 / max dst.bits src.bits
  let m := c.mask k
  let old := c.old d
  match c.source a with
  | none => none
  | some (c, x) =>
    let act := (List.range n).filter fun i => m.getLsbD i
    let rs := act.map fun i => (i, convertElement ovp rtz uns dst src (lane src.bits x i))
    if rs.any fun r => r.2.isNone then some none
    else
      let val := fun i => match rs.find? (·.1 == i) with
        | some (_, some r) => r.1
        | _ => lane dst.bits old i
      let v := ofLanes 2048 dst.bits ((List.range (2048 / dst.bits)).map val)
      let fl := rs.foldl (fun acc r => acc ||| ((r.2.map (·.2)).getD 0)) 0
      (c.deliver v d).map fun c => some (c, fl, none)

/-- An integer relation that a compare names (06_vector.md R176). -/
def FRel.ofInts (r : FRel) (a b : Int) : Bool :=
  match r with
  | .eq => a == b
  | .ne => a != b
  | .lt => a < b
  | .le => a ≤ b
  | .gt => b < a
  | .ge => b ≤ a
  | .un => false

/-- A compare into a mask (06_vector.md R176). -/
def Core.compare (c : Core) (d : Reg3) (a : VSrc) (b : VReg) (k : Reg3) (t : RType) (r : FRel) : Option VResult :=
  let m := c.mask k
  let y := c.vec b
  let w := t.width
  match c.source a with
  | none => none
  | some (c, x) =>
    let cond := fun i => match t.format with
      | some f => (r.holds (f.value (lane w x i)) (f.value (lane w y i)), r.flags (f.value (lane w x i)) (f.value (lane w y i)))
      | none => (r.ofInts (t.int (lane w x i)) (t.int (lane w y i)), 0)
    let bits := (List.range (2048 / w)).map fun i => m.getLsbD i && (cond i).1
    some (c.setMask d (ofBits 256 bits), activeFlags w m fun i => (cond i).2, none)

/-- Operations of reductions and scans (06_vector.md R178). -/
inductive RedOp where
  | sum | min | max | and | or
deriving DecidableEq, Repr

/-- The identity of an operation at a type (06_vector.md R178). -/
def RedOp.identity (o : RedOp) (t : RType) : Nat :=
  let (lo, hi) := intBounds t.unsigned t.width
  match o, t.format with
  | .sum, some _ => 0x80000000
  | .min, some _ => 0x7F800000
  | .max, some _ => 0xFF800000
  | .min, none => ofSigned 32 hi
  | .max, none => ofSigned 32 lo
  | .and, _ => if t.unsigned then 2 ^ t.width - 1 else 0xFFFFFFFF
  | .sum, none | .or, _ => 0

/-- One node of a reduction (06_vector.md R178). -/
def RedOp.node (o : RedOp) (t : RType) (x y : Nat) : Nat × Flags :=
  let sx := if t.unsigned then (x : Int) else toSigned 32 x
  let sy := if t.unsigned then (y : Int) else toSigned 32 y
  match o, t.format with
  | .sum, some _ => let r := Format.add .f32 (Format.value .f32 x) (Format.value .f32 y); (r.bits, r.flags)
  | .min, some _ => let r := Format.minmax .f32 false x y; (r.bits, r.flags)
  | .max, some _ => let r := Format.minmax .f32 true x y; (r.bits, r.flags)
  | .sum, none => ((x + y) % 2 ^ 32, 0)
  | .min, none => (if sx ≤ sy then x else y, 0)
  | .max, none => (if sx ≤ sy then y else x, 0)
  | .and, _ => (x &&& y, 0)
  | .or, _ => (x ||| y, 0)

/-- A node with the flags of what it combines. -/
def RedOp.join (o : RedOp) (t : RType) (x y : Nat × Flags) : Nat × Flags :=
  let r := o.node t x.1 y.1
  (r.1, x.2 ||| y.2 ||| r.2)

/-- A reduction by the fixed tree into 32-bit element 0, the others zero (06_vector.md R178, 02_numbers.md R61). -/
def Core.reduce (c : Core) (d : VReg) (a : VSrc) (k : Reg3) (t : RType) (o : RedOp) : Option VResult :=
  let m := c.mask k
  match c.source a with
  | none => none
  | some (c, x) =>
    let leaf := fun i => if m.getLsbD i then t.widen (lane t.width x i) else (o.identity t, 0)
    let r := treeOf (o.join t) (o.identity t, 0) ((List.range (2048 / t.width)).map leaf)
    some (c.setVec d (ofLanes 2048 32 [r.1]), r.2, none)

/-- The elements of an inclusive scan, in ascending order (06_vector.md R179). -/
def scanFrom (t : RType) (o : RedOp) (m : KWord) (x old : VWord) : List Nat → Nat → List Nat × Flags
  | [], _ => ([], 0)
  | i :: is, acc =>
    if m.getLsbD i then
      let v := t.widen (lane t.width x i)
      let r := o.node t acc v.1
      let n := t.narrow r.1
      let (ys, fl) := scanFrom t o m x old is r.1
      (n.1 :: ys, v.2 ||| r.2 ||| n.2 ||| fl)
    else
      let (ys, fl) := scanFrom t o m x old is acc
      (lane t.width old i :: ys, fl)

/-- A scan (06_vector.md R179). -/
def Core.scan (c : Core) (d : VReg) (a : VSrc) (k : Reg3) (t : RType) (o : RedOp) : Option VResult :=
  let m := c.mask k
  let old := c.vec d
  match c.source a with
  | none => none
  | some (c, x) =>
    let (ys, fl) := scanFrom t o m x old (List.range (2048 / t.width)) (o.identity t)
    some (c.setVec d (ofLanes 2048 t.width ys), fl, none)

/-- Mask logic on all 256 bits (06_vector.md R177). -/
def Core.maskOp (c : Core) (d a b : Reg3) (f : KWord → KWord → KWord) : Option VResult :=
  some (c.setMask d (f (c.mask a) (c.mask b)), 0, none)

/-- A permute, select or move: element `i` from the elements of a and b, `n` of them (06_vector.md R180). -/
def Core.permute (c : Core) (d a b : VReg) (k : Reg3) (w : Width) (f : Nat → (Nat → Nat) → (Nat → Nat) → Nat → Nat) :
    Option VResult :=
  let n := widthBits w
  let x := c.vec a
  let y := c.vec b
  some (c.setVec d (masked n (c.mask k) (c.vec d) (f (2048 / n) (lane n x) (lane n y))), 0, none)

/-- `VSEL`: the mask selects and never masks (06_vector.md R180). -/
def Core.select (c : Core) (d a b : VReg) (k : Reg3) (w : Width) : Option VResult :=
  let n := widthBits w
  let m := c.mask k
  let x := c.vec a
  let y := c.vec b
  some (c.setVec d (masked n (BitVec.allOnes 256) 0 fun i => if m.getLsbD i then lane n x i else lane n y i), 0, none)

/-- `VRNG` of a counter under the key K (06_vector.md R183). -/
def rng (key : Word) (n : Nat) : Nat :=
  let x := key ^^^ (BitVec.ofNat 64 n * 0x8F3A61D52C97E44B)
  let x := (x ^^^ (x >>> 31)) * 0xB4E5C2197AD3F0A7
  let x := (x ^^^ (x >>> 29)) * 0x8F3A61D52C97E44B
  let x := x ^^^ (x >>> 32)
  x.toNat % 2 ^ 32

/-- The key of a task's `VRNG` (06_vector.md R183). -/
def Task.rngKey (t : Task) : Word :=
  if t.det || t.nomix then t.launchkey
  else t.launchkey ^^^ (t.launchid.zeroExtend 64 * 0xE71F4D836B2C95D1)

/-- Elements that come from no vector operand, or from one of 32 bits (06_vector.md R181 to R183). -/
def Core.generate (c : Core) (d : VReg) (k : Reg3) (w : Nat) (f : Nat → Nat) : Option VResult :=
  some (c.setVec d (masked w (c.mask k) (c.vec d) f), 0, none)

/-- What an arithmetic instruction of majors 0x18 to 0x1F leaves, from the `g` values read at its push; `none` while a
stream holds it back, or for an instruction of another kind. -/
def Core.compute (c : Core) (e : VEntry) : Option VResult :=
  match e.instr with
  | .vaddF d a b k t => c.floats d a b k t fun f x y _ => f.add x y
  | .vsubF d a b k t => c.floats d a b k t fun f x y _ => f.sum [x, y.negate] false
  | .vmulF d a b k t => c.floats d a b k t fun f x y _ => f.mul x y
  | .vdiv d a b k t => c.floats d a b k t fun f x y _ => f.div x y
  | .vminF d a b k t => c.minmax d a b k t false
  | .vmaxF d a b k t => c.minmax d a b k t true
  | .vfma d a b k t => c.floats (.reg d) a b k t fun f x y z => f.fma false x y z
  | .vfms d a b k t => c.floats (.reg d) a b k t fun f x y z => f.fma false x y z.negate
  | .vfnma d a b k t => c.floats (.reg d) a b k t fun f x y z => f.fma true x y z
  | .vabs d a k t => c.signs d a k t fun w x => x % 2 ^ (w - 1)
  | .vneg d a k t => c.signs d a k t fun w x => x ^^^ 2 ^ (w - 1)
  | .vsqrt d a k t => c.floats d a 0 k t fun f x _ _ => f.sqrt x
  | .vrcp d a k t => c.floats d a 0 k t fun f x _ _ => f.rcp x
  | .vrsq d a k t => c.floats d a 0 k t fun f x _ _ => f.rsq x
  | .vexp2 d a k t => c.floats d a 0 k t fun f x _ _ => f.exp2 x
  | .vaddInt d a b k w => c.ints d a b k w fun _ x y => x + y
  | .vsubInt d a b k w => c.ints d a b k w fun _ x y => (x : Int) - y
  | .vmulInt d a b k w => c.ints d a b k w fun _ x y => x * y
  | .vmulhI d a b k w => c.ints d a b k w fun n x y => toSigned n x * toSigned n y / (2 ^ n : Nat)
  | .vmulhN d a b k w => c.ints d a b k w fun n x y => (x * y / 2 ^ n : Nat)
  | .vminI d a b k w => c.ints d a b k w fun n x y => min (toSigned n x) (toSigned n y)
  | .vminN d a b k w => c.ints d a b k w fun _ x y => (min x y : Nat)
  | .vmaxI d a b k w => c.ints d a b k w fun n x y => max (toSigned n x) (toSigned n y)
  | .vmaxN d a b k w => c.ints d a b k w fun _ x y => (max x y : Nat)
  | .vand d a b k w => c.ints d a b k w fun _ x y => (x &&& y : Nat)
  | .vor d a b k w => c.ints d a b k w fun _ x y => (x ||| y : Nat)
  | .vxor d a b k w => c.ints d a b k w fun _ x y => (x ^^^ y : Nat)
  | .vshl d a b k w => c.ints d a b k w fun n x y => (if n ≤ y then 0 else x <<< y : Nat)
  | .vshr d a b k w => c.ints d a b k w fun n x y => (if n ≤ y then 0 else x >>> y : Nat)
  | .vsar d a b k w => c.ints d a b k w sarInt
  | .vadds d a b k w => c.ints d a b k w addsInt
  | .vcvt d a ovp rtz uns k dst src => (c.convert d a ovp rtz uns k dst src).join
  | .vcmpeq d a b k t => c.compare d a b k t .eq
  | .vcmpne d a b k t => c.compare d a b k t .ne
  | .vcmplt d a b k t => c.compare d a b k t .lt
  | .vcmple d a b k t => c.compare d a b k t .le
  | .vcmpgt d a b k t => c.compare d a b k t .gt
  | .vcmpge d a b k t => c.compare d a b k t .ge
  | .vcmpun d a b k t => c.compare d a b k (match t with | .f32 => .f32 | .bf16 => .bf16 | .f16 => .f16) .un
  | .vrsum d a k t => c.reduce d a k t .sum
  | .vrmin d a k t => c.reduce d a k t .min
  | .vrmax d a k t => c.reduce d a k t .max
  | .vscan d a k t => c.scan d a k t .sum
  | .vscanmin d a k t => c.scan d a k t .min
  | .vscanmax d a k t => c.scan d a k t .max
  | .vrand d a k t => c.reduce d a k t.rtype .and
  | .vror d a k t => c.reduce d a k t.rtype .or
  | .kand d a b => c.maskOp d a b fun x y => x &&& y
  | .kor d a b => c.maskOp d a b fun x y => x ||| y
  | .kxor d a b => c.maskOp d a b fun x y => x ^^^ y
  | .kandn d a b => c.maskOp d a b fun x y => x &&& ~~~y
  | .knot d a => c.maskOp d a a fun x _ => ~~~x
  | .kmov d a => c.maskOp d a a fun x _ => x
  | .vperm d a b k w => c.permute d a b k w fun n x y i => x (y i % n)
  | .vsel d a b k w => c.select d a b k w
  | .vbcast d a b k w => c.permute d a b k w fun n x y _ => x (y 0 % n)
  | .vslup d a b k w => c.permute d a b k w fun _ x y i => if y 0 ≤ i then x (i - y 0) else 0
  | .vsldn d a b k w => c.permute d a b k w fun n x y i => if i + y 0 < n then x (i + y 0) else 0
  | .vzip d a b k w => c.permute d a b k w fun _ x y i => if i % 2 = 0 then x (i / 2) else y (i / 2)
  | .vunzip d a b k w => c.permute d a b k w fun n x y i => if 2 * i < n then x (2 * i) else y (2 * i - n)
  | .vmov d a k w => c.permute d a a k w fun _ x _ i => x i
  | .vrng d a k => c.generate d k 32 fun i => rng e.x (lane 32 (c.vec a) i)
  | .vdqGq4 d a b k =>
    let y := (c.vec b).toNat
    c.generate d k 32 fun j => gq4Decode (lane 4 (c.vec a) j) (field y 32 8) (field y 0 32)
  | .vsplat d _ k w => c.generate d k (widthBits w) fun _ => e.x.toNat
  | .vext d a _ w =>
    let n := widthBits w
    some (c, 0, some (d, BitVec.ofNat 64 (lane n (c.vec a) (e.x.toNat % (2048 / n)))))
  | .viota d k w => c.generate d k (widthBits w) fun i => i
  | _ => none

end Sys2Proof.Machine
end

