-- ==== Sys2Proof/Machine/Unit.lean ====
section
/-! DEFINITION. Memory accesses of queued vector and matrix instructions: checks, faults, reads and writes
(07_scratchpad.md R198, 08_matrix.md R213, R231). -/

namespace Sys2Proof.Machine

/-- A queued instruction as its accesses see it: where its faults and remote reads belong, what it is counted in. -/
structure Agent where
  target : FaultTarget
  token : Nat
  cls : Class
  op : Nat
  /-- Bytes of an element in the sums of DUAL tasks; 0: a write is one element (14_containment.md R371). -/
  elem : Nat := 0
deriving DecidableEq, Repr

/-- What the check of every address came to (R198). -/
inductive UnitCheck where
  | ok (ls : List Loc)
  | kill (cause : BitVec 8)
  /-- Fault entries were written; how many. -/
  | faulted (n : Nat)
  /-- Capability entries of these pages must come first (14_containment.md R348). -/
  | fetch (pages : List Nat)
deriving DecidableEq, Repr

/-- Checks addresses one by one (09_memory.md R236). -/
def State.checkEach (s : State) (t : Task) (acc : Acc) (cap : CapRule) :
    List (Word × Nat) → State × List (Word × Except Denied Loc)
  | [] => (s, [])
  | (va, n) :: rest =>
    let (s, r) := s.checked t acc cap va n 1
    let (s, rs) := s.checkEach t acc cap rest
    (s, (va, r) :: rs)

/-- The first fault of each page of 64 KiB. -/
def pageFaults : List (Word × Except Denied Loc) → List (Word × PageFault) → List (Word × PageFault)
  | [], fs => fs
  | (va, .error (.page f)) :: rest, fs =>
    if fs.any fun x => x.1.toNat / 0x10000 == va.toNat / 0x10000 then pageFaults rest fs else pageFaults rest (fs ++ [(va, f)])
  | _ :: rest, fs => pageFaults rest fs

/-- Checks every address of a queued instruction before any byte is read or written: RANGE or CAPV ends the task; each
faulting page gets one entry (R198). That CAPV of one element goes before RANGE of another is the model's choice (log
entry 43). -/
def State.unitCheck (s : State) (t : Task) (g : Agent) (acc : Acc) (cap : CapRule) (as_ : List (Word × Nat)) :
    State × UnitCheck :=
  let (s, rs) := s.checkEach t acc cap as_
  if rs.any fun r => r.2 matches .error .capv then (s, .kill causeCapv)
  else if rs.any fun r => (r.2 matches .error .range) || (r.2 matches .error .align) || (r.2 matches .error .rapv) then
    (s, .kill causeRange)
  else
    let fs := pageFaults rs []
    if !fs.isEmpty then
      (fs.foldl (fun s (va, f) => s.postEntry t.die (t.faultEntry g.target acc va f.cause f)) s, .faulted fs.length)
    else
      let ps := (rs.filterMap fun r => match r.2 with
        | .error (.fetch p) => some p
        | _ => none).eraseDups
      if !ps.isEmpty then (s, .fetch ps)
      else (s, .ok (rs.filterMap fun r => match r.2 with
        | .ok l => some l
        | .error _ => none))

/-- What reading came to. -/
inductive UnitRead where
  | bytes (bs : List (List Byte))
  /-- Replies of other packages, or the rebuilding of a line, are awaited. -/
  | wait
  /-- The line of this location is in error or poisoned. -/
  | broken (l : Loc)
deriving DecidableEq, Repr

/-- Reads checked locations for a task: local ones through its own stores and overlay, remote ones by remote loads. -/
def State.unitRead (s : State) (t : Task) (g : Agent) : List (Loc × Nat) → State × UnitRead
  | [] => (s, .bytes [])
  | (l, n) :: rest =>
    let here := l.pkg = s.svc.packageId
    let found := if here then s.found l n else .sound
    let (s, got) := if here then
        let (s, bs) := (s.correct l.pa n).taskBytes t l.pa n
        (s.readNow t.uid l.pa n, some bs)
      else
        let (s, bs) := s.readAt (s.who t) g.token l n
        (s, bs.map (overlaid t.overlay (s.overlayKey l)))
    match found, got, s.unitRead t g rest with
    | .rebuild, _, (s, _) => (s, .wait)
    | .poisoned, _, (s, _) | .error, _, (s, _) => (s, .broken { l with pa := s.badLine l.pa n })
    | .sound, some bs, (s, .bytes bss) => (s, .bytes (bs :: bss))
    | .sound, none, (s, .bytes _) => (s, .wait)
    | .sound, _, (s, r) => (s, r)

/-- A read that found its line in error: HWERR for a poisoned line, the charge of an error (15_faults.md R397, R399). -/
def State.unitBroken (s : State) (t : Task) (l : Loc) : State :=
  if s.poisoned l.pa then s.hwerrTask t else s.lineError l.pa

/-- Of writes to one location the last stands (07_scratchpad.md R199, R200). -/
def lastWrites : List (Word × Loc × List Byte) → List (Word × Loc × List Byte)
  | [] => []
  | x :: xs =>
    if xs.any fun y => y.2.1.pkg == x.2.1.pkg && y.2.1.pa == x.2.1.pa then lastWrites xs else x :: lastWrites xs

/-- A DUAL task adds the elements of a write to its sum (14_containment.md R371). -/
def Task.addSums (t : Task) (elem : Nat) (va : Word) (bs : List Byte) : Task :=
  if elem = 0 then t.addSum va bs
  else (List.range (bs.length / elem)).foldl (fun t i =>
    t.addSum (va + BitVec.ofNat 64 (elem * i)) ((bs.drop (elem * i)).take elem)) t

/-- A write of a DUAL task joins its sum, or once the task has ended the totals of its domain (14_containment.md R371). -/
def State.sumWrite (s : State) (t : Task) (elem : Nat) (va : Word) (bs : List Byte) : State :=
  match s.task? t.uid with
  | some _ => s.modTask t.uid (·.addSums elem va bs)
  | none => s.closeSum ({ t with sum := 0 }.addSums elem va bs)

/-- One write of a queued instruction that stays in the package: into a shadow's overlay, to the core's own scratchpad at
once, or on its way to its home (R198; 05_tasks.md R143; 14_containment.md R370). -/
def State.unitStore1 (s : State) (t : Task) (g : Agent) (x : Word × Loc × List Byte) : State :=
  let (va, l, bs) := x
  let s := s.sumWrite t g.elem va bs
  if t.keeps l then s.modTask t.uid fun u => { u with overlay := addOverlay u.overlay (s.overlayKey l) bs }
  else if l.pkg ≠ s.svc.packageId then s
  else if l.scratch && scratchCore l.pa == t.ci then
    let w : Writer := { uid := t.uid, core := some t.ci, means := if g.cls = .mx then .matrix else .unit }
    (s.perform w l.pa bs).setTag l.pa t.tag
  else
    { s with requests := s.requests ++
        [⟨s.who t, t.index, l.pa, .store bs, if g.cls = .fb then .none else g.cls, some t.tag, g.op, [], 0⟩] }

/-- Do writes cover a line of this package wholly? -/
def State.coversLine (s : State) (ws : List (Word × Loc × List Byte)) (k : Nat) : Bool :=
  (List.range 64).all fun i => ws.any fun x =>
    x.2.1.pkg == s.svc.packageId && x.2.1.pa ≤ 64 * k + i && 64 * k + i < x.2.1.pa + x.2.2.length

/-- Do the writes of a queued instruction touch a poisoned line that they do not write whole (15_faults.md R397)? -/
def State.unitHits (s : State) (ws : List (Word × Loc × List Byte)) : Bool :=
  !s.poison.isEmpty && ws.any fun x => x.2.1.pkg == s.svc.packageId
    && (linesOf x.2.1.pa x.2.2.length).any fun k => s.poison.contains k && !s.coversLine ws k

/-- The writes of a queued instruction, of which the last to a location stands; those to other packages leave as
uncounted remote stores, one for each line (13_fabric.md R324). Its count is left when all of them have
been made (05_tasks.md R143). -/
def State.unitStore (s : State) (t : Task) (g : Agent) (ws : List (Word × Loc × List Byte)) : State :=
  let s : State := { s with poison := s.poison.filter fun k => !s.coversLine ws k }
  let last := lastWrites ws
  let far := (last.filter fun x => x.2.1.pkg != s.svc.packageId && !t.keeps x.2.1).flatMap fun x =>
    (cutLines x.2.1.pa x.2.2).map fun c => (x.2.1.pkg, c.1, c.2)
  let s := last.foldl (fun s x => s.unitStore1 t g x) s
  let s := (byLine far).foldl (fun s x => s.send x.1 (s.who t) (.store ⟨s.who t, x.2⟩) g.cls g.op) s
  s.settle t.uid g.cls g.op

/-- Asks for capability entries, each once (14_containment.md R348): the pages asked for now. -/
def State.askCaps (s : State) (t : Task) (asked pages : List Nat) : State × List Nat :=
  let new := pages.filter fun p => !asked.contains p
  (new.foldl (fun s p => s.send (s.capHome t.ctxid) (s.who t) (.capFetch t.uid t.ctxid p)) s, asked ++ new)

end Sys2Proof.Machine
end

