-- ==== Sys2Proof/Machine/Vector.lean ====
section
/-! DEFINITION. The vector queue and its arbiter, streams, and the instructions of majors 0x18 to 0x23
(06_vector.md, 07_scratchpad.md R190 to R203, 13_fabric.md R342). -/

namespace Sys2Proof.Machine

/-- The destination and first source of a vector instruction that may be streams (03_encoding.md R82). -/
def vectorOperands : Instr → Option VDst × Option VSrc
  | .vaddF d a _ _ _ | .vsubF d a _ _ _ | .vmulF d a _ _ _ | .vdiv d a _ _ _ | .vminF d a _ _ _ | .vmaxF d a _ _ _
  | .vabs d a _ _ | .vneg d a _ _ | .vsqrt d a _ _ | .vrcp d a _ _ | .vrsq d a _ _ | .vexp2 d a _ _
  | .vaddInt d a _ _ _ | .vsubInt d a _ _ _ | .vmulInt d a _ _ _ | .vmulhI d a _ _ _ | .vmulhN d a _ _ _
  | .vminI d a _ _ _ | .vminN d a _ _ _ | .vmaxI d a _ _ _ | .vmaxN d a _ _ _ | .vand d a _ _ _ | .vor d a _ _ _
  | .vxor d a _ _ _ | .vshl d a _ _ _ | .vshr d a _ _ _ | .vsar d a _ _ _ | .vadds d a _ _ _
  | .vcvt d a _ _ _ _ _ _ => (some d, some a)
  | .vfma _ a _ _ _ | .vfms _ a _ _ _ | .vfnma _ a _ _ _ | .vcmpeq _ a _ _ _ | .vcmpne _ a _ _ _ | .vcmplt _ a _ _ _
  | .vcmple _ a _ _ _ | .vcmpgt _ a _ _ _ | .vcmpge _ a _ _ _ | .vcmpun _ a _ _ _ | .vrsum _ a _ _ | .vrmin _ a _ _
  | .vrmax _ a _ _ | .vscan _ a _ _ | .vscanmin _ a _ _ | .vscanmax _ a _ _ | .vrand _ a _ _ | .vror _ a _ _ =>
    (none, some a)
  | _ => (none, none)

/-- Direction of a stream's binding in push order, when it is bound (07_scratchpad.md R193). -/
def Core.pushedStream (c : Core) (q : Reg3) : Option Bool :=
  c.vq.foldl (fun b e => match e.instr with
    | .qbind q' _ => if q' = q then e.bind.map (·.output) else b
    | .qflush q' => if q' = q then none else b
    | _ => b) (c.q[q.toNat].map (·.output))

/-- Are the streams that an instruction names bound, in their directions (07_scratchpad.md R193)? -/
def Core.streamsFit (c : Core) (i : Instr) : Bool :=
  (match (vectorOperands i).2 with
    | some (.stream q) => c.pushedStream q == some false
    | _ => true)
  && match (vectorOperands i).1 with
    | some (.stream q) => c.pushedStream q == some true
    | _ => true

/-- Has every stream operand of the instruction the vector, or the room, that it needs (07_scratchpad.md R193)? -/
def Core.streamsReady (c : Core) (i : Instr) : Bool :=
  (match (vectorOperands i).2 with
    | some (.stream q) => c.q[q.toNat].all fun x => x.total ≤ x.pos || !x.buffer.isEmpty
    | _ => true)
  && match (vectorOperands i).1 with
    | some (.stream q) => c.q[q.toNat].all fun x => x.total ≤ x.pos || x.buffer.length < 4
    | _ => true

/-- Vector weight of a partition (06_vector.md R161, 16_system.md R413). -/
def State.vectorWeight (s : State) (p : Nat) : Nat := field (s.part p).pqos.toNat 8 8

/-- The four cores of a quad. -/
def coresOf (qi : Nat) : List Nat := (List.range 4).map (· + 4 * qi)

/-- Can the head of a core's queue take a quarter (R162, R163)? -/
def State.vectorEligible (s : State) (ci : Nat) : Bool :=
  s.unitsRun ci && match (s.core ci).vq with
    | e :: _ => e.quarters != 0 && (s.core ci).streamsReady e.instr
    | [] => false

/-- The weight of a core's head in step 2; 0 without one (R162). -/
def State.headWeight (s : State) (ci : Nat) : Nat := ((s.core ci).vq.head?.map fun e => s.vectorWeight e.part).getD 0

/-- The smallest virtual time of some cores, lower numbers first. -/
def State.earliestCore (s : State) (time : Core → BitVec 32) (cs : List Nat) : Option Nat :=
  earliest (fun ci => time (s.core ci)) cs

/-- A queue that turns non-empty: its virtual time is raised to the smallest of the eligible cores (R162). -/
def State.joinVector (s : State) (ci : Nat) : State :=
  let others := (coresOf (quadOf ci)).filter fun o => o != ci && s.vectorEligible o
  match s.earliestCore (·.vtime) others with
  | none => s
  | some o =>
    let m := (s.core o).vtime
    s.modCore ci fun c => if timeBefore c.vtime m then { c with vtime := m } else c

/-- The smallest virtual time of the cores that may take a weighted grant is looked at: when it has passed a multiple of
2^30 the times of the others that lie behind are raised to it (R162, 05_tasks.md R123). -/
def State.settleVector (s : State) (qi : Nat) : State :=
  let able := (coresOf qi).filter fun ci => s.vectorEligible ci && s.headWeight ci != 0
  match (s.earliestCore (·.vtime) able).map fun ci => (s.core ci).vtime with
  | none => s
  | some now =>
    let low := (s.quad qi).vlow
    ((coresOf qi).filter fun x => !able.contains x).foldl
      (fun s x => s.modCore x fun c => { c with vtime := raised low now c.vtime }) (s.modQuad qi ({ · with vlow := now }))

/-- An entry joins its core's vector queue (R159, R162). -/
def State.enterVector (s : State) (ci : Nat) (e : VEntry) : State :=
  let s := s.tick
  let s := if (s.core ci).vq.isEmpty then s.joinVector ci else s
  s.modCore ci fun c => c.withQueue (c.vq ++ [{ e with serial := s.clock }])

/-- Pushes an instruction into its core's vector queue (R159, 05_tasks.md R144). -/
def push (s : State) (t : Task) (i : Instr) (cls : Class) (x y z : Word) (quarters : Nat) (b : Option Stream)
    (far : Bool := cls == .fb) : Out State :=
  withRoom s t cls <|
    if 32 ≤ (s.core t.ci).vq.length then .next (s.stall t .none)
    else
      let e : VEntry := { serial := 0, instr := i, uid := t.uid, part := t.part, x := x, y := y, z := z,
                          quarters := quarters, cls := cls, bind := b, far := far }
      complete (s.enterVector t.ci e) (t.count cls)

/-- Pushes an instruction that issue waits for: its task stalls (R175, 07_scratchpad.md R202). -/
def pushSync (s : State) (t : Task) (i : Instr) (cls : Class) (x : Word) (quarters : Nat) : Out State :=
  withRoom s t cls <|
    if 32 ≤ (s.core t.ci).vq.length then .next (s.stall t .none)
    else
      let e : VEntry := { serial := 0, instr := i, uid := t.uid, part := t.part, x := x, quarters := quarters, cls := cls,
                          sync := true, far := cls == .fb }
      .next ((s.enterVector t.ci e).stall (t.count cls) .none)

/-- Pushes an arithmetic instruction, whose streams must fit (R168). -/
def pushLanes (i : Instr) (s : State) : Out State := withTask s fun t =>
  require s t ((s.core t.ci).streamsFit i) <| push s t i .none 0 0 0 4 none

/-- The head of a core's queue has completed: VSHARE goes on showing its weight (R161). -/
def Core.popVector (c : Core) : Core :=
  c.withQueue (c.vq.drop 1)

/-- Owner tags and serials for the vectors that a stream has just been given. -/
def Core.tagProduced (c : Core) (g : Tag) (serial : Nat) : Core :=
  { c with q := c.q.map fun x => x.map fun x =>
      if x.output && x.tags.length < x.buffer.length then
        { x with tags := x.tags ++ [g], serials := x.serials ++ [serial] } else x }

/-- The effects of an arithmetic instruction on its core, and its flags and `g` register on its task (R159, R166,
R181). -/
def State.vectorResult (s : State) (ci : Nat) (e : VEntry) (r : VResult) : State :=
  let t := if e.dropped then none else s.task? e.uid
  let tag := (t.map (·.tag)).getD .clean
  let s := s.setCore ci (r.1.tagProduced tag e.serial).popVector
  if e.dropped then s
  else
    let s := s.modTask e.uid fun t =>
      let t := t.raise r.2.1
      match r.2.2 with
      | some (d, v) => t.setG d v
      | none => t
    s.settle e.uid e.cls 0

/-- Does a quarter of an instruction hold its lane group for four cycles (R160)? -/
def longInstr (i : Instr) : Bool := (i matches .vdiv ..) || (i matches .vsqrt ..)

/-- Does the head of a core's queue do so? -/
def Core.longHead (c : Core) : Bool := c.vq.head?.any fun e => longInstr e.instr

/-- One lane group goes to a core: a quarter of its head starts; the last one completes it, unless issue waits for its
outcome (R158, R160, R162, R175). -/
def State.grantGroup (s : State) (ci : Nat) : State :=
  match (s.core ci).vq with
  | [] => s
  | e :: rest =>
    let s := if longInstr e.instr then s.modQuad (quadOf ci) fun q => { q with busy := q.busy ++ [3] } else s
    if e.quarters = 1 && !e.sync then
      match (s.core ci).compute e with
      | some r => s.vectorResult ci e r
      | none => s.modCore ci (·.popVector)
    else s.modCore ci fun c => { c with vq := { e with quarters := e.quarters - 1, started := true } :: rest }

/-- Step 2 of a cycle: lane groups by weight (R162). A cycle starts at most one quarter of a division or square root,
`room` saying whether it may still start one, so that the group reserved in each cycle is free (R163; log entry 82). -/
def State.weightedGrants (s : State) (qi : Nat) (room : Bool) : Nat → State
  | 0 => s
  | n + 1 =>
    let able := (coresOf qi).filter fun ci => s.vectorEligible ci && s.headWeight ci != 0 && (room || !(s.core ci).longHead)
    match s.earliestCore (·.vtime) able with
    | none => s
    | some ci =>
      let d := BitVec.ofNat 32 (65536 / s.headWeight ci)
      let room := room && !(s.core ci).longHead
      (((s.modCore ci fun c => { c with vtime := c.vtime + d }).settleVector qi).grantGroup ci).weightedGrants qi room n

/-- Active lanes of a width. -/
def Core.activeLanes (c : Core) (k : Reg3) (w : Nat) : List Nat :=
  (List.range (2048 / w)).filter fun i => (c.mask k).getLsbD i

/-- Addresses of active lanes at a stride (07_scratchpad.md R199). -/
def Core.strided (c : Core) (k : Reg3) (w : Nat) (x y : Word) : List (Nat × Word) :=
  (c.activeLanes k w).map fun i => (i, x + y * BitVec.ofNat 64 i)

/-- Addresses of active lanes by index, and the lanes whose index is out of bound (07_scratchpad.md R200). -/
def Core.indexed (c : Core) (b : VReg) (k : Reg3) (w : Nat) (base bound : Word) : List (Nat × Word) × List Nat :=
  let act := c.activeLanes k w
  let idx := fun j => lane w (c.vec b) j
  ((act.filter fun j => idx j < bound.toNat).map fun j => (j, base + BitVec.ofNat 64 (idx j * (w / 8))),
   act.filter fun j => bound.toNat ≤ idx j)

/-- Clears the mask bits of lanes out of bound (07_scratchpad.md R200). -/
def Core.clearLanes (c : Core) (k : Reg3) (out : List Nat) : Core :=
  c.setMask k (ofBits 256 ((List.range 256).map fun i => (c.mask k).getLsbD i && !out.contains i))

/-- Replaces the head of a core's vector queue. -/
def State.setHead (s : State) (ci : Nat) (e : VEntry) : State :=
  s.modCore ci fun c => c.withQueue (e :: c.vq.drop 1)

/-- The head's accesses (07_scratchpad.md R198). -/
def VEntry.agent (e : VEntry) (ci : Nat) : Agent := ⟨.vector ci e.serial, tokenVector e.serial, e.cls, e.serial, 0⟩

/-- Goes on with checked addresses of the head, or handles what the check found; `none` while nothing can be done
(07_scratchpad.md R198). -/
def State.withChecked (s : State) (ci : Nat) (e : VEntry) (t : Task) (acc : Acc) (cap : CapRule)
    (as_ : List (Word × Nat)) (k : State → List Loc → Option State) : Option State :=
  if as_.any fun a => s.watermarked ci a.1 a.2 then none
  else match s.unitCheck t (e.agent ci) acc cap as_ with
  | (s, .kill c) => some (s.softwareError t c)
  | (s, .faulted n) => some (s.setHead ci { e with pending := n })
  | (s, .fetch ps) =>
    let (s', asked) := s.askCaps t e.asked ps
    if asked.length = e.asked.length then none else some (s'.setHead ci { e with asked := asked })
  | (s, .ok ls) => k s ls

/-- Goes on with the bytes at checked locations; `none` while replies are awaited. The requests that the reading made
stay made. -/
def State.withRead (s : State) (ci : Nat) (e : VEntry) (t : Task) (ls : List (Loc × Nat))
    (k : State → List (List Byte) → Option State) : Option State :=
  match s.unitRead t (e.agent ci) ls with
  | (s, .bytes bss) => k s bss
  | (s, .broken l) => some (s.unitBroken t l)
  | (s', .wait) => if s'.reads.length = s.reads.length then none else some s'

/-- The head has completed. -/
def State.finishVector (s : State) (ci : Nat) (e : VEntry) : State :=
  ((s.modCore ci (·.popVector)).dropReads (tokenVector e.serial)).settle e.uid e.cls e.serial

/-- A vector load of elements into a register; lanes out of bound become 0 (07_scratchpad.md R198 to R200). -/
def State.vectorLoad (s : State) (ci : Nat) (e : VEntry) (t : Task) (d : VReg) (k : Reg3) (w : Nat)
    (els : List (Nat × Word)) (out : List Nat) : Option State :=
  s.withChecked ci e t .vload .none (els.map fun x => (x.2, w / 8)) fun s ls =>
    s.withRead ci e t (ls.map fun l => (l, w / 8)) fun s bss =>
      let vals := List.zipWith (fun (x : Nat × Word) bs => (x.1, leNat bs)) els bss
      let new := fun (c : Core) => (List.range (2048 / w)).map fun i => match vals.find? (·.1 == i) with
        | some x => x.2
        | none => if out.contains i then 0 else lane w (c.vec d) i
      some ((s.modCore ci fun c => (c.setVec d (ofLanes 2048 w (new c))).clearLanes k out).finishVector ci e)

/-- A vector store of elements. With an element homed in another package it is counted in `fb` instead of `st`: where its
issue could not tell, its count is put right here (07_scratchpad.md R198 to R200; log entry 40). -/
def State.vectorStore (s : State) (ci : Nat) (e : VEntry) (t : Task) (k : Reg3) (out : List Nat)
    (els : List (Word × List Byte)) : Option State :=
  s.withChecked ci e t .vstore .store (els.map fun x => (x.1, x.2.length)) fun s ls =>
    let cls := if ls.any fun l => l.pkg != s.svc.packageId && !t.keeps l then Class.fb else .st
    if cls ≠ e.cls && t.full cls then none
    else if (List.zip ls els).any fun x => s.writeHeld ci e.serial x.1 x.2.2.length then none
    else
      let ws := List.zipWith (fun (x : Word × List Byte) l => (x.1, l, x.2)) els ls
      if s.unitHits ws then some (s.hwerrTask t) else
      let s := if cls = e.cls then s else s.modTask t.uid fun u => (u.uncount e.cls).count cls
      let e := { e with cls := cls }
      let s := s.unitStore t (e.agent ci) ws
      some (s.modCore ci fun c => (c.clearLanes k out).popVector)

/-- A counted vector store: no scratchpad address, and one counted write per address (13_fabric.md R342). -/
def State.vectorCounted (s : State) (ci : Nat) (e : VEntry) (t : Task) (k : Reg3) (out : List Nat)
    (els : List (Word × List Byte)) : Option State :=
  s.withChecked ci e t .vstore .store (els.map fun x => (x.1, x.2.length)) fun s ls =>
    if ls.any (·.scratch) then some (s.softwareError t causeRange)
    else
      let ws := List.zipWith (fun (x : Word × List Byte) l => (x.1, l, x.2)) els ls
      let last := lastWrites ws
      let s := last.foldl (fun s (x : Word × Loc × List Byte) =>
        let s := s.sumWrite t 0 x.1 x.2.2
        if t.keeps x.2.1 then s.modTask t.uid fun u =>
          { u with overlay := addOverlay u.overlay (s.overlayKey x.2.1) x.2.2 }
        else s) s
      let sent := (last.filter fun x => !t.keeps x.2.1).map fun x => (x.2.1.pkg, x.2.1.pa, x.2.2)
      let s := (byLine sent).foldl (fun s x => s.sendCounted t e.z.toNat x.1 x.2 e.serial) s
      some ((s.modCore ci fun c => (c.clearLanes k out).popVector).settle t.uid .fb e.serial)

/-- Bytes of lanes of a register. -/
def Core.laneBytes (c : Core) (d : VReg) (w : Nat) (els : List (Nat × Word)) : List (Word × List Byte) :=
  els.map fun x => (x.2, leBytes (w / 8) (lane w (c.vec d) x.1))

/-- `VLDZ.bf16`: the mask, then as many values as it has bits (07_scratchpad.md R203). -/
def State.vectorLoadSparse (s : State) (ci : Nat) (e : VEntry) (t : Task) (d : VReg) (k : Reg3) : Option State :=
  s.withChecked ci e t .vload .none [(e.x + 8, 8), (e.x + 16, 8)] fun s ls =>
    s.withRead ci e t (ls.map fun l => (l, 8)) fun s ms =>
      let m := leNat ms.flatten
      let n := countBits 128 m
      let vas := (List.range n).map fun j => (e.x + 24 + 2 * BitVec.ofNat 64 j, 2)
      s.withChecked ci e t .vload .none vas fun s ls =>
        s.withRead ci e t (ls.map fun l => (l, 2)) fun s vs =>
          let val := fun i => if m.testBit i then leNat (vs.getD (countBits i m) []) else 0
          some ((s.modCore ci fun c => c.setVec d (masked 16 (c.mask k) (c.vec d) val)).finishVector ci e)

/-- The elements that `VSTZ` stores: active and not 0x0000 (07_scratchpad.md R201). -/
def Core.sparseLanes (c : Core) (d : VReg) (k : Reg3) : List Nat :=
  (c.activeLanes k 16).filter fun i => lane 16 (c.vec d) i != 0

/-- What `VSTZ` writes at an address: header, mask, values (07_scratchpad.md R201, R202). -/
def Core.sparseRecord (c : Core) (d : VReg) (k : Reg3) (cap : Nat) (a : Word) : List (Word × List Byte) :=
  let is := c.sparseLanes d k
  let m := (is.map (2 ^ ·)).sum
  let vals := is.zipIdx.map fun x => (a + 24 + 2 * BitVec.ofNat 64 x.2, leBytes 2 (lane 16 (c.vec d) x.1))
  [(a, leBytes 8 (is.length + cap * 0x10000)), (a + 8, leBytes 8 (m % 2 ^ 64)), (a + 16, leBytes 8 (m / 2 ^ 64))] ++ vals

/-- The capacity of a sparse record is read for the `VSTZ` at the head (07_scratchpad.md R202). -/
def State.sparseCapacity (s : State) (ci : Nat) (e : VEntry) (t : Task) : Option State :=
  s.withChecked ci e t .vload .none [(e.x, 8)] fun s ls =>
    s.withRead ci e t (ls.map fun l => (l, 8)) fun s bss =>
      some (s.setHead ci { e with capacity := some (field (leNat bss.flatten) 16 16) })

/-- One vector of a stream to its place in the scratchpad. -/
def State.writeVector (s : State) (ci : Nat) (x : Stream) (n : Nat) (v : VWord) (g : Tag) : State :=
  let a := scratchKey ci (x.addr n)
  (List.range 4).foldl (fun s i =>
    (s.perform { uid := 0, core := some ci, means := .stream } (a + 64 * i)
      (leBytes 64 (field v.toNat (512 * i) 512))).setTag (a + 64 * i) g) s

/-- Is a stream transfer of 256 bytes held back by a watermark (12_copy.md R314)? -/
def State.streamHeld (s : State) (ci o : Nat) : Bool :=
  s.watermarked ci (BitVec.ofNat 64 (0xFFFFFFFFFFFC0000 + o)) 256 || s.watermarked ci (BitVec.ofNat 64 (scratchKey ci o)) 256

/-- May an output stream write its buffered vectors now: none is held back by a watermark, or by a matrix read that an
older instruction has still to make (12_copy.md R314; 08_matrix.md R231)? -/
def State.drainable (s : State) (ci : Nat) (q : Reg3) : Bool :=
  match (s.core ci).q[q.toNat] with
  | none => true
  | some x => !x.output || (x.serials.zipIdx.all fun y =>
      let o := x.addr (x.moved + y.2)
      !s.streamHeld ci o && !s.matrixReads ci y.1 o 256)

/-- Writes what an output stream has buffered (07_scratchpad.md R192). -/
def State.drainStream (s : State) (ci : Nat) (q : Reg3) : State :=
  match (s.core ci).q[q.toNat] with
  | none => s
  | some x =>
    if !x.output then s
    else
      let s := (x.buffer.zip x.tags).zipIdx.foldl (fun s y => s.writeVector ci x (x.moved + y.2) y.1.1 y.1.2) s
      let y := { x with moved := x.moved + x.buffer.length, buffer := [], tags := [], serials := [] }
      s.modCore ci fun c => { c with q := c.q.set q.toNat (some y) }

/-- `QFLUSH` of a stream (07_scratchpad.md R195). -/
def State.flushStream (s : State) (ci : Nat) (q : Reg3) : State :=
  (s.drainStream ci q).modCore ci fun c => { c with q := c.q.set q.toNat none }

/-- Executes the memory or stream instruction at the head of a core's queue; `none` while it must wait. -/
def State.vectorMemoryOp (s : State) (ci : Nat) (e : VEntry) : Option State :=
  let c := s.core ci
  match e.instr, (s.task? e.uid).or e.issuer with
  | .vcvt d a ovp rtz uns k dst src, _ =>
    if !e.dropped then none
    else (c.convert d a ovp rtz uns k dst src).map fun
      | some r => s.vectorResult ci e r
      | none => s.modCore ci (·.popVector)
  | .qbind q _, _ =>
    if !s.drainable ci q then none
    else some (((s.flushStream ci q).modCore ci fun c => { c with q := c.q.set q.toNat e.bind }).modCore ci (·.popVector))
  | .qflush q, _ => if !s.drainable ci q then none else some ((s.flushStream ci q).modCore ci (·.popVector))
  | _, none => some (s.modCore ci (·.popVector))
  | i, some t =>
    if e.pending ≠ 0 then none
    else match i with
      | .vld d _ _ k w | .vlds d _ _ k w =>
        let n := widthBits w
        s.vectorLoad ci e t d k n (c.strided k n e.x e.y) []
      | .vst d _ _ k w | .vsts d _ _ k w =>
        let n := widthBits w
        s.vectorStore ci e t k [] (c.laneBytes d n (c.strided k n e.x e.y))
      | .vgath d _ b k w =>
        let n := widthBits w
        let (els, out) := c.indexed b k n e.x e.y
        s.vectorLoad ci e t d k n els out
      | .vscat d _ b k w =>
        let n := widthBits w
        let (els, out) := c.indexed b k n e.x e.y
        s.vectorStore ci e t k out (c.laneBytes d n els)
      | .vstc d _ _ k w =>
        let n := widthBits w
        s.vectorCounted ci e t k [] (c.laneBytes d n (c.strided k n e.x e.y))
      | .vscatc d _ b k w =>
        let n := widthBits w
        let (els, out) := c.indexed b k n e.x e.y
        s.vectorCounted ci e t k out (c.laneBytes d n els)
      | .vldzBf16 d _ k => s.vectorLoadSparse ci e t d k
      | .vstzBf16 d _ k =>
        match e.sync, e.capacity with
        | true, none => s.sparseCapacity ci e t
        | true, some _ => none
        | false, cap => s.vectorStore ci e t k [] (c.sparseRecord d k (cap.getD 0) e.x)
      | _ => some (s.modCore ci (·.popVector))

/-- The head of a core's queue, when it is a memory or stream instruction, executes if it can. -/
def State.memoryHead (s : State) (ci : Nat) : Option State :=
  if !s.unitsRun ci then none
  else match (s.core ci).vq with
    | e :: _ => if e.quarters = 0 then s.vectorMemoryOp ci e else none
    | [] => none

/-- The memory heads of some cores. -/
def State.memoryHeads (s : State) : List Nat → State × Bool
  | [] => (s, false)
  | ci :: rest =>
    match s.memoryHead ci with
    | some s => ((s.memoryHeads rest).1, true)
    | none => s.memoryHeads rest

/-- One cycle of a quad's vector unit: the reserved grant, then the weighted ones, of the groups that no division holds;
whether anything was done (R162). -/
def State.vectorCycle (s : State) (qi : Nat) : State × Bool :=
  let (s, moved) := s.memoryHeads (coresOf qi)
  let q := s.quad qi
  let able := (coresOf qi).any s.vectorEligible
  let free := 4 - q.busy.length
  let s := (s.setQuad qi { q with vcycle := (q.vcycle + 1) % 4, busy := (q.busy.map (· - 1)).filter (· != 0) }).settleVector qi
  let own := 4 * qi + q.vcycle % 4
  let s := if free = 0 then s
    else if s.vectorEligible own then (s.grantGroup own).weightedGrants qi (!(s.core own).longHead) (free - 1)
    else s.weightedGrants qi true free
  (s, moved || able)

/-- VECTOR_ARBITER_CYCLE (R162). -/
def execVectorArbiterCycle (die quad : Nat) (s : State) : Out State := .next (s.vectorCycle (64 * die + quad)).1

/-- One vector passes a stream's transfer unit; `none` when there is nothing to do (07_scratchpad.md R192). -/
def State.streamStep (s : State) (ci : Nat) (q : Reg3) : Option State :=
  match (s.core ci).q[q.toNat] with
  | none => none
  | some x =>
    let o := x.addr x.moved
    let put := fun (s : State) (x : Stream) => s.modCore ci fun c => { c with q := c.q.set q.toNat (some x) }
    if !s.unitsRun ci || s.streamHeld ci o then none
    else if x.output then
      match x.buffer, x.tags, x.serials with
      | v :: vs, g :: gs, n :: ns =>
        if s.matrixReads ci n o 256 then none
        else some (put (s.writeVector ci x x.moved v g)
          { x with moved := x.moved + 1, buffer := vs, tags := gs, serials := ns })
      | _, _, _ => none
    else if x.moved < x.total && x.buffer.length < 4 then
      let a := scratchKey ci o
      if s.unsound a 256 then some ((List.range 4).foldl (fun s i =>
        if s.unsound (a + 64 * i) 64 then s.lineError (a + 64 * i) else s) s)
      else
        let (s, bs) := (s.correct a 256).fetchBytes a 256
        some (put s { x with moved := x.moved + 1, buffer := x.buffer ++ [BitVec.ofNat 2048 (leNat bs)] })
    else none

/-- STREAM_TRANSFER (07_scratchpad.md R192). -/
def execStreamTransfer (core q : Nat) (s : State) : Out State := .next ((s.streamStep core (BitVec.ofNat 3 q)).getD s)

/-- Pushes a vector memory instruction, whose base and stride must be multiples of the element size (07_scratchpad.md
R198). -/
def pushMemory (s : State) (t : Task) (i : Instr) (cls : Class) (w : Width) (x y z : Word) (stride : Bool)
    (far : Bool := cls == .fb) : Out State :=
  let z_ := widthBits w / 8
  if x.toNat % z_ ≠ 0 ∨ (stride ∧ y.toNat % z_ ≠ 0) then trap s t causeAlign else push s t i cls x y z 0 none far

/-- Bytes of an element as a stride. -/
def unitStride (w : Width) : Word := BitVec.ofNat 64 (widthBits w / 8)

/-- The register after `g`a of a group. -/
def Task.after (t : Task) (a : GReg) (n : Nat) : Word := t.greg (a + BitVec.ofNat 5 n)

/-- Is the home of an address another package, as its page's leaf stands (05_tasks.md R143)? -/
def State.homedElsewhere (s : State) (t : Task) (va : Word) : Bool :=
  (scratchOf t.ci va).isNone && match s.lookup t.ctxid .vstore va with
    | .ok (_, l) => l.pkg != s.svc.packageId
    | .error _ => false

/-- Is any of some addresses homed in another package? The accesses of a shadow stay in the package. -/
def State.anyElsewhere (s : State) (t : Task) (as_ : List Word) : Bool :=
  !t.isShadow && ((as_.map fun a => a.toNat / 0x10000).eraseDups).any fun p =>
    s.homedElsewhere t (BitVec.ofNat 64 (p * 0x10000))

/-- The class that a vector store enters at issue: `fb` when an element is homed in another package (05_tasks.md R143,
07_scratchpad.md R198; log entry 40). -/
def State.storeClass (s : State) (t : Task) (els : List (Nat × Word)) : Class :=
  if s.anyElsewhere t (els.map (·.2)) then .fb else .st

/-- Does an instruction write a mask? -/
def writesMask (k : Reg3) : Instr → Bool
  | .vcmpeq d .. | .vcmpne d .. | .vcmplt d .. | .vcmple d .. | .vcmpgt d .. | .vcmpge d .. | .vcmpun d .. | .kand d _ _
  | .kor d _ _ | .kxor d _ _ | .kandn d _ _ | .knot d _ | .kmov d _ => d == k
  | .vgath _ _ _ j _ | .vscat _ _ _ j _ | .vscatc _ _ _ j _ => j == k
  | _ => false

/-- Does an instruction write a vector register? -/
def writesVector (v : VReg) (i : Instr) : Bool :=
  (vectorOperands i).1 == some (.reg v) || match i with
  | .vfma d .. | .vfms d .. | .vfnma d .. | .vrsum d .. | .vrmin d .. | .vrmax d .. | .vscan d .. | .vscanmin d ..
  | .vscanmax d .. | .vrand d .. | .vror d .. | .vperm d .. | .vsel d .. | .vbcast d .. | .vslup d .. | .vsldn d ..
  | .vzip d .. | .vunzip d .. | .vmov d .. | .vdqGq4 d .. | .viota d .. | .vsplat d .. | .vrng d .. | .vld d ..
  | .vlds d .. | .vgath d .. | .vldzBf16 d .. => d == v
  | _ => false

/-- May queued instructions of a core still change a mask, or an index register? -/
def Core.unsettled (c : Core) (k : Reg3) (index : Option VReg) : Bool :=
  c.vq.any fun e => (k != 0 && writesMask k e.instr) || index.any fun v => writesVector v e.instr

/-- Issue of a vector store stalls while the class that it enters hangs on a mask or an index register that queued
instructions may still change: with every lane active, `reach` says, or by an index, it might leave the package
(05_tasks.md R143, R144; 13_fabric.md R331; log entry 40). -/
def classed (s : State) (t : Task) (k : Reg3) (index : Option VReg) (reach : Bool) (go : Out State) : Out State :=
  if reach && !t.isShadow && (s.core t.ci).unsettled k index then .next (s.stall t .none) else go

/-- Does any lane of a strided access, active or not, lie in another package? -/
def State.stridedFar (s : State) (t : Task) (w : Width) (x y : Word) : Bool :=
  s.anyElsewhere t (((s.core t.ci).strided 0 (widthBits w) x y).map (·.2))

/-- `VLD` (07_scratchpad.md R199). -/
def execVld (d : VReg) (a b : GReg) (k : Reg3) (w : Width) (s : State) : Out State := withTask s fun t =>
  let x := t.greg a + t.greg b
  pushMemory s t (.vld d a b k w) .ld w x (unitStride w) 0 false (s.stridedFar t w x (unitStride w))

/-- `VST` (07_scratchpad.md R199). -/
def execVst (d : VReg) (a b : GReg) (k : Reg3) (w : Width) (s : State) : Out State := withTask s fun t =>
  let x := t.greg a + t.greg b
  let cls := s.storeClass t ((s.core t.ci).strided k (widthBits w) x (unitStride w))
  classed s t k none (s.stridedFar t w x (unitStride w)) <| pushMemory s t (.vst d a b k w) cls w x (unitStride w) 0 false

/-- `VLDS` (07_scratchpad.md R199). -/
def execVlds (d : VReg) (a b : GReg) (k : Reg3) (w : Width) (s : State) : Out State := withTask s fun t =>
  pushMemory s t (.vlds d a b k w) .ld w (t.greg a) (t.greg b) 0 true (s.stridedFar t w (t.greg a) (t.greg b))

/-- `VSTS` (07_scratchpad.md R199). -/
def execVsts (d : VReg) (a b : GReg) (k : Reg3) (w : Width) (s : State) : Out State := withTask s fun t =>
  let cls := s.storeClass t ((s.core t.ci).strided k (widthBits w) (t.greg a) (t.greg b))
  classed s t k none (s.stridedFar t w (t.greg a) (t.greg b)) <|
    pushMemory s t (.vsts d a b k w) cls w (t.greg a) (t.greg b) 0 true

/-- `VGATH` (07_scratchpad.md R200). -/
def execVgath (d : VReg) (a : GReg) (b : VReg) (k : Reg3) (w : Width) (s : State) : Out State := withTask s fun t =>
  let c := s.core t.ci
  let els := (c.indexed b 0 (widthBits w) (t.greg a) (t.after a 1)).1
  pushMemory s t (.vgath d a b k w) .ld w (t.greg a) (t.after a 1) 0 false
    (c.unsettled 0 (some b) || s.anyElsewhere t (els.map (·.2)))

/-- `VSCAT` (07_scratchpad.md R200). -/
def execVscat (d : VReg) (a : GReg) (b : VReg) (k : Reg3) (w : Width) (s : State) : Out State := withTask s fun t =>
  classed s t k (some b) true <| pushMemory s t (.vscat d a b k w)
    (s.storeClass t ((s.core t.ci).indexed b k (widthBits w) (t.greg a) (t.after a 1)).1) w (t.greg a) (t.after a 1) 0
    false

/-- `VSTC` (13_fabric.md R342). -/
def execVstc (d : VReg) (a b : GReg) (k : Reg3) (w : Width) (s : State) : Out State := withTask s fun t =>
  require s t (s.mayCount t (t.greg b) false) <|
    pushMemory s t (.vstc d a b k w) .fb w (t.greg a) (unitStride w) (t.greg b) false

/-- `VSCATC` (13_fabric.md R342). -/
def execVscatc (d : VReg) (a : GReg) (b : VReg) (k : Reg3) (w : Width) (s : State) : Out State := withTask s fun t =>
  require s t (s.mayCount t (t.after a 2) false) <|
    pushMemory s t (.vscatc d a b k w) .fb w (t.greg a) (t.after a 1) (t.after a 2) false

/-- `VLDZ.bf16` (07_scratchpad.md R203). -/
def execVldzBf16 (d : VReg) (a : GReg) (k : Reg3) (s : State) : Out State := withTask s fun t =>
  if (t.greg a).toNat % 8 ≠ 0 then trap s t causeAlign
  else push s t (.vldzBf16 d a k) .ld (t.greg a) 0 0 0 none
    (s.anyElsewhere t ((List.range 5).map fun i => t.greg a + BitVec.ofNat 64 (64 * i)))

/-- The queued instruction that issue waits for is taken out, or changed: an entry of a core's vector queue. -/
def State.modEntry (s : State) (ci serial : Nat) (f : VEntry → Option VEntry) : State :=
  s.modCore ci fun c => c.withQueue (c.vq.filterMap fun e => if e.serial = serial then f e else some e)

/-- `VSTZ.bf16` (07_scratchpad.md R202): it is pushed, and issue waits until the record's capacity has been read at its
place in the queue; then the capacity decides. -/
def execVstzBf16 (d : VReg) (a : GReg) (k : Reg3) (s : State) : Out State := withTask s fun t =>
  let x := t.greg a
  if x.toNat % 8 ≠ 0 then trap s t causeAlign
  else match s.syncEntry t with
    | none =>
      let rows := (List.range 5).map fun i => (i, x + BitVec.ofNat 64 (64 * i))
      pushSync s t (.vstzBf16 d a k) (s.storeClass t rows) x 0
    | some e =>
      match e.capacity with
      | none => .next (s.stall t .none)
      | some cap =>
        if cap < ((s.core t.ci).sparseLanes d k).length then
          trap (s.modEntry t.ci e.serial fun _ => none) (t.uncount e.cls) causeSparseovr
        else complete (s.modEntry t.ci e.serial fun e => some { e with sync := false }) t

/-- A stream descriptor; `none` when it is not well-formed (07_scratchpad.md R190, R191). -/
def parseStream (bs : List Byte) : Option Stream :=
  let n := leNat bs
  let c := fun i => field n (64 + 16 * i) 16
  let st := fun i => toSigned 18 (field n (128 + 32 * i) 18)
  let base := field n 0 18
  if field n 210 46 ≠ 0 ∨ field n 178 14 ≠ 0 ∨ field n 146 14 ≠ 0 ∨ field n 112 16 ≠ 0 ∨ field n 33 31 ≠ 0
      ∨ field n 18 14 ≠ 0 ∨ c 0 = 0 ∨ c 1 = 0 ∨ c 2 = 0 ∨ base % 64 ≠ 0 ∨ st 0 % 64 ≠ 0 ∨ st 1 % 64 ≠ 0 ∨ st 2 % 64 ≠ 0
  then none
  else some { base := base, cnt := #v[c 0, c 1, c 2], str := #v[st 0, st 1, st 2], output := n.testBit 32 }

/-- Smallest and largest offset of a pattern's bytes, over the corners of its indices (07_scratchpad.md R191). -/
def Stream.extent (x : Stream) : Int × Int :=
  let ends := (List.range 3).map fun i => ((x.cnt.toList.getD i 1 : Int) - 1) * x.str.toList.getD i 0
  (ends.foldl (fun a y => a + min 0 y) (x.base : Int), ends.foldl (fun a y => a + max 0 y) (x.base : Int) + 255)

/-- Is every segment from one scratchpad offset to another allotted to a partition (07_scratchpad.md R187)? -/
def State.segmentsOf (s : State) (ci lo hi p : Nat) : Bool :=
  ((List.range (hi / 0x4000 - lo / 0x4000 + 1)).map (· + lo / 0x4000)).all fun n => s.segmentPart ci (0x4000 * n) == p

/-- `QBIND` (07_scratchpad.md R191). -/
def execQbind (d : Reg3) (a : GReg) (s : State) : Out State := withTask s fun t =>
  if (t.greg a).toNat % 32 ≠ 0 then trap s t causeAlign
  else withBytes s t .record (t.greg a) 4 fun s bs =>
    match parseStream bs with
    | none => trap s t causeIllegal
    | some x =>
      let (lo, hi) := x.extent
      if lo < 0 ∨ 0x3FFFF < hi ∨ !s.segmentsOf t.ci lo.toNat hi.toNat t.part then .next (s.softwareError t causeRange)
      else push s t (.qbind d a) .none 0 0 0 0 (some x)

/-- The status word of a stream (07_scratchpad.md R194). -/
def streamStatus : Option Stream → Word
  | none => 0
  | some x => BitVec.ofNat 64 (2 ^ 63 + bit x.output * 2 ^ 62 + bit x.beyond * 2 ^ 61 + x.pos % 2 ^ 32)

/-- `QSTAT` (07_scratchpad.md R194, R196): issue waits for the core's queue; what an output stream holds is written. -/
def execQstat (d : GReg) (a : Reg3) (s : State) : Out State := withTask s fun t =>
  if !(s.core t.ci).vq.isEmpty || !s.drainable t.ci a then .next (s.stall t .none)
  else complete ((s.drainStream t.ci a).streamsSeen t) (t.setG d (streamStatus (s.core t.ci).q[a.toNat]))

/-- `QFLUSH` (07_scratchpad.md R195). -/
def execQflush (d : Reg3) (s : State) : Out State := withTask s fun t => push s t (.qflush d) .none 0 0 0 0 none

/-- `VCVT`: under policy 11 it is pushed, and issue waits until its last quarter has been granted; then its result is
written, or it traps with nothing written (06_vector.md R175, 02_numbers.md R54). -/
def execVcvt (d : VDst) (a : VSrc) (ovp : Ovp) (rtz uns : Bool) (k : Reg3) (dst src : CvtType) (s : State) : Out State :=
  withTask s fun t =>
    let i := Instr.vcvt d a ovp rtz uns k dst src
    let c := s.core t.ci
    if ovp ≠ .trap then pushLanes i s
    else match s.syncEntry t with
      | none => require s t (c.streamsFit i) (pushSync s t i .none 0 4)
      | some e =>
        if e.quarters ≠ 0 then .next (s.stall t .none)
        else match c.convert d a ovp rtz uns k dst src with
          | none => .next (s.stall t .none)
          | some none => trap (s.modEntry t.ci e.serial fun _ => none) t causeConvovf
          | some (some r) =>
            complete ((s.setCore t.ci (r.1.tagProduced t.tag e.serial)).modEntry t.ci e.serial fun _ => none) (t.raise r.2.1)

/-- `VRNG` (06_vector.md R183). -/
def execVrng (d a : VReg) (k : Reg3) (s : State) : Out State := withTask s fun t =>
  push s t (.vrng d a k) .none t.rngKey 0 0 4 none

/-- `VSPLAT` (06_vector.md R181). -/
def execVsplat (d : VReg) (a : GReg) (k : Reg3) (w : Width) (s : State) : Out State := withTask s fun t =>
  push s t (.vsplat d a k w) .none (t.greg a) 0 0 4 none

/-- `VEXT` (06_vector.md R181). -/
def execVext (d : GReg) (a : VReg) (b : GReg) (w : Width) (s : State) : Out State := withTask s fun t =>
  push s t (.vext d a b w) .ld (t.greg b) 0 0 4 none

/-- `VADD` (06_vector.md R169). -/
def execVaddF (d : VDst) (a : VSrc) (b : VReg) (k : Reg3) (t : FType) (s : State) : Out State :=
  pushLanes (.vaddF d a b k t) s
/-- `VSUB` (06_vector.md R169). -/
def execVsubF (d : VDst) (a : VSrc) (b : VReg) (k : Reg3) (t : FType) (s : State) : Out State :=
  pushLanes (.vsubF d a b k t) s
/-- `VMUL` (06_vector.md R169). -/
def execVmulF (d : VDst) (a : VSrc) (b : VReg) (k : Reg3) (t : FType) (s : State) : Out State :=
  pushLanes (.vmulF d a b k t) s
/-- `VDIV` (06_vector.md R169). -/
def execVdiv (d : VDst) (a : VSrc) (b : VReg) (k : Reg3) (t : FType) (s : State) : Out State :=
  pushLanes (.vdiv d a b k t) s
/-- `VMIN` (06_vector.md R169). -/
def execVminF (d : VDst) (a : VSrc) (b : VReg) (k : Reg3) (t : FType) (s : State) : Out State :=
  pushLanes (.vminF d a b k t) s
/-- `VMAX` (06_vector.md R169). -/
def execVmaxF (d : VDst) (a : VSrc) (b : VReg) (k : Reg3) (t : FType) (s : State) : Out State :=
  pushLanes (.vmaxF d a b k t) s
/-- `VFMA` (06_vector.md R169). -/
def execVfma (d : VReg) (a : VSrc) (b : VReg) (k : Reg3) (t : FType) (s : State) : Out State :=
  pushLanes (.vfma d a b k t) s
/-- `VFMS` (06_vector.md R169). -/
def execVfms (d : VReg) (a : VSrc) (b : VReg) (k : Reg3) (t : FType) (s : State) : Out State :=
  pushLanes (.vfms d a b k t) s
/-- `VFNMA` (06_vector.md R169). -/
def execVfnma (d : VReg) (a : VSrc) (b : VReg) (k : Reg3) (t : FType) (s : State) : Out State :=
  pushLanes (.vfnma d a b k t) s
/-- `VABS` (06_vector.md R171). -/
def execVabs (d : VDst) (a : VSrc) (k : Reg3) (t : FType) (s : State) : Out State := pushLanes (.vabs d a k t) s
/-- `VNEG` (06_vector.md R171). -/
def execVneg (d : VDst) (a : VSrc) (k : Reg3) (t : FType) (s : State) : Out State := pushLanes (.vneg d a k t) s
/-- `VSQRT` (06_vector.md R170). -/
def execVsqrt (d : VDst) (a : VSrc) (k : Reg3) (t : FType) (s : State) : Out State := pushLanes (.vsqrt d a k t) s
/-- `VRCP` (06_vector.md R170). -/
def execVrcp (d : VDst) (a : VSrc) (k : Reg3) (t : FType) (s : State) : Out State := pushLanes (.vrcp d a k t) s
/-- `VRSQ` (06_vector.md R170). -/
def execVrsq (d : VDst) (a : VSrc) (k : Reg3) (t : FType) (s : State) : Out State := pushLanes (.vrsq d a k t) s
/-- `VEXP2` (06_vector.md R170). -/
def execVexp2 (d : VDst) (a : VSrc) (k : Reg3) (t : FType) (s : State) : Out State := pushLanes (.vexp2 d a k t) s
/-- `VADD` (06_vector.md R172). -/
def execVaddInt (d : VDst) (a : VSrc) (b : VReg) (k : Reg3) (w : Width) (s : State) : Out State :=
  pushLanes (.vaddInt d a b k w) s
/-- `VSUB` (06_vector.md R172). -/
def execVsubInt (d : VDst) (a : VSrc) (b : VReg) (k : Reg3) (w : Width) (s : State) : Out State :=
  pushLanes (.vsubInt d a b k w) s
/-- `VMUL` (06_vector.md R172). -/
def execVmulInt (d : VDst) (a : VSrc) (b : VReg) (k : Reg3) (w : Width) (s : State) : Out State :=
  pushLanes (.vmulInt d a b k w) s
/-- `VMULH.i` (06_vector.md R172). -/
def execVmulhI (d : VDst) (a : VSrc) (b : VReg) (k : Reg3) (w : Width) (s : State) : Out State :=
  pushLanes (.vmulhI d a b k w) s
/-- `VMULH.n` (06_vector.md R172). -/
def execVmulhN (d : VDst) (a : VSrc) (b : VReg) (k : Reg3) (w : Width) (s : State) : Out State :=
  pushLanes (.vmulhN d a b k w) s
/-- `VMIN.i` (06_vector.md R172). -/
def execVminI (d : VDst) (a : VSrc) (b : VReg) (k : Reg3) (w : Width) (s : State) : Out State :=
  pushLanes (.vminI d a b k w) s
/-- `VMIN.n` (06_vector.md R172). -/
def execVminN (d : VDst) (a : VSrc) (b : VReg) (k : Reg3) (w : Width) (s : State) : Out State :=
  pushLanes (.vminN d a b k w) s
/-- `VMAX.i` (06_vector.md R172). -/
def execVmaxI (d : VDst) (a : VSrc) (b : VReg) (k : Reg3) (w : Width) (s : State) : Out State :=
  pushLanes (.vmaxI d a b k w) s
/-- `VMAX.n` (06_vector.md R172). -/
def execVmaxN (d : VDst) (a : VSrc) (b : VReg) (k : Reg3) (w : Width) (s : State) : Out State :=
  pushLanes (.vmaxN d a b k w) s
/-- `VAND` (06_vector.md R172). -/
def execVand (d : VDst) (a : VSrc) (b : VReg) (k : Reg3) (w : Width) (s : State) : Out State :=
  pushLanes (.vand d a b k w) s
/-- `VOR` (06_vector.md R172). -/
def execVor (d : VDst) (a : VSrc) (b : VReg) (k : Reg3) (w : Width) (s : State) : Out State :=
  pushLanes (.vor d a b k w) s
/-- `VXOR` (06_vector.md R172). -/
def execVxor (d : VDst) (a : VSrc) (b : VReg) (k : Reg3) (w : Width) (s : State) : Out State :=
  pushLanes (.vxor d a b k w) s
/-- `VSHL` (06_vector.md R173). -/
def execVshl (d : VDst) (a : VSrc) (b : VReg) (k : Reg3) (w : Width) (s : State) : Out State :=
  pushLanes (.vshl d a b k w) s
/-- `VSHR` (06_vector.md R173). -/
def execVshr (d : VDst) (a : VSrc) (b : VReg) (k : Reg3) (w : Width) (s : State) : Out State :=
  pushLanes (.vshr d a b k w) s
/-- `VSAR` (06_vector.md R173). -/
def execVsar (d : VDst) (a : VSrc) (b : VReg) (k : Reg3) (w : Width) (s : State) : Out State :=
  pushLanes (.vsar d a b k w) s
/-- `VADDS` (06_vector.md R173). -/
def execVadds (d : VDst) (a : VSrc) (b : VReg) (k : Reg3) (w : Width) (s : State) : Out State :=
  pushLanes (.vadds d a b k w) s
/-- `VCMPEQ` (06_vector.md R176). -/
def execVcmpeq (d : Reg3) (a : VSrc) (b : VReg) (k : Reg3) (t : RType) (s : State) : Out State :=
  pushLanes (.vcmpeq d a b k t) s
/-- `VCMPNE` (06_vector.md R176). -/
def execVcmpne (d : Reg3) (a : VSrc) (b : VReg) (k : Reg3) (t : RType) (s : State) : Out State :=
  pushLanes (.vcmpne d a b k t) s
/-- `VCMPLT` (06_vector.md R176). -/
def execVcmplt (d : Reg3) (a : VSrc) (b : VReg) (k : Reg3) (t : RType) (s : State) : Out State :=
  pushLanes (.vcmplt d a b k t) s
/-- `VCMPLE` (06_vector.md R176). -/
def execVcmple (d : Reg3) (a : VSrc) (b : VReg) (k : Reg3) (t : RType) (s : State) : Out State :=
  pushLanes (.vcmple d a b k t) s
/-- `VCMPGT` (06_vector.md R176). -/
def execVcmpgt (d : Reg3) (a : VSrc) (b : VReg) (k : Reg3) (t : RType) (s : State) : Out State :=
  pushLanes (.vcmpgt d a b k t) s
/-- `VCMPGE` (06_vector.md R176). -/
def execVcmpge (d : Reg3) (a : VSrc) (b : VReg) (k : Reg3) (t : RType) (s : State) : Out State :=
  pushLanes (.vcmpge d a b k t) s
/-- `VCMPUN` (06_vector.md R176). -/
def execVcmpun (d : Reg3) (a : VSrc) (b : VReg) (k : Reg3) (t : FType) (s : State) : Out State :=
  pushLanes (.vcmpun d a b k t) s
/-- `VRSUM` (06_vector.md R178). -/
def execVrsum (d : VReg) (a : VSrc) (k : Reg3) (t : RType) (s : State) : Out State := pushLanes (.vrsum d a k t) s
/-- `VRMIN` (06_vector.md R178). -/
def execVrmin (d : VReg) (a : VSrc) (k : Reg3) (t : RType) (s : State) : Out State := pushLanes (.vrmin d a k t) s
/-- `VRMAX` (06_vector.md R178). -/
def execVrmax (d : VReg) (a : VSrc) (k : Reg3) (t : RType) (s : State) : Out State := pushLanes (.vrmax d a k t) s
/-- `VSCAN` (06_vector.md R179). -/
def execVscan (d : VReg) (a : VSrc) (k : Reg3) (t : RType) (s : State) : Out State := pushLanes (.vscan d a k t) s
/-- `VSCANMIN` (06_vector.md R179). -/
def execVscanmin (d : VReg) (a : VSrc) (k : Reg3) (t : RType) (s : State) : Out State :=
  pushLanes (.vscanmin d a k t) s
/-- `VSCANMAX` (06_vector.md R179). -/
def execVscanmax (d : VReg) (a : VSrc) (k : Reg3) (t : RType) (s : State) : Out State :=
  pushLanes (.vscanmax d a k t) s
/-- `VRAND` (06_vector.md R178). -/
def execVrand (d : VReg) (a : VSrc) (k : Reg3) (t : IType) (s : State) : Out State := pushLanes (.vrand d a k t) s
/-- `VROR` (06_vector.md R178). -/
def execVror (d : VReg) (a : VSrc) (k : Reg3) (t : IType) (s : State) : Out State := pushLanes (.vror d a k t) s
/-- `KAND` (06_vector.md R177). -/
def execKand (d a b : Reg3) (s : State) : Out State := pushLanes (.kand d a b) s
/-- `KOR` (06_vector.md R177). -/
def execKor (d a b : Reg3) (s : State) : Out State := pushLanes (.kor d a b) s
/-- `KXOR` (06_vector.md R177). -/
def execKxor (d a b : Reg3) (s : State) : Out State := pushLanes (.kxor d a b) s
/-- `KANDN` (06_vector.md R177). -/
def execKandn (d a b : Reg3) (s : State) : Out State := pushLanes (.kandn d a b) s
/-- `KNOT` (06_vector.md R177). -/
def execKnot (d a : Reg3) (s : State) : Out State := pushLanes (.knot d a) s
/-- `KMOV` (06_vector.md R177). -/
def execKmov (d a : Reg3) (s : State) : Out State := pushLanes (.kmov d a) s
/-- `VPERM` (06_vector.md R180). -/
def execVperm (d a b : VReg) (k : Reg3) (w : Width) (s : State) : Out State := pushLanes (.vperm d a b k w) s
/-- `VSEL` (06_vector.md R180). -/
def execVsel (d a b : VReg) (k : Reg3) (w : Width) (s : State) : Out State := pushLanes (.vsel d a b k w) s
/-- `VBCAST` (06_vector.md R180). -/
def execVbcast (d a b : VReg) (k : Reg3) (w : Width) (s : State) : Out State := pushLanes (.vbcast d a b k w) s
/-- `VSLUP` (06_vector.md R180). -/
def execVslup (d a b : VReg) (k : Reg3) (w : Width) (s : State) : Out State := pushLanes (.vslup d a b k w) s
/-- `VSLDN` (06_vector.md R180). -/
def execVsldn (d a b : VReg) (k : Reg3) (w : Width) (s : State) : Out State := pushLanes (.vsldn d a b k w) s
/-- `VZIP` (06_vector.md R180). -/
def execVzip (d a b : VReg) (k : Reg3) (w : Width) (s : State) : Out State := pushLanes (.vzip d a b k w) s
/-- `VUNZIP` (06_vector.md R180). -/
def execVunzip (d a b : VReg) (k : Reg3) (w : Width) (s : State) : Out State := pushLanes (.vunzip d a b k w) s
/-- `VMOV` (06_vector.md R180). -/
def execVmov (d a : VReg) (k : Reg3) (w : Width) (s : State) : Out State := pushLanes (.vmov d a k w) s
/-- `VDQ.gq4` (06_vector.md R182). -/
def execVdqGq4 (d a b : VReg) (k : Reg3) (s : State) : Out State := pushLanes (.vdqGq4 d a b k) s
/-- `VIOTA` (06_vector.md R181). -/
def execViota (d : VReg) (k : Reg3) (w : Width) (s : State) : Out State := pushLanes (.viota d k w) s

end Sys2Proof.Machine
end

