-- ==== Sys2Proof/Machine/Matrix.lean ====
section
/-! DEFINITION. The matrix units: queue, memory port, array grants, the ring, and the instructions of majors 0x24 to 0x27
(08_matrix.md). -/

namespace Sys2Proof.Machine

/-- Row `i` of a tile. -/
def Tile.row (t : Tile) (i : Nat) : VWord := Sparse.read 0 t.rows i

/-- Writes a row, whose parity is formed anew, for an owner (R211, R230). -/
def Tile.setRow (t : Tile) (i : Nat) (v : VWord) (o : Owner) : Tile :=
  { t with rows := Sparse.write 0 t.rows i v, owners := Sparse.insert i o (Sparse.erase t.owners i), bad := t.bad.filter (· != i) }

/-- Writes the checksums, whose parity is formed anew (R223, R230). -/
def Tile.setSums (t : Tile) (cr cc : VWord) (cv : Bool) : Tile := { t with cr := cr, cc := cc, cv := cv, badSums := false }

/-- Writes all 64 rows. -/
def Tile.setRows (t : Tile) (vs : List VWord) (o : Owner) : Tile :=
  vs.zipIdx.foldl (fun t x => t.setRow x.2 x.1 o) t

/-- A tile of a context. -/
def MatCtx.tile (c : MatCtx) (t : TReg) : Tile := c.tiles[t.toNat]
/-- Replaces a tile. -/
def MatCtx.setTile (c : MatCtx) (t : TReg) (x : Tile) : MatCtx := { c with tiles := c.tiles.set t.toNat x }

/-- Changes a core's matrix context. -/
def State.modCtxOf (s : State) (ci : Nat) (f : MatCtx → MatCtx) : State :=
  s.modCore ci fun c => { c with mctx := f c.mctx }

/-- Matrix weight of a partition (R214, 16_system.md R413). -/
def State.matrixWeight (s : State) (p : Nat) : Nat := field (s.part p).pqos.toNat 16 8

/-- An instruction that holds the array (R214). -/
def holdsArray : Instr → Bool
  | .mma .. | .mchk .. => true
  | _ => false

/-- Are the writes that an instruction's scratchpad reads must see performed (R231)? -/
def State.readsOrdered (s : State) (ci : Nat) (e : MEntry) : Bool :=
  let c := s.core ci
  let rs := c.readsOf e
  c.vq.all (fun v => e.serial < v.serial || (v.cls != .st && v.cls != .fb && !(v.instr matches .qflush _)))
    && s.requests.all (fun r => r.index / 16 != ci || (match r.op with
      | .store bs => rs.all fun x => match scratchOf ci x.1 with
          | some (cj, o) => scratchKey cj o + x.2 ≤ r.pa || r.pa + bs.length ≤ scratchKey cj o
          | none => true
      | _ => true))
    && rs.all fun x => !s.watermarked ci x.1 x.2

/-- The tile that an instruction names. -/
def tileOf : Instr → Option TReg
  | .mma t .. | .mchk t .. | .mzero t | .mldc t .. | .mst t .. => some t
  | _ => none

/-- Does an array instruction depend on an instruction pushed before it: by the context word, the microprogram, the latch
or its tile, or by bytes of the core's scratchpad that a store writes? An `MCHK` waits for all (R212, R214, R229). -/
def Core.dependsOn (c : Core) (e x : MEntry) : Bool :=
  match e.instr, x.instr with
  | .mchk .., _ | _, .mctx _ | _, .mprog _ | _, .mldb _ | _, .mring => true
  | _, .mst _ _ _ =>
    tileOf x.instr == tileOf e.instr || (c.readsOf e).any fun r => (List.range 64).any fun i =>
      let a := (x.x + x.y * BitVec.ofNat 64 i).toNat
      a < r.1.toNat + r.2 && r.1.toNat < a + 256
  | _, _ => (tileOf x.instr).isSome && tileOf x.instr == tileOf e.instr

/-- The oldest instruction of a core that holds the array, when no instruction before it that it depends on is left
(R214). -/
def Core.arrayEntry (c : Core) : Option MEntry :=
  match c.mq.find? fun e => holdsArray e.instr with
  | none => none
  | some e => if (c.mq.takeWhile fun x => x.serial != e.serial).any (c.dependsOn e) then none else some e

/-- Is a core eligible for the array (R214, R231; 12_copy.md R314)? -/
def State.matrixEligible (s : State) (ci : Nat) : Bool :=
  s.unitsRun ci && match (s.core ci).arrayEntry with
    | some e => (!(e.instr matches .mma ..) || s.readsOrdered ci e)
        && !((e.instr matches .mma ..) && ctxRec (s.core ci).mctx.word && (s.core ci).mctx.prog.isEmpty)
    | none => false

/-- The matrix weight of the instruction that a core has for the array. -/
def State.arrayWeight (s : State) (ci : Nat) : Nat := (((s.core ci).arrayEntry).map fun e => s.matrixWeight e.part).getD 0

/-- A core that becomes eligible after having not been: its virtual time is raised to the smallest of the others that are
(R214). -/
def State.joinMatrix (s : State) (ci : Nat) : State :=
  if s.matrixEligible ci = (s.core ci).mable then s
  else if !s.matrixEligible ci then s.modCore ci ({ · with mable := false })
  else
    let others := (coresOf (quadOf ci)).filter fun o => o != ci && s.matrixEligible o
    let s := s.modCore ci ({ · with mable := true })
    match s.earliestCore (·.mtime) others with
    | none => s
    | some o =>
      let m := (s.core o).mtime
      s.modCore ci fun c => if timeBefore c.mtime m then { c with mtime := m } else c

/-- The smallest virtual time of the cores that may take a weighted grant is looked at: when it has passed a multiple of
2^30 the times of the others that lie behind are raised to it (R214, 05_tasks.md R123). -/
def State.settleMatrix (s : State) (qi : Nat) : State :=
  let able := (coresOf qi).filter fun ci => s.matrixEligible ci && s.arrayWeight ci != 0
  match (s.earliestCore (·.mtime) able).map fun ci => (s.core ci).mtime with
  | none => s
  | some now =>
    let low := (s.quad qi).mlow
    ((coresOf qi).filter fun x => !able.contains x).foldl
      (fun s x => s.modCore x fun c => { c with mtime := raised low now c.mtime }) (s.modQuad qi ({ · with mlow := now }))

/-- Which cores have something for the array or no longer do is noted, and the smallest times are looked at (R214). -/
def State.joinMatrices (s : State) : State :=
  let cs := (s.cores.filter fun x => x.2.mable || !x.2.mq.isEmpty).map (·.1)
  ((cs.map quadOf).eraseDups).foldl (fun s qi => s.settleMatrix qi) (cs.foldl (fun s ci => s.joinMatrix ci) s)

/-- Pushes an instruction into its core's matrix queue (R212, 05_tasks.md R144). -/
def pushMatrix (s : State) (t : Task) (i : Instr) (x y z : Word) (sync : Bool) (far : Bool := false) : Out State :=
  withRoom s t .mx <|
    if 16 ≤ (s.core t.ci).mq.length then .next (s.stall t .none)
    else
      let s := s.tick
      let e : MEntry := { serial := s.clock, instr := i, uid := t.uid, part := t.part,
                          owner := ⟨t.domain, t.ctxid, t.launchid⟩, x := x, y := y, z := z, sync := sync, far := far }
      complete (s.modCore t.ci fun c => { c with mq := c.mq ++ [e] }) (t.count .mx)

/-- An instruction of a matrix queue leaves it. -/
def Core.leaveMatrix (c : Core) (e : MEntry) : Core := { c with mq := c.mq.filter fun x => x.serial != e.serial }

/-- A queued instruction has completed, with its flags (R212; 02_numbers.md R48). -/
def State.finishMatrix (s : State) (ci : Nat) (e : MEntry) (fl : Flags) : State :=
  let s := (s.modCore ci fun c => c.leaveMatrix e).dropReads (tokenMatrix e.serial)
  if e.dropped then s else (s.modTask e.uid (·.raise fl)).settle e.uid .mx e.serial

/-- Replaces an entry of a core's matrix queue. -/
def State.setMatrix (s : State) (ci : Nat) (e : MEntry) : State :=
  s.modCore ci fun c => { c with mq := c.mq.map fun x => if x.serial = e.serial then e else x }

/-- The accesses of a queued instruction. -/
def MEntry.agent (e : MEntry) (ci elem : Nat) : Agent := ⟨.matrix ci e.serial, tokenMatrix e.serial, .mx, e.serial, elem⟩

/-- An instruction that cannot go on is taken out, and unless its task has been discarded something follows for the
task. -/
def State.endMatrix (s : State) (ci : Nat) (e : MEntry) (k : State → State) : State :=
  let s := s.finishMatrix ci e 0
  if e.dropped then s else k s

/-- Goes on with checked addresses, or handles what the check found (07_scratchpad.md R198). -/
def State.withChecks (s : State) (ci : Nat) (e : MEntry) (t : Task) (acc : Acc) (cap : CapRule) (as_ : List (Word × Nat))
    (k : State → List Loc → Option State) : Option State :=
  match s.unitCheck t (e.agent ci 0) acc cap as_ with
  | (s, .kill c) => some (s.endMatrix ci e (·.softwareError t c))
  | (s', .faulted n) => if e.dropped then some (s.finishMatrix ci e 0) else some (s'.setMatrix ci { e with pending := n })
  | (s, .fetch ps) =>
    let (s', asked) := s.askCaps t e.asked ps
    if asked.length = e.asked.length then none else some (s'.setMatrix ci { e with asked := asked })
  | (s, .ok ls) => k s ls

/-- Reads addresses of an instruction, checked as loads, and goes on with the bytes (R219, 07_scratchpad.md R198). -/
def State.matrixLoad (s : State) (ci : Nat) (e : MEntry) (t : Task) (as_ : List (Word × Nat))
    (k : State → List Byte → Option State) : Option State :=
  if !s.readsOrdered ci e then none
  else s.withChecks ci e t .mread .none as_ fun s ls =>
    match s.unitRead t (e.agent ci 0) (List.zip ls (as_.map (·.2))) with
    | (s, .bytes bss) => k s bss.flatten
    | (s, .broken l) => some (if s.poisoned l.pa then s.endMatrix ci e (·.unitBroken t l) else s.unitBroken t l)
    | (s', .wait) => if s'.reads.length = s.reads.length then none else some s'

/-- Rows of 64 elements of 32 bits as patterns. -/
def elements32 (v : VWord) : List Nat := (List.range 64).map (lane 32 v)

/-- Column sums of rows of values. -/
def columns {α : Type} (d : α) (rows : List (List α)) : List (List α) :=
  (List.range 64).map fun j => rows.map fun r => r.getD j d

/-- RNE32 of an exact sum, or the sum modulo 2^32 of integers (R223). -/
def sum32 (int : Bool) (xs : List Nat) : Nat :=
  if int then xs.sum % 2 ^ 32 else (Format.sum .f32 (xs.map (Format.value .f32)) false).bits

/-- The checksums of rows, formed from their elements (R223). -/
def checksums (int : Bool) (rows : List VWord) : VWord × VWord :=
  let es := rows.map elements32
  (ofLanes 2048 32 (es.map (sum32 int)), ofLanes 2048 32 ((columns 0 es).map (sum32 int)))

/-- An operation of a microprogram is well-formed (R226). -/
def validOp (w : BitVec 32) : Bool :=
  let n := w.toNat
  let op := field n 13 3
  let d := field n 10 3
  op ≤ 5 && (d == 0 || d == 3 || d == 4) && field n 7 3 ≤ 4 && field n 4 3 ≤ 4 && field n 1 3 ≤ 4
    && (op == 5 || field n 1 3 == 0) && n % 2 == 0

/-- The microprogram that 16 bytes hold; `none` when it is invalid (R226). -/
def parseProgram (bs : List Byte) : Option (List (BitVec 32)) :=
  let n := leNat bs
  let len := field n 64 3
  let ops := (List.range len).map fun j => BitVec.ofNat 32 (field n (16 * j) 16)
  if len = 0 ∨ 4 < len ∨ field n 67 61 ≠ 0 ∨ field n (16 * len) (64 - 16 * len) ≠ 0 ∨ !ops.all validOp then none
  else some ops

/-- Element conversions of `MST`: bytes of an element, and the conversion; `none` is an overflow under policy 11
(R224). -/
def storeElement (w : Word) (x : Nat) : Converted :=
  let f32 := Format.value .f32 x
  match ctxStype w with
  | 0 => some (x, 0)
  | 1 => Format.convert .bf16 (ctxOvp w) f32
  | 2 => Format.convert .f16 (ctxOvp w) f32
  | 3 => Format.convert .e4m3 (ctxOvp w) f32
  | 4 => Format.convert .e5m2 (ctxOvp w) f32
  | _ => clampInt (ctxOvp w) false 8 (toSigned 32 x)

/-- Bytes of an element of STYPE (R216). -/
def storeBytes (w : Word) : Nat :=
  match ctxStype w with
  | 0 => 4
  | 1 | 2 => 2
  | _ => 1

/-- The bytes that `MST` stores in 64-byte pieces, with its flags; `none` when an element overflows under policy 11
(R224). -/
def storePieces (w : Word) (t : Tile) (a stride : Word) : Option (List (Word × List Byte) × Flags) :=
  let n := storeBytes w
  let row := fun i => (elements32 (t.row i)).map (storeElement w)
  (allSome ((List.range 64).flatMap row)).map fun rs =>
    let piece := fun k =>
      let i := k / n
      let j := k % n
      (a + stride * BitVec.ofNat 64 i + BitVec.ofNat 64 (64 * j),
       ((rs.drop (64 * i + 64 / n * j)).take (64 / n)).flatMap fun r => leBytes n r.1)
    ((List.range (64 * n)).map piece, rs.foldl (fun f r => f ||| r.2) 0)

/-- Owner of a row of a tile. -/
def Tile.owner (t : Tile) (i : Nat) : Option Owner := (t.owners.find? (·.1 == i)).map (·.2)

/-- Rows and checksums without an owner hold nothing but their reset values: an error in them is repaired (R211, R230). -/
def Tile.repair (t : Tile) : Tile :=
  let none_ := t.bad.filter fun i => (t.owner i).isNone
  { t with
    rows := none_.foldl Sparse.erase t.rows
    bad := t.bad.filter fun i => (t.owner i).isSome
    badSums := t.badSums && (t.owner 0).isSome }

/-- Owners of the rows of a tile whose parity does not fit, and of its checksums when `sums` are read too: those go by the
owner of row 0 (R230; log entry 85). -/
def Tile.errors (t : Tile) (sums : Bool) : List Owner :=
  t.bad.filterMap t.owner ++ (if sums && t.badSums then (t.owner 0).toList else [])

/-- Owner of the rows of a latch from `k` on, `n` of them, when the parity of one does not fit (R230). -/
def Latch.error (x : Latch) (k n : Nat) : Option Owner := if x.bad.any fun i => k ≤ i && i < k + n then x.owner else none

/-- Parity errors are charged to their owners, and the instruction that found them is abandoned (R230; 15_faults.md
R396). -/
def State.abandonMatrix (s : State) (ci : Nat) (e : MEntry) (os : List Owner) : State :=
  let s := os.eraseDups.foldl (fun s o => s.charge o none) s
  if (s.core ci).mq.any (·.serial == e.serial) then s.finishMatrix ci e 0 else s

/-- Reads a tile, and its checksums when `sums`: goes on when its parity fits; else the instruction is abandoned
(R230). -/
def State.withTile (s : State) (ci : Nat) (e : MEntry) (t : TReg) (sums : Bool) (k : State → Tile → Option State) :
    Option State :=
  let x := ((s.core ci).mctx.tile t).repair
  let s := if x = (s.core ci).mctx.tile t then s else s.modCtxOf ci fun c => c.setTile t x
  if (x.errors sums).isEmpty then k s x else some (s.abandonMatrix ci e (x.errors sums))

/-- Parity is checked as a core's matrix context is saved (R230). -/
def State.checkContext (s : State) (ci : Nat) : State :=
  let c := (s.core ci).mctx
  let os := c.tiles.toList.flatMap (fun t => t.errors true) ++ (c.latch.error 0 256).toList
  os.eraseDups.foldl (fun s o => s.charge o none) s

/-- Core of the neighbouring quad of a mesh row, `step` quads on (R220). -/
def ringCore (ci step : Nat) : Nat :=
  let q := quadOf ci % 64
  256 * dieOf ci + 4 * (8 * (q / 8) + (q + step) % 8) + ci % 4

/-- One step of an `MRING` at the head of its queue: the snapshot goes onto the link, then that of the previous quad
comes off it; `none` while it waits (R220). -/
def State.ringStep (s : State) (ci : Nat) (e : MEntry) : Option State :=
  let c := s.core ci
  if !e.placed then
    match c.link with
    | some _ => none
    | none =>
      match c.mctx.latch.error 0 256 with
      | some o => some (s.abandonMatrix ci e [o])
      | none => some ((s.modCore ci fun c => { c with link := some c.mctx.latch }).setMatrix ci { e with placed := true })
  else
    let prev := ringCore ci 7
    match (s.core prev).link with
    | none => none
    | some x =>
      let s := s.modCore prev fun c => { c with link := none }
      some ((s.modCtxOf ci fun c => { c with latch := x }).finishMatrix ci e 0)

/-- Are writes of a queued instruction still on their way (05_tasks.md R143, R224)? -/
def State.opPending (s : State) (op : Nat) : Bool := s.requests.any (·.tally == op) || s.fab.out.any (·.op == op)

/-- Executes an instruction at the head of a matrix queue that does not hold the array; `none` while it must wait
(R213). An `MST` completes, and leaves its flags, once its writes have been made (R224, 02_numbers.md R48). An `MLDB`
leaves the parts of the latch that it does not read empty, which reads as zero: the model's choice (R219; log entry
86). -/
def State.portStep (s : State) (ci : Nat) (e : MEntry) : Option State :=
  let c := s.core ci
  let w := c.mctx.word
  match e.instr, (s.task? e.uid).or e.issuer with
  | .mctx _, _ =>
    let clear := ctxAcc w != ctxAcc e.x || ctxRec w != ctxRec e.x
    let s := s.modCtxOf ci fun m => { m with
      word := e.x
      writer := some e.part
      tiles := if clear then m.tiles.map fun t => { t with cv := false } else m.tiles }
    some (s.finishMatrix ci e 0)
  | .mscale _ _, _ => some ((s.modCtxOf ci fun m => { m with bsa := e.x, ssa := e.y }).finishMatrix ci e 0)
  | .mzero t, _ =>
    let x := ((c.mctx.tile t).setRows (List.replicate 64 0) e.owner).setSums 0 0 (ctxChk w)
    some ((s.modCtxOf ci fun m => m.setTile t x).finishMatrix ci e 0)
  | .mring, _ => s.ringStep ci e
  | _, none => some (s.finishMatrix ci e 0)
  | i, some t =>
    if e.pending ≠ 0 then none
    else match i with
      | .mldb _ =>
        let (r, b, sc) := latchReads w e.x c.mctx.bsa c.mctx.ssa
        s.matrixLoad ci e t (r ++ b ++ sc) fun s bs =>
          let n := if ctxB w = 5 then 8192 else 16384
          let x : Latch := ⟨bs.take n, (bs.drop n).take 256, BitVec.ofNat 32 (leNat ((bs.drop (n + 256)).take 4)), some e.owner, []⟩
          some ((s.modCtxOf ci fun m => { m with latch := x }).finishMatrix ci e 0)
      | .mldc tr _ _ =>
        s.matrixLoad ci e t (tileReads e.x e.y) fun s bs =>
          let rows := (List.range 64).map fun i => BitVec.ofNat 2048 (leNat ((bs.drop (256 * i)).take 256))
          let x := (c.mctx.tile tr).setRows rows e.owner
          let sums := checksums (ctxAcc w) rows
          let x := if ctxChk w then x.setSums sums.1 sums.2 true else { x with cv := false }
          some ((s.modCtxOf ci fun m => m.setTile tr x).finishMatrix ci e 0)
      | .mprog _ =>
        s.matrixLoad ci e t [(e.x, 16)] fun s bs =>
          match parseProgram bs with
          | some p => some ((s.modCtxOf ci fun m => { m with prog := p }).finishMatrix ci e 0)
          | none => some (s.endMatrix ci e (·.softwareError t causeIllegal))
      | .mst tr _ _ =>
        if e.stored then
          if s.opPending e.serial then none
          else some ((s.modCore ci fun c => c.leaveMatrix e).modTask e.uid fun u => if e.dropped then u else u.raise e.flags)
        else s.withTile ci e tr false fun s x =>
          match storePieces w x e.x e.y with
          | none => some (s.finishMatrix ci e 0)
          | some (ps, fl) =>
            s.withChecks ci e t .mwrite .store (ps.map fun p => (p.1, p.2.length)) fun s ls =>
              let ws := List.zipWith (fun (p : Word × List Byte) l => (p.1, l, p.2)) ps ls
              if s.unitHits ws then some (s.endMatrix ci e (·.hwerrTask t)) else
              some ((s.setMatrix ci { e with stored := true, flags := fl }).unitStore t (e.agent ci (storeBytes w)) ws)
      | .mma .. => if ctxRec w && c.mctx.prog.isEmpty then some (s.endMatrix ci e (·.softwareError t causeIllegal)) else none
      | _ => none

/-- The memory port and the instructions without array cycles of a core; `none` when nothing can be done. -/
def State.matrixPort (s : State) (ci : Nat) : Option State :=
  if !s.unitsRun ci then none
  else match (s.core ci).mq with
    | e :: _ => s.portStep ci e
    | [] => none

/-- MATRIX_MEMORY_PORT (R213). -/
def execMatrixMemoryPort (core : Nat) (s : State) : Out State := .next ((s.matrixPort core).getD s)

/-- MRING_LINK_TRANSFER (R220). -/
def execMringLinkTransfer (core : Nat) (s : State) : Out State :=
  match (s.core core).mq with
  | e :: _ => if (e.instr matches .mring) && s.unitsRun core then .next ((s.ringStep core e).getD s) else .next s
  | [] => .next s

/-- Patterns of row `k` of a latch, 64 elements; GQ4 elements as FP32 patterns (R219, 02_numbers.md R42). -/
def Latch.row (x : Latch) (b k : Nat) : List Nat :=
  if b = 5 then
    let n := leNat ((x.data.drop (32 * k)).take 32)
    let s := (x.scales.getD k 0).toNat
    (List.range 64).map fun j => gq4Decode (field n (4 * j) 4) s x.scale.toNat
  else
    let z := typeBytes b
    let n := leNat ((x.data.drop (64 * z * k)).take (64 * z))
    (List.range 64).map fun j => field n (8 * z * j) (8 * z)

/-- The value of an operand pattern of a type code; GQ4 elements are FP32 patterns. -/
def operandValue (code x : Nat) : Num := Format.value ((typeFormat code).getD .f32) x

/-- An exact sum of values with the special cases of R57; a NaN result keeps no signal. -/
def exactSum (xs : List Num) : Num :=
  if xs.any Num.isNan then .nan false
  else if xs.any (fun x => x.isInf && x.sign) && xs.any (fun x => x.isInf && !x.sign) then .nan false
  else if xs.any Num.isInf then .inf (xs.any (fun x => x.isInf && x.sign))
  else
    let e := minExp xs
    let t : Int := xs.foldl (fun acc x => acc + x.aligned e) 0
    .fin (if t = 0 then xs.all Num.sign else t < 0) t.natAbs e

/-- One group of R56: the accumulator and the products of one element, rounded once. -/
def groupSum (c : Nat) (as_ bs : List Num) : Rounded :=
  let ps := List.zipWith Num.mul as_ bs
  Format.sum .f32 (Format.value .f32 c :: ps.filterMap id) (ps.any (·.isNone))

/-- What an `MMA` does to a tile over some K-steps: rows, checksums, flags. -/
structure Product where
  rows : List VWord
  cr : VWord
  cc : VWord
  flags : Flags
deriving DecidableEq, Repr

/-- The steps of one group in MAC mode, on rows of A and of B, with the checksums when they are kept (R56, R228). -/
def macGroup (p : Product) (chk : Bool) (as_ bs : List (List Num)) : Product :=
  let cols := columns (.fin false 0 0) bs
  let cells := List.zipWith (fun (r : VWord) a =>
    List.zipWith (fun c b => groupSum c a b) (elements32 r) cols) p.rows as_
  let fl := cells.foldl (fun f r => r.foldl (fun f x => f ||| x.flags) f) 0
  let rows := cells.map fun r => ofLanes 2048 32 (r.map (·.bits))
  if !chk then { p with rows := rows, flags := p.flags ||| fl }
  else
    let beta := bs.map exactSum
    let alpha := (List.range bs.length).map fun k => exactSum (as_.map fun a => a.getD k (.fin false 0 0))
    let cr := List.zipWith (fun c a => (groupSum c a beta).bits) (elements32 p.cr) as_
    let cc := List.zipWith (fun c b => (groupSum c alpha b).bits) (elements32 p.cc) cols
    { rows := rows, cr := ofLanes 2048 32 cr, cc := ofLanes 2048 32 cc, flags := p.flags ||| fl }

/-- Steps in integer mode (R58, R228). -/
def intSteps (p : Product) (chk : Bool) (as_ bs : List (List Int)) : Product :=
  let cols := columns 0 bs
  let dot := fun (c : Nat) (a b : List Int) => ofSigned 32 ((c : Int) + (List.zipWith (· * ·) a b).sum)
  let rows := List.zipWith (fun (r : VWord) a =>
    ofLanes 2048 32 (List.zipWith (fun c b => dot c a b) (elements32 r) cols)) p.rows as_
  if !chk then { p with rows := rows }
  else
    let beta := bs.map (·.sum)
    let alpha := (List.range bs.length).map fun k => (as_.map fun a => a.getD k 0).sum
    { p with
      rows := rows
      cr := ofLanes 2048 32 (List.zipWith (fun c a => dot c a beta) (elements32 p.cr) as_)
      cc := ofLanes 2048 32 (List.zipWith (fun c b => dot c alpha b) (elements32 p.cc) cols) }

/-- Sources of a microprogram operation: s, a, b, t0, t1 (R226). -/
def opSource (r : Nat × Nat × Nat) (a b : Nat) : Nat → Nat
  | 0 => r.1
  | 1 => a
  | 2 => b
  | 3 => r.2.1
  | _ => r.2.2

/-- One operation of a microprogram on s, t0 and t1 (R226, R227). -/
def programOp (a b : Nat) (st : (Nat × Nat × Nat) × Flags) (w : BitVec 32) : (Nat × Nat × Nat) × Flags :=
  let (r, fl) := st
  let n := w.toNat
  let x := opSource r a b (field n 7 3)
  let y := opSource r a b (field n 4 3)
  let vx := Format.value .f32 x
  let vy := Format.value .f32 y
  let put := fun (v : Nat) => match field n 10 3 with
    | 0 => (v, r.2.1, r.2.2)
    | 3 => (r.1, v, r.2.2)
    | _ => (r.1, r.2.1, v)
  let arith := fun (q : Rounded) => (put q.bits, fl ||| q.flags)
  match field n 13 3 with
  | 0 => arith (Format.add .f32 vx vy)
  | 1 => arith (Format.sum .f32 [vx, vy.negate] false)
  | 2 => arith (Format.mul .f32 vx vy)
  | 3 => arith (Format.minmax .f32 false x y)
  | 4 => arith (Format.minmax .f32 true x y)
  | _ => (if FRel.lt.holds vx vy then put (opSource r a b (field n 1 3)) else r, fl ||| FRel.lt.flags vx vy)

/-- One element over K-steps in recurrence mode (R227). -/
def recurrence (prog : List (BitVec 32)) (s : Nat) (abs_ : List (Nat × Nat)) : Nat × Flags :=
  abs_.foldl (fun (acc : Nat × Flags) ab =>
    let r := prog.foldl (programOp ab.1 ab.2) ((acc.1, 0, 0), acc.2)
    (r.1.1, r.2)) (s, 0)

/-- Steps in recurrence mode, on FP32 patterns (R227). -/
def recSteps (p : Product) (prog : List (BitVec 32)) (as_ bs : List (List Nat)) : Product :=
  let cols := columns 0 bs
  let cells := List.zipWith (fun (r : VWord) a =>
    List.zipWith (fun c b => recurrence prog c (List.zip a b)) (elements32 r) cols) p.rows as_
  { p with
    rows := cells.map fun r => ofLanes 2048 32 (r.map (·.1))
    flags := cells.foldl (fun f r => r.foldl (fun f x => f ||| x.2) f) p.flags }

/-- A pattern of a type code widened exactly to FP32 (R227); a signalling NaN raises NV. -/
def widenOperand (code x : Nat) : Nat × Flags :=
  match typeFormat code with
  | none | some .f32 => (x, 0)
  | some f => (Format.convert .f32 .inf (f.value x)).getD (0, 0)

/-- K-steps per array cycle in MAC and integer modes (R213). -/
def stepRate (w : Word) : Nat :=
  let eight := fun c => c == 2 || c == 3 || c == 4
  if eight (ctxA w) && (eight (ctxB w) || ctxB w == 5) then 2 else 1

/-- K-steps of one grant of 16 array cycles (R213, R214). -/
def grantSteps (c : MatCtx) : Nat :=
  if ctxRec c.word then max 1 (16 / max 1 c.prog.length) else 16 * stepRate c.word

/-- Patterns of A, rows by K-steps `k0` to `k0 + n` (R221). -/
def State.operandA (s : State) (ci : Nat) (e : MEntry) (code k0 n : Nat) : List (List Nat) :=
  let z := typeBytes code
  (List.range 64).map fun i =>
    let va := e.x + e.z * BitVec.ofNat 64 i
    match scratchOf ci va with
    | some (cj, o) =>
      let v := s.word (scratchKey cj (o + k0 * z)) (n * z)
      (List.range n).map fun k => field v (8 * z * k) (8 * z)
    | none => List.replicate n 0

/-- K-steps `k0` to `k0 + n` of an `MMA`, in groups of 16 in MAC mode (R225). -/
def State.mmaSteps (s : State) (ci : Nat) (e : MEntry) (t : Tile) (k0 n : Nat) : Product :=
  let m := (s.core ci).mctx
  let w := m.word
  let a := ctxA w
  let b := ctxB w
  let chk := ctxChk w && t.cv
  let start : Product := ⟨(List.range 64).map t.row, t.cr, t.cc, 0⟩
  let rowsA := s.operandA ci e a k0 n
  let rowsB := (List.range n).map fun k => m.latch.row b (mmaKo e.y + k0 + k)
  if ctxRec w then
    let wa := rowsA.map (·.map (widenOperand a))
    let wb := rowsB.map (·.map (widenOperand b))
    let p := recSteps start m.prog (wa.map (·.map (·.1))) (wb.map (·.map (·.1)))
    { p with flags := (wa ++ wb).foldl (fun f r => r.foldl (fun f x => f ||| x.2) f) p.flags }
  else if ctxAcc w then intSteps start chk (rowsA.map (·.map (toSigned 8))) (rowsB.map (·.map (toSigned 8)))
  else
    (List.range (ceilDiv n 16)).foldl (fun p g =>
      let as_ := rowsA.map fun r => ((r.drop (16 * g)).take 16).map (operandValue a)
      let bs := ((rowsB.drop (16 * g)).take 16).map fun r => r.map (operandValue b)
      macGroup p chk as_ bs) start

/-- A grant to an `MMA` (R214, R225, R228). Its flags are gathered, and raised when it completes (02_numbers.md R48). -/
def State.grantMma (s : State) (ci : Nat) (e : MEntry) (tr : TReg) : Option State :=
  let w := (s.core ci).mctx.word
  s.withTile ci e tr (ctxChk w && ((s.core ci).mctx.tile tr).cv) fun s t =>
    let m := (s.core ci).mctx
    let k := mmaK e.y
    let n := min (grantSteps m) (k - e.steps)
    match m.latch.error (mmaKo e.y + e.steps) n with
    | some o => some (s.abandonMatrix ci e [o])
    | none =>
      let p := s.mmaSteps ci e t e.steps n
      let cv := t.cv && ctxChk w && !ctxRec w
      let x := t.setRows p.rows e.owner
      let x := if cv then x.setSums p.cr p.cc true else { x with cv := false }
      let s := s.modCtxOf ci fun m => m.setTile tr x
      let e := { e with flags := e.flags ||| p.flags, steps := e.steps + n }
      some (if e.steps < k then s.setMatrix ci e else s.finishMatrix ci e e.flags)

/-- Residues of rows or columns against their checksums (R229). -/
def residues (int : Bool) (es : List (List Nat)) (c : VWord) : List Nat :=
  List.zipWith (fun xs y =>
    if int then (xs.sum + 2 ^ 32 - y) % 2 ^ 32
    else (Format.sum .f32 ((Format.value .f32 y).negate :: xs.map (Format.value .f32)) false).bits) es (elements32 c)

/-- Is a residue flagged against the tolerance (R229)? -/
def flagged (int : Bool) (tau r : Nat) : Bool :=
  if int then toSigned 32 tau < (toSigned 32 r).natAbs
  else match Format.value .f32 r with
    | .nan _ => true
    | .inf _ => (Format.value .f32 tau).lt (.inf false)
    | .fin _ m e => (Format.value .f32 tau).lt (.fin false m e)

/-- What `MCHK` finds in a tile: its status, and the tile after a correction (R229). -/
def checkTile (int : Bool) (t : Tile) (tau : Nat) (fix : Bool) (o : Owner) : Word × Tile × Bool :=
  if !t.cv then (0, t, false)
  else
    let es := (List.range 64).map fun i => elements32 (t.row i)
    let rr := residues int es t.cr
    let cr := residues int (columns 0 es) t.cc
    let rows := (List.range 64).filter fun i => flagged int tau (rr.getD i 0)
    let cols := (List.range 64).filter fun j => flagged int tau (cr.getD j 0)
    let i := rows.headD 0
    let j := cols.headD 0
    let r := rr.getD i 0
    let finite := !(Format.value .f32 r).isNan && !(Format.value .f32 r).isInf
    let corrected := fix && rows.length == 1 && cols.length == 1 && (int || finite)
    let x := (es.getD i []).getD j 0
    let y := if int then (x + 2 ^ 32 - r) % 2 ^ 32
      else (Format.sum .f32 [Format.value .f32 x, (Format.value .f32 r).negate] false).bits
    let row := ofLanes 2048 32 ((List.range 64).map fun c => if c = j then y else (es.getD i []).getD c 0)
    let mismatch := !rows.isEmpty || !cols.isEmpty
    let st := 2 ^ 63 + bit mismatch * 2 ^ 62 + bit corrected * 2 ^ 61 + cols.length * 2 ^ 51 + rows.length * 2 ^ 44
      + j * 2 ^ 38 + i * 2 ^ 32 + (if rows.isEmpty then 0 else r)
    (BitVec.ofNat 64 st, if corrected then t.setRow i row o else t, mismatch && !corrected)

/-- A grant to an `MCHK`: without valid checksums the status is 0 and no row is read (R229, R230). -/
def State.grantMchk (s : State) (ci : Nat) (e : MEntry) (tr : TReg) (c : GReg) (raise fix : Bool) : Option State :=
  let done := fun (s : State) st => some ((if e.dropped then s else s.modTask e.uid (·.setG c st)).finishMatrix ci e 0)
  if !((s.core ci).mctx.tile tr).cv then done s 0
  else s.withTile ci e tr true fun s t =>
    let int := ctxAcc (s.core ci).mctx.word
    let (st, t', bad) := checkTile int t (e.x.toNat % 2 ^ 32) fix e.owner
    let s := s.modCtxOf ci fun m => m.setTile tr t'
    if raise && bad then
      let s := s.finishMatrix ci e 0
      some ((s.charge e.owner none).discardTasks fun u => u.uid == e.uid)
    else done s st

/-- A grant goes to a core (R214). -/
def State.grantArray (s : State) (ci : Nat) : State :=
  match (s.core ci).arrayEntry with
  | some e => match e.instr with
    | .mma t _ _ _ => (s.grantMma ci e t).getD s
    | .mchk t _ c raise fix => (s.grantMchk ci e t c raise fix).getD s
    | _ => s
  | none => s

/-- One grant number of a quad's matrix unit; whether a core was eligible (R214). -/
def State.matrixGrant (s : State) (qi : Nat) : State × Bool :=
  let s := (coresOf qi).foldl (fun s ci => s.joinMatrix ci) s
  let able := (coresOf qi).filter s.matrixEligible
  if able.isEmpty then (s, false)
  else
    let n := (s.quad qi).mgrant
    let s := s.modQuad qi fun q => { q with mgrant := (n + 1) % 16 }
    let own := 4 * qi + n / 4
    if n % 4 = 0 ∧ able.contains own then (s.grantArray own, true)
    else
      match s.earliestCore (·.mtime) (able.filter fun ci => s.arrayWeight ci != 0) with
      | none => (s, true)
      | some ci =>
        let d := BitVec.ofNat 32 (65536 / s.arrayWeight ci)
        (((s.modCore ci fun c => { c with mtime := c.mtime + d }).settleMatrix qi).grantArray ci, true)

/-- MATRIX_GRANT (R214). -/
def execMatrixGrant (die quad : Nat) (s : State) : Out State := .next (s.matrixGrant (64 * die + quad)).1

/-- `MCTX` (R217). -/
def execMctx (a : GReg) (s : State) : Out State := withTask s fun t =>
  require s t (validContext (t.greg a)) <| pushMatrix s t (.mctx a) (t.greg a) 0 0 false

/-- `MPROG` (R226). -/
def execMprog (a : GReg) (s : State) : Out State := withTask s fun t =>
  if (t.greg a).toNat % 16 ≠ 0 then trap s t causeAlign
  else pushMatrix s t (.mprog a) (t.greg a) 0 0 false (s.anyElsewhere t [t.greg a])

/-- `MSCALE` (R218). -/
def execMscale (a b : GReg) (s : State) : Out State := withTask s fun t =>
  if (t.greg a).toNat % 8 ≠ 0 ∨ (t.greg b).toNat % 4 ≠ 0 then trap s t causeAlign
  else pushMatrix s t (.mscale a b) (t.greg a) (t.greg b) 0 false

/-- `MZERO` (R222). -/
def execMzero (t : TReg) (s : State) : Out State := withTask s fun u => pushMatrix s u (.mzero t) 0 0 0 false

/-- `MLDB` (R219). -/
def execMldb (a : GReg) (s : State) : Out State := withTask s fun t =>
  if (t.greg a).toNat % 64 ≠ 0 then trap s t causeAlign
  else
    let c := s.core t.ci
    let (r, b, sc) := latchReads (c.pushedWord s.clock) (t.greg a) (c.scalesAt (s.clock + 1)).1 (c.scalesAt (s.clock + 1)).2
    pushMatrix s t (.mldb a) (t.greg a) 0 0 false (s.anyElsewhere t ((r ++ b ++ sc).map (·.1)))

/-- `MLDC` (R223). -/
def execMldc (t : TReg) (a b : GReg) (s : State) : Out State := withTask s fun u =>
  if (u.greg a).toNat % 64 ≠ 0 ∨ (u.greg b).toNat % 64 ≠ 0 then trap s u causeAlign
  else pushMatrix s u (.mldc t a b) (u.greg a) (u.greg b) 0 false
    (s.anyElsewhere u ((tileReads (u.greg a) (u.greg b)).map (·.1)))

/-- Does a row of a tile of 32-bit elements, stored at a stride, reach another package? -/
def State.rowsElsewhere (s : State) (t : Task) (a stride : Word) : Bool :=
  s.anyElsewhere t ((tileReads a stride).map (·.1))

/-- `MST`: under policy 11 issue waits for the core's queue, an overflow traps with nothing written, and issue goes on
once it has completed (R224). -/
def execMst (t : TReg) (a b : GReg) (s : State) : Out State := withTask s fun u =>
  let c := s.core u.ci
  if (u.greg a).toNat % 64 ≠ 0 ∨ (u.greg b).toNat % 64 ≠ 0 then trap s u causeAlign
  else if ctxOvp (c.pushedWord s.clock) ≠ .trap then
    pushMatrix s u (.mst t a b) (u.greg a) (u.greg b) 0 false (s.rowsElsewhere u (u.greg a) (u.greg b))
  else if !c.mq.isEmpty then .next (s.stall u .none)
  else if (c.mctx.tile t).bad.isEmpty && (storePieces c.mctx.word (c.mctx.tile t) 0 0).isNone then trap s u causeConvovf
  else pushMatrix s u (.mst t a b) (u.greg a) (u.greg b) 0 true (s.rowsElsewhere u (u.greg a) (u.greg b))

/-- Is operand A inside the core's own scratchpad, in segments of the partition (R221, R225)? -/
def State.operandFits (s : State) (t : Task) (w x y z : Word) : Bool :=
  (operandReads w x y z).all fun r => match scratchOf t.ci r.1 with
    | some (cj, o) => cj == t.ci && o + r.2 ≤ scratchSize && s.segmentsOf t.ci o (o + r.2 - 1) t.part
    | none => false

/-- `MMA` (R225). -/
def execMma (t : TReg) (a b c : GReg) (s : State) : Out State := withTask s fun u =>
  let x := u.greg a
  let y := u.greg b
  let z := u.greg c
  let k := s.core u.ci
  let w := k.pushedWord s.clock
  let n := y.toNat
  if field n 25 39 ≠ 0 ∨ field n 9 7 ≠ 0 ∨ mmaK y = 0 ∨ latchRows (ctxB w) < mmaKo y + mmaK y then trap s u causeIllegal
  else if ctxRec w && k.mctx.prog.isEmpty && !k.mq.any (·.instr matches .mprog _) then trap s u causeIllegal
  else if x.toNat % 64 ≠ 0 ∨ z.toNat % 64 ≠ 0 then trap s u causeAlign
  else if !s.operandFits u w x y z then .next (s.softwareError u causeRange)
  else pushMatrix s u (.mma t a b c) x y z false

/-- `MRING` (R220). -/
def execMring (s : State) : Out State := withTask s fun t =>
  let f := 4 * (4 * (quadOf t.ci % 64 / 8) + t.ci % 4)
  require s t (field (s.die t.die).mrallot.toNat f 4 == t.part) <| pushMatrix s t .mring 0 0 0 false

/-- `MCHK`: issue of the task waits for it (R229). -/
def execMchk (t : TReg) (a c : GReg) (raise fix : Bool) (s : State) : Out State := withTask s fun u =>
  let tau := (u.greg a).toNat % 2 ^ 32
  let v := Format.value .f32 tau
  let int := ctxAcc ((s.core u.ci).pushedWord s.clock)
  let ok := if int then decide (0 ≤ toSigned 32 tau) else !v.isNan && (v.isZero || !v.sign)
  require s u ok <| pushMatrix s u (.mchk t a c raise fix) (u.greg a) 0 0 true

end Sys2Proof.Machine
end

