-- ==== Sys2Proof/Machine/Preempt.lean ====
section
/-! DEFINITION. Pre-emption and resumption of cores, scans of quads, core resets (05_tasks.md R154 to R156,
14_containment.md R369, 15_faults.md R398, R399, R407). -/

namespace Sys2Proof.Machine

/-- Step 3 of a pre-emption: has everything completed that does not wait on something outside the core, every started
`MMA` behind such an instruction included (R154; 08_matrix.md R232)? -/
def State.coreDrained (s : State) (ci : Nat) : Bool :=
  let c := s.core ci
  s.requests.all (fun r => r.index / 16 != ci)
    && (match c.vq with
      | [] => true
      | e :: _ => e.pending != 0)
    && (match c.mq with
      | [] => true
      | e :: rest => rest.all (·.steps == 0) && (e.pending != 0 || ((e.instr matches .mring) && (s.ringStep ci e).isNone)))
    && c.chans.toList.all (fun x => match x.copies with
      | [] => true
      | k :: _ => !k.held.isEmpty && k.restart)
    && s.fab.out.all fun m => m.who.sid / 16 != ci || (m.cls != .fb && m.cls != .mx)

/-- A stream as it is saved: its read-ahead is discarded. Its output has been written, but for vectors that a watermark
holds back (07_scratchpad.md R197; 12_copy.md R314). -/
def Stream.saved (x : Stream) : Stream := if x.output then x else { x with buffer := [], moved := min x.pos x.total }

/-- Partitions that own tasks on a core. -/
def State.partsOn (s : State) (ci : Nat) : List Nat := ((s.slotTasks ci).map (·.part)).eraseDups

/-- Address of a core's record in a partition's save area (16_system.md R412). -/
def State.coreRecord (s : State) (p ci : Nat) : Nat := field (s.part p).savearea.toNat 16 25 * 0x10000 + ci * 393216

/-- Steps 3 to 6 of a pre-emption, once the core has drained: every slot is HELD and notice 1 is posted, unless a
partition reset pre-empts; the cause PREEMPT is NOTE 1 of the entry, whose CAUSE byte is 0 as every notice's (15_faults.md
R386, R389; log entry 21). The save area of each partition with tasks on the core, and of the one that owns its segment 0,
to whose record the state shared by the core goes, must be there: one that is absent, of a partition that is not being
reset, holds the save up and raises vector 4 (R154, R156; 16_system.md R412, R416, R417). -/
def State.savePreempt (s : State) (ci : Nat) : State :=
  let c := s.core ci
  if !c.stopping || (s.quad (quadOf ci)).drained then s
  else
    let s := s.stopCopies ci
    if !s.coreDrained ci then s
    else
      let absent := (s.partsOn ci ++ [s.segmentPart ci 0]).eraseDups.filter fun p =>
        areaAbsent (s.part p).savearea && !(s.part p).resetting
      if !absent.isEmpty then absent.foldl (fun s p => s.noteArea p 0x50 (stalledCore ci)) s
      else
        let s := ((List.range 8).foldl (fun s q =>
          if s.drainable ci (BitVec.ofNat 3 q) then s.drainStream ci (BitVec.ofNat 3 q) else s) s).checkContext ci
        let parts := if c.quiet then [] else (s.partsOn ci ++ c.notices).eraseDups
        let s := s.modCore ci fun c => { c with
          preempted := true, stopping := false, notices := [], q := c.q.map fun x => x.map (·.saved) }
        parts.foldl (fun s p => s.notice (dieOf ci) p 1 (BitVec.ofNat 64 (s.coreRecord p ci)) (BitVec.ofNat 64 (16 * ci))) s

/-- The ring that something diverted is addressed to. -/
def Diverted.ring? : Diverted → Option Nat
  | .send e => some e.ring
  | _ => none

/-- The task that something diverted is a reply or wake for. -/
def Diverted.task? : Diverted → Option Nat
  | .wake u | .resend u _ => some u
  | .chainEnd m => some m.task
  | .chainFault m => some m.task
  | _ => none

/-- Delivers one thing that was diverted from a core; `none` while a message finds no room in its ring
(05_tasks.md R155). -/
def State.redeliver (s : State) : Diverted → Option State
  | .wake u => some (match s.task? u with
    | some t => if t.spilled then s.putTask { t with status := .ready } else s.enterReady t
    | none => s)
  | .resend u ls => some (s.retryLanes u ls)
  | .chainEnd m => some (s.chainEnds m)
  | .chainFault m => some (s.chainFaults m)
  | .send e => s.place? e
  | .write r => some (s.accept r)
  | .watermark ci ch stamp va n => some (s.modChan ci ch fun x => if x.stamp = stamp then x.advance va n else x)

/-- Delivers what was diverted from a core, in arrival order. A message that finds no room in its ring waits, and so do
the later ones to that ring (05_tasks.md R133, R155; log entry 81): what still waits. -/
def State.redeliverAll (s : State) (kept : List Diverted) : List Diverted → State × List Diverted
  | [] => (s, kept)
  | d :: ds =>
    if d.ring?.isSome && kept.any (·.ring? == d.ring?) then s.redeliverAll (kept ++ [d]) ds
    else match s.redeliver d with
      | some s => s.redeliverAll kept ds
      | none => s.redeliverAll (kept ++ [d]) ds

/-- Replies kept for tasks of a core whose partitions have no spill area raise vector 4 (16_system.md R412, R417). -/
def State.noteDiverted (s : State) (ci : Nat) : State :=
  if !s.diverts ci then s
  else (s.core ci).diverted.foldl (fun s x => match x.task?.bind s.task? with
    | some t => if s.noSpillArea t.part then s.noteArea t.part 0x58 (stalledTask t.uid) else s
    | none => s) s

/-- What was diverted from a core that takes work again is delivered (05_tasks.md R133, R155; 15_faults.md R407). -/
def State.deliverDiverted (s : State) (ci : Nat) : State :=
  if s.halted ci then s.noteDiverted ci
  else
    let (s', kept) := s.redeliverAll [] (s.core ci).diverted
    s'.modCore ci ({ · with diverted := kept })

/-- Resumption restores the core and is an acquire of its tasks (05_tasks.md R155; 11_order.md R297); a core that is not
pre-empted is left as it is. -/
def State.resume (s : State) (ci : Nat) : State :=
  if !(s.core ci).preempted then s
  else
    let s := (s.modCore ci fun c => { c with preempted := false, quiet := false }).deliverDiverted ci
    let s := s.serveEverything
    (s.modTasks ((s.tasks.filter (·.ci == ci)).map (·.uid)) (·.upToDate s)).switch ci

/-- The device resumes a core that a partition reset pre-empted, once the tasks of the partitions being reset are
discarded (05_tasks.md R156). -/
def State.resumeQuiet (s : State) (ci : Nat) : State :=
  if (s.core ci).quiet && (s.slotTasks ci).all fun t => !((s.part t.part).resetting && (s.part t.part).resetStep == 0)
  then s.resume ci else s

/-- PREEMPT_REQUEST (05_tasks.md R154). -/
def execPreemptRequest (core : Nat) (s : State) : Out State := .next (s.requestPreempt core none)

/-- PREEMPT_SAVE (05_tasks.md R154). -/
def execPreemptSave (core : Nat) (s : State) : Out State := .next (s.savePreempt core)

/-- RESUME_REQUEST (05_tasks.md R155). -/
def execResumeRequest (core : Nat) (s : State) : Out State := .next (s.resume core)

/-- SCAN_SLOT_START: the quad is drained and its slots are HELD (01_machine.md R27, 05_tasks.md R133). -/
def execScanSlotStart (die quad : Nat) (s : State) : Out State :=
  .next (s.modQuad (64 * die + quad) ({ · with drained := true }))

/-- The cores of a quad whose scan has ended take work again. -/
def State.endScan (s : State) (qi : Nat) : State :=
  (coresOf qi).foldl (fun s ci => (s.deliverDiverted ci).switch ci) (s.modQuad qi ({ · with drained := false }))

/-- SCAN_PASS: work done on the quad before is no longer in doubt; a released quad takes work again
(14_containment.md R368; 15_faults.md R399). -/
def execScanPass (die quad : Nat) (s : State) : Out State :=
  let qi := 64 * die + quad
  if !(s.quad qi).drained then .next s
  else
    let s := s.modQuad qi fun q => { q with ran := [], quarantined := q.quarantined && !q.release, release := false }
    .next (s.endScan qi)

/-- A quad is quarantined and its partitions are told: partition 0 and those charged (14_containment.md R369). -/
def State.quarantine (s : State) (qi : Nat) (parts : List Nat) (pattern : Nat) : State :=
  let s := s.modQuad qi ({ · with quarantined := true, release := false })
  ((0 :: parts).eraseDups).foldl (fun s p =>
    s.notice (qi / 64) p 4 (BitVec.ofNat 64 (64 * qi)) (BitVec.ofNat 64 pattern)) s

/-- The owner that a record of work names. -/
def Work.owner (w : Work) : Owner := ⟨w.dom, w.ctxid, w.launch⟩

/-- Does a scan failure charge a domain for a record of work, or fail a launch (14_containment.md R369)? -/
def State.charged (s : State) (w : Work) : Bool :=
  if w.dom = 0 then (s.launch? (w.ctxid / 4) w.launch).isSome
  else (s.dom? w.ctxid w.dom).any fun d => d.state == .provisional || d.state == .committed

/-- SCAN_FAIL: every domain that ran on the quad since its last passing scan is charged, work in no domain fails its
launch, and the quad is quarantined (14_containment.md R369). -/
def execScanFail (die quad pattern : Nat) (s : State) : Out State :=
  let qi := 64 * die + quad
  let ws := (s.quad qi).ran
  if !(s.quad qi).drained then .next s
  else
    let s := (s.modQuad qi ({ · with ran := [] })).quarantine qi ((ws.filter s.charged).map fun w => w.ctxid / 4) pattern
    .next ((s.chargeAll ((ws.filter s.charged).map (·.owner)) .scan).endScan qi)

/-- QUARANTINE_RELEASE: takes effect at the quad's next passing scan (15_faults.md R399). -/
def execQuarantineRelease (die quad : Nat) (s : State) : Out State :=
  .next (s.modQuad (64 * die + quad) fun q => { q with release := q.quarantined })

/-- The core's own state after a core reset, its tasks having been discarded, of whose matrix instructions only started
ones are left, and its copies cancelled, of which a begun one is left until it has left: queues, streams, channels, matrix
context, `CYCLE` (15_faults.md R407). -/
def Core.reset (c : Core) : Core :=
  { c.withQueue (c.vq.filter (·.started)) with
    running := none, ready := [], stalled := false, stopping := false, quiet := false, notices := []
    q := Vector.replicate 8 none
    mctx := {}
    chans := c.chans.map fun x => { copies := x.copies.filter (·.stopAt.isSome) }
    cycle := 0
    resetting := true
    hungBefore := true }

/-- Does the running task of a core stall at `BAR`, at `EVWAIT` or behind an `MRING` that waits? Those waits do not count
for the watchdog (15_faults.md R398). -/
def State.gatedStall (s : State) (ci : Nat) : Bool :=
  match (s.core ci).running.bind s.task? with
  | none => false
  | some t => (t.wait matches .barrier ..) || (t.wait matches .event ..) || (s.core ci).stalled && match (s.core ci).mq with
    | e :: _ => (e.instr matches .mring) && (s.ringStep ci e).isNone
    | [] => false

/-- WATCHDOG_EXPIRY: the core is hung; WDOG is charged to the domain of every task in its slots, and the core is reset.
A core that hangs again within 2^30 cycles has its quad quarantined; whether it is within is a free value
(15_faults.md R398, R407). -/
def execWatchdogExpiry (core : Nat) (s : State) : Out State :=
  let ts := s.slotTasks core
  if s.halted core || s.gatedStall core || !ts.any (fun t => t.status == .ready || t.status == .running) then
    .next s
  else
    let again := (s.core core).hungBefore && (Config.cyclesElapsed s.fresh).toNat < 2 ^ 30
    let owners := (ts.map fun t => (⟨t.domain, t.ctxid, t.launchid⟩ : Owner)).eraseDups
    let s := s.draw.discardTasks fun t => !t.spilled && t.ci == core
    let s := (List.range 8).foldl (fun s ch => s.cancelCopies core ch) s
    let s := (s.modCore core (·.reset)).chargeAll owners .check
    .next (if again then s.quarantine (quadOf core) (ts.map (·.part)) 0 else s)

/-- CORE_RESET_END (15_faults.md R407). -/
def execCoreResetEnd (core : Nat) (s : State) : Out State :=
  if !(s.core core).resetting then .next s
  else .next (((s.modCore core ({ · with resetting := false })).deliverDiverted core).switch core)

end Sys2Proof.Machine
end

