-- ==== Sys2Proof/Machine/System.lean ====
section
/-! DEFINITION. The instructions of major 0x3F and the operations that a partition window offers its driver
(15_faults.md R382 to R394; 03_encoding.md R65, R66). -/

namespace Sys2Proof.Machine

/-- `TRAP n` (R382). -/
def execTrap (_n : BitVec 12) (s : State) : Out State := withTask s fun t => trap s t causeTrapi

/-- `ERET` (R383). -/
def execEret (s : State) : Out State := withTask s fun t => trapReturn s t

/-- Have the vector and matrix instructions that a task issued completed (02_numbers.md R49)? -/
def State.unitsIdle (s : State) (t : Task) : Bool :=
  (s.core t.ci).vq.all (·.uid != t.uid) && (s.core t.ci).mq.all (·.uid != t.uid) && !s.unitWriting t.uid

/-- `VSHARE` of a core: the weights of the queue heads of its quad, or of the last heads (06_vector.md R161). -/
def State.vshare (s : State) (ci : Nat) : Word :=
  let weight := fun n => ((s.core (4 * quadOf ci + n)).lastPart.map s.vectorWeight).getD 0
  BitVec.ofNat 64 (ci % 4 * 2 ^ 32 + weight 3 * 2 ^ 24 + weight 2 * 2 ^ 16 + weight 1 * 2 ^ 8 + weight 0)

/-- `FBSTAT` of a die (R389). -/
def Die.fbstat (x : Die) : Word :=
  BitVec.ofNat 64 (x.ovfcnt.toNat * 2 ^ 32 + bit (!x.unreported.isEmpty) * 2 ^ 13 + x.entries.length)

/-- `CYCLE` is read: it has advanced by an amount that timing decides, a free value (03_encoding.md R65). -/
def State.readCycle (s : State) (ci : Nat) : State × Word :=
  let v := (s.core ci).cycle + Config.cyclesElapsed s.fresh
  (s.draw.modCore ci ({ · with cycle := v }), v)

/-- Reads a system register; `none` raises ILLEGAL (03_encoding.md R65, R66). -/
def State.readSystem (s : State) (t : Task) (n : Nat) : Option (State × Word) :=
  match n with
  | 0x000 => some (s, t.trapv)
  | 0x001 => some (s, t.epc)
  | 0x002 => some (s, zext t.cause)
  | 0x003 => some (s, zext t.fsr)
  | 0x004 => some (s, BitVec.ofNat 64 t.sid)
  | 0x005 => some (s, t.taskrec)
  | 0x010 => some (s, s.vshare t.ci)
  | 0x011 => some (s, t.hintdrop)
  | 0x012 => some (s, (s.die t.die).fbstat)
  | 0x013 => some (s, BitVec.ofNat 64 t.ctxid)
  | 0x014 => some (s, t.launchkey)
  | 0x015 => some (s, BitVec.ofNat 64 (bit t.det + 2 * bit t.nomix))
  | 0x016 => some (s, zext t.launchid)
  | 0x020 => some (s.readCycle t.ci)
  | _ => none

/-- `SYSR` (R384). -/
def execSysr (d : GReg) (n : BitVec 12) (s : State) : Out State := withTask s fun t =>
  if n = 3 && !s.unitsIdle t then .next (s.stall t .none)
  else match s.readSystem t n.toNat with
    | some (s, v) => complete s (t.setG d v)
    | none => trap s t causeIllegal

/-- Writes a system register; `none` raises ILLEGAL (03_encoding.md R65, R66; 15_faults.md R384). -/
def Task.writeSystem (t : Task) (n : Nat) (v : Word) : Option Task :=
  match n with
  | 0x000 => some { t with trapv := v }
  | 0x001 => some { t with epc := v, rep := none }
  | 0x002 => some { t with cause := v.setWidth 8 }
  | 0x003 => some { t with fsr := v.setWidth 6 }
  | 0x011 => some { t with hintdrop := v }
  | _ => none

/-- `SYSW` (R380, R384). -/
def execSysw (n : BitVec 12) (a : GReg) (s : State) : Out State := withTask s fun t =>
  let v := t.greg a
  if n = 3 && !s.unitsIdle t then .next (s.stall t .none)
  else if n = 0 && v.toNat % 4 ≠ 0 then trap s t causeAlign
  else match t.writeSystem n.toNat v with
    | some t => complete s t
    | none => trap s t causeIllegal

/-- Reach of a `TLBINV` operand: everything, or a page; `none` raises ILLEGAL (R391). -/
def invalidation (v : Word) : Option Bool :=
  if v.toNat % 0x10000 = 1 then some true
  else if v.toNat % 0x10000 = 0 ∧ canonical v then some false
  else none

/-- An invalidation for a waiter over every package of its partition: done, or none while it is awaited (R391). -/
def State.invalidateAfar (s : State) (key : Nat × Nat) (ctxid : Nat) (page : Option Nat) : State × Option CapResult :=
  match s.takeAnswer key with
  | (s, some r) => (s, some r)
  | (s, none) =>
    if s.exchanges.any (·.key == some key) then (s, none)
    else
      let others := s.otherPackages (ctxid / 4)
      ((s.dropReach ctxid (.leaves page)).openExchange .made (some key) none ctxid 0 [] others ⟨.done, []⟩
        (fun id => .invalidate id ctxid (.leaves page)) others, none)

/-- The invalidation of a partition's driver (R390, R391). -/
def State.invalidateWindow (s : State) (p : Nat) (page : Option Nat) : State :=
  let s := s.dropReach (4 * p) (.leaves page)
  if s.spans p then
    s.openExchange .made none none (4 * p) 0 [] (s.otherPackages p) ⟨.done, []⟩
      (fun id => .invalidate id (4 * p) (.leaves page)) (s.otherPackages p)
  else s

/-- Does a context hold a permission: 0 MMU, 1 PRE, 2 DIAG (R390, 16_system.md R418)? -/
def State.permits (s : State) (t : Task) (bit_ : Nat) : Bool := (s.ctx t.ctxid).perm.getLsbD bit_

/-- `TLBINV`: the issuer stalls, or parks while the partition spans packages, until every access checked under a dropped
entry is performed (R391). -/
def execTlbinv (a : GReg) (s : State) : Out State := withTask s fun t =>
  match s.permits t 0, invalidation (t.greg a) with
  | true, some all =>
    let page := if all then none else some (pageOf (t.greg a))
    if s.spans t.part then
      match s.invalidateAfar (tokenTask t.uid, forLeaves) t.ctxid page with
      | (s, some _) => complete s t
      | (s, none) => .next (s.park t .remote .tlbinv)
    else
      let s := s.dropReach t.ctxid (.leaves page)
      if s.drained t.part then complete s t else .next (s.stall t .none)
  | _, _ => trap s t causeIllegal

/-- TLBINV_COMPLETE: a parked invalidation has been made in every package (R391). -/
def execTlbinvComplete (task : Nat) (s : State) : Out State :=
  match s.task? task with
  | some t => .next (if t.wait = .tlbinv then s.confirmAll t.uid else s)
  | none => .next s

/-- A decoded error injection (R393). -/
inductive Injection where
  | tile (t : TReg) (row column bit : Nat) (parity : Bool)
  | scratch (mask : Word) (a : Word)
  | line (mask : Word) (a : Word)
deriving DecidableEq, Repr

/-- What a `DIAGW` asks for; `none` raises ILLEGAL (R393). -/
def injection (v b : Word) : Option Injection :=
  let n := v.toNat
  let op := field n 56 8
  let mask := BitVec.ofNat 64 (2 ^ field n 0 6 ||| (if n.testBit 8 then 2 ^ ((field n 0 6 + 1) % 64) else 0))
  if op = 1 ∨ op = 2 then
    if field n 2 6 ≠ 0 ∨ field n 14 2 ≠ 0 ∨ field n 22 2 ≠ 0 ∨ field n 29 27 ≠ 0 ∨ b ≠ 0 then none
    else some (.tile (BitVec.ofNat 2 n) (field n 8 6) (field n 16 6) (field n 24 5) (op == 1))
  else if op = 3 ∨ op = 4 then
    if field n 6 2 ≠ 0 ∨ field n 9 47 ≠ 0 then none
    else some (if op = 3 then .scratch mask b else .line mask b)
  else none

/-- Flips stored bits of a doubleword (R393). -/
def State.flip (s : State) (a : Nat) (mask : Word) : State :=
  { s with flips := Sparse.write 0 s.flips (a / 8) (Sparse.read 0 s.flips (a / 8) ^^^ mask) }

/-- Flips a stored bit of a tile row: with `parity` the row's parity fits no longer, or again after a second flip; without
it the parity is formed anew (R393). -/
def Tile.flip (t : Tile) (row column bit_ : Nat) (parity : Bool) : Tile :=
  { t with
    rows := Sparse.write 0 t.rows row (t.row row ^^^ (1#2048 <<< (32 * column + bit_)))
    bad := if parity && !t.bad.contains row then t.bad ++ [row] else t.bad.filter (· != row) }

/-- Does a tile row belong to a partition: written by it, or not written since its reset (R393)? -/
def Tile.belongs (t : Tile) (row p : Nat) : Bool :=
  match t.owners.find? (·.1 == row) with
  | some (_, o) => o.ctxid / 4 == p
  | none => true

/-- `DIAGW` (R393). -/
def execDiagw (a b : GReg) (s : State) : Out State := withTask s fun t =>
  match s.permits t 2, injection (t.greg a) (t.greg b) with
  | true, some (.tile tr row column bit_ parity) =>
    if !(s.core t.ci).mq.isEmpty then .next (s.stall t .none)
    else if !((s.core t.ci).mctx.tile tr).belongs row t.part then .next (s.softwareError t causeRange)
    else complete (s.modCtxOf t.ci fun m => m.setTile tr ((m.tile tr).flip row column bit_ parity)) t
  | true, some (.scratch mask va) =>
    if va.toNat % 8 ≠ 0 then trap s t causeAlign
    else match scratchOf t.ci va with
      | some (ci, o) =>
        if s.segmentPart ci o = t.part then complete (s.flip (scratchKey ci o) mask) t
        else .next (s.softwareError t causeRange)
      | none => .next (s.softwareError t causeRange)
  | true, some (.line mask va) =>
    if va.toNat % 8 ≠ 0 then trap s t causeAlign
    else match s.checked t .load .none va 8 8 with
      | (s, .error d) => deny s t .load va d
      | (s, .ok l) =>
        if l.scratch || l.pkg != s.svc.packageId || (leafMT l.leaf != 0 && leafMT l.leaf != 2) then
          .next (s.softwareError t causeRange)
        else complete (s.flip l.pa mask) t
  | _, _ => trap s t causeIllegal

/-- Service state that `DIAGR` reads on a die; `none` raises ILLEGAL (R394). -/
def State.diagnose (s : State) (d : Nat) (v : Word) : Option Word :=
  let n := v.toNat
  let op := field n 56 8
  if op = 0x12 then
    if field n 3 53 ≠ 0 then none
    else some (BitVec.ofNat 64 ((s.svc.dieMap.toList.getD (n % 8) 0).toNat + s.svc.dieTerm.toNat * 2 ^ 32))
  else if field n 0 56 ≠ 0 then none
  else match op with
    | 0x10 => some (s.die d).corrected
    | 0x11 => some (ofBits 64 ((List.range 64).map fun q => (s.quad (64 * d + q)).quarantined))
    | 0x13 => some s.svc.misuse
    | _ => none

/-- `DIAGR` (R394). -/
def execDiagr (d a : GReg) (s : State) : Out State := withTask s fun t =>
  match s.permits t 2, s.diagnose t.die (t.greg a) with
  | true, some v => complete s (t.setG d v)
  | _, _ => trap s t causeIllegal

/-- Core and request of a `MIRQ` operand: `true` asks for resumption; `none` raises ILLEGAL (R392). -/
def meshInterrupt (v : Word) : Option (Nat × Bool) :=
  let n := v.toNat
  if field n 0 4 ≠ 0 ∨ n.testBit 15 ∨ field n 17 47 ≠ 0 then none else some (field n 4 11, n.testBit 16)

/-- The mesh interrupt of a partition reaches a core (R392, 05_tasks.md R154, R155). -/
def State.interrupt (s : State) (p ci : Nat) (resume_ : Bool) : State :=
  if resume_ then s.resume ci else s.requestPreempt ci (some p)

/-- `MIRQ` (R392). -/
def execMirq (a : GReg) (s : State) : Out State := withTask s fun t =>
  match s.permits t 1, meshInterrupt (t.greg a) with
  | true, some (ci, r) => .next ((s.putTask { t.advance with wait := .none }).interrupt t.part ci r)
  | _, _ => trap s t causeIllegal

/-- An injection by a partition's driver, with the core that stands in for the issuer's and the context whose page table
is used; one that would raise a trap or end a task has no effect, and one into a tile is made once the core's matrix
instructions are done (R390, R393; log entry 50). -/
def State.inject (s : State) (p ci ctx : Nat) : Injection → State
  | .tile tr row column bit_ parity =>
    if (s.core ci).mq.isEmpty && ((s.core ci).mctx.tile tr).belongs row p then
      s.modCtxOf ci fun m => m.setTile tr ((m.tile tr).flip row column bit_ parity)
    else s
  | .scratch mask va =>
    match scratchOf ci va with
    | some (c, o) => if va.toNat % 8 = 0 ∧ s.segmentPart c o = p then s.flip (scratchKey c o) mask else s
    | none => s
  | .line mask va =>
    match s.translate (4 * p + ctx % 4) .load va with
    | (s, .ok l) => if va.toNat % 8 = 0 ∧ l.pkg = s.svc.packageId ∧ (leafMT l.leaf = 0 ∨ leafMT l.leaf = 2) then
        s.flip l.pa mask else s
    | (s, .error _) => s

end Sys2Proof.Machine
end

