-- ==== Sys2Proof/Machine/Recovery.lean ====
section
/-! DEFINITION. Hardware errors and their recovery: the rasp, rebuilt lines, the die map and takeover, package loss,
votes, lantern pairs and warm resets (15_faults.md R396 to R407). -/

namespace Sys2Proof.Machine

/-- RASP_SCRUB: single-bit errors of the line are corrected in place, others raised as if a read had found them
(R396). -/
def execRaspScrub (line : Nat) (s : State) : Out State :=
  let a := 64 * line
  let s := s.correct a 64
  .next (if s.unsound a 64 then s.memoryError a else s)

/-- LINE_REBUILD (R402). -/
def execLineRebuild (line : Nat) (s : State) : Out State := .next (s.rebuildLine line)

/-- A lost message of a task is charged to its domain or launch where that is known: here, or in the package that the
message came from. Where the choice stops, a line of this package that it was for is poisoned (13_fabric.md R327;
14_containment.md R365). -/
def State.chargeLost (s : State) (w : Who) (pkg pa : Nat) : State :=
  if w.dom ≠ 0 ∧ (s.dom? w.ctxid w.dom).isNone ∨ w.dom = 0 ∧ (s.launch? w.part w.launch).isNone then s
  else s.charge ⟨w.dom, w.ctxid, w.launch⟩ (if pkg = s.svc.packageId then some pa else none)

/-- HARDWARE_ERROR: an uncorrectable error of a line, of a scratchpad line, of a slot, or a lost remote write
(R396, R399; 13_fabric.md R327). -/
def execHardwareError (site : ErrorSite) (s : State) : Out State :=
  .next (match site with
    | .line pa => s.memoryError pa
    | .scratch a => s.lineError a
    | .slot u => match s.task? u with
      | some t => s.charge ⟨t.domain, t.ctxid, t.launchid⟩ none
      | none => s
    | .lost w pkg pa => s.chargeLost w pkg pa
    | .row ci t i => s.modCtxOf ci fun c =>
        let x := c.tile (BitVec.ofNat 2 t)
        c.setTile (BitVec.ofNat 2 t) { x with bad := if x.bad.contains i then x.bad else x.bad ++ [i] }
    | .sums ci t => s.modCtxOf ci fun c => c.setTile (BitVec.ofNat 2 t) { c.tile (BitVec.ofNat 2 t) with badSums := true }
    | .latch ci i => s.modCtxOf ci fun c => { c with latch := { c.latch with
        bad := if c.latch.bad.contains i then c.latch.bad else c.latch.bad ++ [i] } })

/-- DIE_MAP_WRITE: accepted with a term at least equal to TERM (R400, R405). -/
def State.writeDieMap (s : State) (term : BitVec 32) (entries : List (BitVec 16)) : State :=
  if term < s.svc.dieTerm then s
  else { s with svc := { s.svc with
    dieTerm := term, dieMap := Vector.ofFn fun i => entries.getD i.val s.svc.dieMap[i] } }

/-- DIE_MAP_WRITE (R400). -/
def execDieMapWrite (term : BitVec 32) (entries : List (BitVec 16)) (s : State) : Out State :=
  .next (s.writeDieMap term entries)

/-- Physical module that holds a package id. -/
def State.moduleOf (s : State) (id : Nat) : Nat := Sparse.read id s.svc.pkgMap id

/-- PACKAGE_MAP_WRITE: accepted under terms as the die map is (R403). -/
def execPackageMapWrite (term : BitVec 32) (id physical : Nat) (s : State) : Out State :=
  .next (if term < s.svc.pkgTerm then s
    else { s with svc := { s.svc with
      pkgTerm := term, pkgMap := Sparse.write id s.svc.pkgMap (id % 1024) physical } })

/-- The other live packages that this package meets by its slot table (R405, 13_fabric.md R323). -/
def State.livePackages (s : State) : List Nat :=
  ((s.fab.slotTable.map fun e => e.2 - 1).eraseDups).filter fun k =>
    k != s.svc.packageId && !s.svc.lostPackages.contains k

/-- Inserts a number by its measure. -/
def insertBy (f : Nat → Nat) (x : Nat) : List Nat → List Nat
  | [] => [x]
  | y :: ys => if f x ≤ f y then x :: y :: ys else y :: insertBy f x ys

/-- The first five of some packages whose ids follow an id, modulo the pod size (R405). -/
def voterRing (k : Nat) (live : List Nat) : List Nat :=
  (live.foldr (insertBy fun x => (x + 1024 - k) % 1024) []).take 5

/-- Voters on a suspect: the leaders of up to five live packages that follow its package, or for a die of a package that
has no other the six pairs of its hubs and I/O dies (R405). -/
def State.voters (s : State) : Suspect → List Nat
  | .die _ => if s.livePackages.isEmpty then [9, 10, 11, 12, 14, 15] else voterRing s.svc.packageId s.livePackages
  | .package k => voterRing k ((s.svc.packageId :: s.livePackages).filter (· != k))

/-- A vote on a suspect, with its voters as they stand. -/
def State.ballotOn (s : State) (x : Suspect) : Ballot := ⟨x, [], s.voters x, false⟩

/-- Is a vote over a suspect passed by its votes: more than half, and four of six (R405)? -/
def Ballot.carries (b : Ballot) : Bool := b.voters.length < 2 * (b.votes.filter (·.2)).length

/-- A part is suspected: a vote opens, or waits for the one that is open (R401, R403, R405). -/
def State.suspect (s : State) (x : Suspect) : State :=
  if s.svc.suspects.contains x || s.svc.ballot.any (·.suspect == x) then s
  else match s.svc.ballot with
    | none => { s with svc := { s.svc with ballot := some (s.ballotOn x) } }
    | some _ => { s with svc := { s.svc with suspects := s.svc.suspects ++ [x] } }

/-- The vote is over; the next suspect's opens (R405). -/
def State.endBallot (s : State) : State :=
  match s.svc.suspects with
  | [] => { s with svc := { s.svc with ballot := none } }
  | x :: xs => { s with svc := { s.svc with suspects := xs, ballot := some (s.ballotOn x) } }

/-- Has the vote to amputate a part passed (R405)? -/
def State.condemned (s : State) (x : Suspect) : Bool := s.svc.ballot.any fun b => b.suspect == x && b.passed

/-- DIE_LOSS_DETECTED (R401 step 1). -/
def execDieLossDetected (pdie : Nat) (s : State) : Out State :=
  .next (if 9 ≤ pdie || s.svc.lostDies.contains pdie then s else s.suspect (.die pdie))

/-- VOTE_TIMEOUT: with too few votes no part is amputated; the links that the evidence names go by PORT_LOSS
(R405, log entry 16). -/
def execVoteTimeout (s : State) : Out State :=
  .next (if s.svc.ballot.any (·.passed) then s else s.endBallot)

/-- Logical die that a physical die of this package holds (R400). -/
def State.identityOf (s : State) (pdie : Nat) : Option Nat :=
  (List.range 8).find? fun d =>
    let e := s.svc.dieMap.toList.getD d 0
    e.getLsbD 15 && !e.getLsbD 14 && field e.toNat 0 4 == pdie

/-- AMPUTATION_VOTE: one vote of each of the suspect's voters counts. A die that holds no identity is lost as soon as the
vote has passed, since no takeover follows (R401, R405). -/
def execAmputationVote (voter : Nat) (amputate : Bool) (s : State) : Out State :=
  .next (match s.svc.ballot with
    | none => s
    | some b =>
      if b.votes.any (·.1 == voter) || !b.voters.contains voter then s
      else
        let b := { b with votes := b.votes ++ [(voter, amputate)] }
        let b := { b with passed := b.passed || b.carries }
        let s : State := { s with svc := { s.svc with ballot := some b } }
        match b.suspect with
        | .die pdie =>
          if b.passed && (s.identityOf pdie).isNone then
            State.endBallot { s with svc := { s.svc with lostDies := s.svc.lostDies ++ [pdie] } }
          else s
        | .package _ => s)

/-- The package's own power goes, or it is lost as a whole (R401; 16_system.md R431). -/
def State.loseOwn (s : State) : State := { s with svc := { s.svc with powered := false, stage := .off } }

/-- Is a physical die the unused blank (R400, R401)? -/
def State.isBlank (s : State) (pdie : Nat) : Bool :=
  (s.identityOf pdie).isNone && !s.svc.lostDies.contains pdie && Config.selfTest pdie

/-- The die map entry of the spare for an identity: the blank, else a die of another package (R400, R401). -/
def State.spareEntry (s : State) : Option (BitVec 16) :=
  match (List.range 9).find? s.isBlank with
  | some p => some (BitVec.ofNat 16 (0x8000 + p))
  | none => (Config.remoteSpare s.fresh).map fun (k, p) => BitVec.ofNat 16 (0xC000 + k % 1024 * 16 + p % 16)

/-- Is a byte of memory in the scratchpad of a core of a die? -/
def inDieScratch (d a : Nat) : Bool := scratchBase ≤ a && dieOf (scratchCore a) == d

/-- The tasks and units of a die are cleared, its scratchpads zeroed once what was accepted for them is written, its event
lines and barriers zeroed (R406; 07_scratchpad.md R188; 11_order.md R299). That the quads of an identity keep their
quarantine marks when another physical die takes it is the model's choice (01_machine.md R14; log entry 17). -/
def State.clearDie (s : State) (d : Nat) : State :=
  let s := (s.discardTasks fun t => !t.spilled && t.die == d).serveEverything
  { s with
    mem := s.mem.filter fun c => !inDieScratch d c.1
    flips := s.flips.filter fun f => !inDieScratch d (8 * f.1)
    poison := s.poison.filter fun l => !inDieScratch d (64 * l)
    tags := s.tags.filter fun t => !inDieScratch d (64 * t.1)
    cores := (s.cores.map fun (k, c) => (k, if dieOf k = d then { Core.idle with spallot := c.spallot } else c)).filter
      fun e => e.2 != Core.idle
    quads := s.quads.map fun (k, q) => (k, if k / 64 = d then { q with
      drained := false, caps := [], tlb := [], vcycle := 0, vlow := 0, mlow := 0, busy := [], mgrant := 0
      lines := Vector.replicate 32 0, barriers := [] } else q)
    dies := s.dies.map fun (k, x) => (k, if k = d then { x with
      ovfcnt := 0, corrected := 0, engineNext := [], barriers := [] } else x) }

/-- The buffered stores of a die's tasks are performed, as before a pre-emption (R406; 14_containment.md R366). -/
def State.flushDie (s : State) (d : Nat) : State :=
  let mine := s.requests.filter fun r => r.index < 0x8000 && dieOf (r.index / 16) == d
  mine.foldl (fun s r => s.accept r) { s with requests := s.requests.filter fun r => !mine.contains r }

/-- The buffered stores of a lost die's tasks are lost with it (01_machine.md R14). -/
def State.dropDie (s : State) (d : Nat) : State :=
  { s with requests := s.requests.filter fun r => !(r.index < 0x8000 && dieOf (r.index / 16) == d) }

/-- Owners of the uncleared work of a die: the domains not yet cleared, and the launches in no domain, that have issued
instructions on it, among whose lines are all that its L1s held dirty; its tasks, spilled ones and their copies among
them; the chains on it and the dirty lines homed there or in its scratchpads (01_machine.md R31; R397, R399, R401; log
entry 17). -/
def State.workOf (s : State) (d : Nat) : List Owner :=
  let ran := (s.doms.filter fun x => x.dies.contains d && (x.state == .provisional || x.state == .committed)).map fun x =>
      (⟨x.id, x.ctxid, x.launch⟩ : Owner)
  let loose := (s.launches.filter (·.dies.contains d)).map fun l => (⟨0, l.ctxid, l.id⟩ : Owner)
  let ts := (s.tasks.filter fun t => t.die == d).map fun t => (⟨t.domain, t.ctxid, t.launchid⟩ : Owner)
  let packets := (s.packets.filter fun p => homePlace p.pa / 64 % 8 == d).map fun p =>
    (⟨p.who.dom, p.who.ctxid, p.who.launch⟩ : Owner)
  let lines := s.tags.filterMap fun (l, t) =>
    let there := if scratchBase ≤ 64 * l then inDieScratch d (64 * l) else homePlace (64 * l) / 64 % 8 == d
    match t with
    | .work o => if there && s.dirty (64 * l) then some o else none
    | _ => none
  (ran ++ loose ++ ts ++ packets ++ lines).eraseDups

/-- A lantern pair, by its physical position in the order of R405: D0 to D8, H0 to H3, host chiplet, IO-B, IO-A. -/
def State.pair (s : State) (n : Nat) : Pair := Sparse.read {} s.svc.pairs n

/-- Changes a lantern pair. -/
def State.modPair (s : State) (n : Nat) (f : Pair → Pair) : State :=
  { s with svc := { s.svc with pairs := Sparse.write {} s.svc.pairs n (f (s.pair n)) } }

/-- Position of IO-A's pair. -/
def pairIoA : Nat := 15

/-- Is a lantern pair live (R404, R405)? -/
def State.pairLive (s : State) (n : Nat) : Bool :=
  !(s.pair n).dead && !(s.pair n).stopped && !s.svc.lostDies.contains n

/-- The live pair with the lowest physical position leads at the next term (R405). -/
def State.elect (s : State) : State :=
  let live := (List.range 16).filter s.pairLive
  let s := live.foldl (fun s n => s.modPair n ({ · with term := s.svc.term + 1 })) s
  { s with svc := { s.svc with leader := live.head?, term := s.svc.term + 1 } }

/-- Steps 3 to 6 of a takeover: the spare takes the identity, and the charged domains are replayed (R401). -/
def State.takeOver (s : State) (die pdie : Nat) (term : BitVec 32) : State :=
  match s.spareEntry with
  | none => s.draw.loseOwn
  | some e =>
    let s := s.draw.writeDieMap term ((s.svc.dieMap.setIfInBounds die e).toList)
    let owners := s.workOf die
    let s : State := { s with packets := s.packets.filter fun p => homePlace p.pa / 64 % 8 != die }
    let s := ((s.dropDie die).clearDie die).modDie die ({ · with inReset := false })
    let s : State := { s with svc := { s.svc with lostDies := s.svc.lostDies.filter (· != pdie) ++ [pdie] } }
    s.endBallot.chargeAll owners .check

/-- SPARE_TAKEOVER: after a passed vote on the physical die of an identity, under a term that the routers accept
(R401, R405); where the leader's pair is on that die, the other pairs elect first (R409). -/
def execSpareTakeover (die : Nat) (term : BitVec 32) (s : State) : Out State :=
  let e := s.svc.dieMap.toList.getD die 0
  let pdie := field e.toNat 0 4
  .next (if e.getLsbD 15 && !e.getLsbD 14 && s.condemned (.die pdie) && s.svc.dieTerm ≤ term then
      (if s.svc.leader = some pdie then State.elect { s with svc := { s.svc with lostDies := s.svc.lostDies ++ [pdie] } }
       else s).takeOver die pdie term
    else s)

/-- The 32-byte sectors of this package's protected area that hold anything. -/
def State.protectedSectors (s : State) (base : Nat) : List Nat :=
  ((s.mem.filter fun c => base ≤ c.1 && c.1 < base + protectedLength).map fun c => c.1 / 32).eraseDups

/-- This package's contributions to the spare of a lost member, as GF reductions (R403 step 4). -/
def State.contributeTo (s : State) (pkg : Nat) : State :=
  let g := s.svc.group
  let index := fun (k : Nat) => g.findIdx? (·.1 == k)
  match index s.svc.packageId, index pkg, s.protectedBase with
  | some m, some x, some base =>
    let other := (s.svc.lostPackages.filter (· != pkg)).findSome? index
    (s.serveEverything.protectedSectors base).foldl (fun s sector =>
      let off := 32 * sector - base
      let k := off / 0x10000
      let c := rebuildCoeff (roleOf k x) (other.map (roleOf k)) (roleOf k m)
      let bs := (s.bytes (32 * sector) 32).map (gfmul c)
      if bs.all (· == 0) then s
      else s.send pkg (s.deviceWho 0) (.red ⟨s.deviceWho 0, (g.getD x (0, 0)).2 + off, .xor bs⟩)) s.serveEverything
  | _, _, _ => s

/-- Leaves of a page table from a table at `base` through the levels given (09_memory.md R237, R238). -/
def State.leavesFrom (s : State) : Nat → List (Nat × Nat) → List Nat
  | _, [] => []
  | base, (level, shift) :: rest =>
    (List.range 8192).flatMap fun i =>
      let e := s.lookNat (base + 8 * i) 8
      if e % 2 = 0 || malformedEntry e level shift then []
      else if field e 20 3 = 1 then s.leavesFrom (field e 23 25 * 0x10000) rest
      else [e]

/-- Does a context map unprotected memory of a package (R403)? -/
def State.mapsUnprotected (s : State) (ctxid pkg : Nat) : Bool :=
  let root := (s.ctx ctxid).ptroot.toNat
  root != 0 && (s.leavesFrom root walkLevels).any fun e => leafAper e == pkg && leafMT e != 2

/-- What a package knows of a launch's pod barriers and phases: a launch that is rolled back in every package passes them
again (11_order.md R303). -/
def State.forgetPod (s : State) (p : Nat) (id : BitVec 32) : State :=
  let other := fun (m : BarrierMsg) => !(m.part == p && m.launch == id)
  { s with podSent := s.podSent.filter other, podArrivals := s.podArrivals.filter fun x => other x.2 }

/-- A launch rolled back after a package loss: its PROVISIONAL outer domain is replayed, with notice 5, or fails for want of
replays; a launch in no domain fails (R403 step 5, R396; 01_machine.md R31). -/
def State.rollBack (s : State) (pkg : Nat) (l : Launch) : State :=
  match s.dom? l.ctxid l.outer with
  | some d =>
    if d.state = .provisional then
      let c := s.choose d.ctxid 32 d.id false
      let s : State := if c matches .replay _ _ then s.forgetPod l.part l.id else s
      let s := s.act d.ctxid l.id .check c
      if c matches .replay _ _ then s.notice 0 l.part 5 (zext l.id) (BitVec.ofNat 64 pkg) else s
    else s
  | none => if l.outer = 0 then s.hwerr l.part l.id else s

/-- Owner of an uncounted store or reduction that this package sent (13_fabric.md R327). -/
def State.lossOf (s : State) (p : Parcel) : Option Owner :=
  if p.src ≠ s.svc.packageId then none
  else match p.msg with
    | .store m => some ⟨m.who.dom, m.who.ctxid, m.who.launch⟩
    | .red m => some ⟨m.who.dom, m.who.ctxid, m.who.launch⟩
    | _ => none

/-- A relay is lost: the domains of the uncounted stores and reductions that it had acknowledged and not reported as
forwarded are charged, and what it has not acknowledged goes by another route (13_fabric.md R326, R327). -/
def State.loseRelay (s : State) (pkg : Nat) : State :=
  let (lost, handed) := s.fab.handed.partition (·.peer == pkg)
  let mine := fun (f : Flit) => f.peer == pkg && f.dst != pkg
  let again := (s.fab.unacked ++ s.fab.resend).filter mine
  let s : State := { s with fab := { s.fab with
    handed := handed
    unacked := s.fab.unacked.filter fun f => !mine f
    resend := s.fab.resend.filter fun f => !mine f
    relay := s.fab.relay ++ again.map fun f => ⟨f.dst, s.svc.packageId, f.seq, f.parcels⟩ } }
  s.chargeAll ((lost.flatMap (·.parcels)).filterMap s.lossOf).eraseDups .check

/-- Steps 4 to 6 of a package loss (R403). -/
def State.losePackage (s : State) (pkg : Nat) : State :=
  let s := (s.loseRelay pkg).contributeTo pkg
  let (dead, rest) := s.launches.partition fun l => s.mapsUnprotected l.ctxid pkg
  let s := dead.foldl (fun s l => s.hwerr l.part l.id) s
  let rest := rest.filter fun l => l.stage == .running || l.stage == .opening
  let s := (rest.filter fun l => (s.part l.part).packages.contains pkg).foldl (fun s l => s.rollBack pkg l) s
  { s with svc := { s.svc with lostPackages := s.svc.lostPackages.filter (· != pkg) } }

/-- PACKAGE_LOSS: the package is suspected; once the vote has passed it is lost, and the affected launches are rolled
back. The loss of this package ends its own work (R401, R403, R405). -/
def execPackageLoss (pkg : Nat) (s : State) : Out State :=
  .next (if pkg = s.svc.packageId then s.loseOwn
    else if s.condemned (.package pkg) then
      (State.losePackage { s with svc := { s.svc with lostPackages := s.svc.lostPackages ++ [pkg] } } pkg).endBallot
    else s.suspect (.package pkg))

/-- LANTERN_HEARTBEAT_LAPSE: the leader is silent and the other pairs elect (R405). -/
def execLanternHeartbeatLapse (s : State) : Out State :=
  .next (match s.svc.leader with
    | some n => (s.modPair n ({ · with dead := true })).elect
    | none => s.elect)

/-- LANTERN_MISMATCH: the pair stops, and resets. Of its earlier mismatches those of the last hour count, how many is a
free value; with the third it is reported (R404; log entry 108). -/
def execLanternMismatch (pair : Nat) (s : State) : Out State :=
  let n := min (s.pair pair).mismatches (Config.recentMismatches s.fresh) + 1
  .next (s.draw.modPair pair fun x => { x with stopped := true, mismatches := n, reported := x.reported || 3 ≤ n })

/-- A die warm reset: the logical die that the physical die holds is cleared; HBM, die map and pair are kept (R406). -/
def State.warmReset (s : State) (pdie : Nat) : State :=
  match s.identityOf pdie with
  | some d => ((s.flushDie d).clearDie d).modDie d ({ · with inReset := true })
  | none => s

/-- LANTERN_RELOAD_COMPLETE: the pair has its state from the leader, and is live again; a warm reset of its die that it
could not take is sent again (R404, R405). -/
def execLanternReloadComplete (pair : Nat) (s : State) : Out State :=
  let s := s.modPair pair fun x => { x with stopped := false, dead := false, term := s.svc.term }
  let due := s.svc.resent.contains pair
  let s : State := { s with svc := { s.svc with resent := s.svc.resent.filter (· != pair) } }
  .next (if due then s.warmReset pair else s)

/-- DIE_WARM_RESET (R406). -/
def execDieWarmReset (pdie : Nat) (s : State) : Out State := .next (s.warmReset pdie)

/-- DIE_RESET_COMPLETE (R406). -/
def execDieResetComplete (pdie : Nat) (s : State) : Out State :=
  .next (match s.identityOf pdie with
    | some d =>
      if !(s.die d).inReset then s
      else ((List.range 256).map (256 * d + ·)).foldl (fun s ci => (s.deliverDiverted ci).switch ci)
        (s.modDie d ({ · with inReset := false }))
    | none => s)

/-- HUB_WARM_RESET: the hub's HBM goes into self-refresh and keeps its contents (R406). -/
def execHubWarmReset (_hub : Nat) (s : State) : Out State := .next s

end Sys2Proof.Machine
end

