-- ==== Sys2Proof/Machine/Schedule.lean ====
section
/-! DEFINITION. Launches from submission to clearance, dispatch, binding, spilling, quanta and stall timeouts
(01_machine.md R23 to R31, 05_tasks.md R121 to R131, 16_system.md R418 to R420). -/

namespace Sys2Proof.Machine

/-- Is a queue with this base reachable: in package memory, or over a PCIe link that is up (16_system.md R420)? -/
def State.queueReachable (s : State) (base : Word) : Bool := !base.getLsbD 63 || (s.svc.pcieUp && !s.svc.self)

/-- Bytes of a queue, in package memory or in host memory (16_system.md R418). -/
def State.queueBytes (s : State) (base : Word) (off n : Nat) : List Byte :=
  let a := base.toNat % 2 ^ 63 + off
  if base.getLsbD 63 then Memory.bytes s.hostMem a n else s.look a n

/-- May a record be taken from a context's launch queue (01_machine.md R24, 16_system.md R420)? -/
def State.eligible (s : State) (c : Ctx) : Bool :=
  c.lqsize != 0 && c.waiting != 0 && !c.overrun && s.queueReachable c.lqbase && c.cqsize != 0 && s.queueReachable c.cqbase

/-- The context of a partition whose turn it is (01_machine.md R24). -/
def State.nextContext (s : State) (p : Nat) : Option Nat :=
  ((List.range 4).map fun i => ((s.part p).rotation + i) % 4).find? fun n => s.eligible (s.ctx (4 * p + n))

/-- Launches of a partition between admission and final event (01_machine.md R25). -/
def State.launchCount (s : State) (p : Nat) : Nat := (s.launches.filter (·.part == p)).length

/-- Has a partition reset discarded its tasks and not yet zeroed its scratchpad segments? No task is bound meanwhile
(07_scratchpad.md R188). -/
def State.clearing (s : State) : Bool := s.parts.any fun x => x.2.resetting && x.2.resetStep == 1

/-- Free slots of a core that takes bindings (05_tasks.md R126). -/
def State.openSlots (s : State) (ci : Nat) : List Nat := if s.halted ci || s.clearing then [] else s.freeSlots ci

/-- Free slots of a quad of the package. -/
def State.quadSlots (s : State) (qi : Nat) : Nat := ((List.range 4).map fun c => (s.openSlots (4 * qi + c)).length).sum

/-- The first of some numbers with the largest measure. -/
def firstMost (f : Nat → Nat) : List Nat → Option Nat
  | [] => none
  | x :: xs =>
    match firstMost f xs with
    | none => some x
    | some y => if f x < f y then some y else some x

/-- FREE slots of a die, without those of drained quads and pre-empted cores (01_machine.md R26 step 2). -/
def State.freeOnDie (s : State) (d : Nat) : Nat :=
  if !s.runs d then 0
  else ((List.range 256).map fun c =>
    let ci := 256 * d + c
    if (s.quad (quadOf ci)).drained || (s.core ci).preempted || (s.core ci).stopping then 0
    else (s.freeSlots ci).length).sum

/-- The logical die with the most FREE slots, lower numbers first (01_machine.md R26 step 2). -/
def State.freestDie (s : State) : Nat := (firstMost s.freeOnDie (List.range 8)).getD 0

/-- A record taken from a queue: rejected, or admitted under the next launch id (01_machine.md R24). -/
def State.admitLaunch (s : State) (p n : Nat) : State :=
  let ctxid := 4 * p + n
  let c := s.ctx ctxid
  let full := c.waiting == 2 ^ c.lqsize.toNat
  let (r, ok) := parseLaunch (s.queueBytes c.lqbase (64 * (c.lqhead.toNat % 2 ^ c.lqsize.toNat)) 64)
  let s := s.modCtx ctxid fun c => { c with lqhead := BitVec.ofNat 64 ((c.lqhead.toNat + 1) % 2 ^ 32) }
  let s := s.modPart p ({ · with rotation := (n + 1) % 4 })
  let s := if full then s.raiseVector p 2 else s
  if !ok || c.ptroot == 0 then { s with posts := s.posts ++ [⟨p, n, 0, 0, 1, 4, r.tag, 0⟩] }
  else
    let id := (s.part p).launchNext
    let s := s.modPart p ({ · with launchNext := if id + 1 = 0 then 1 else id + 1 })
    { s with launches := s.launches ++ [{ part := p, ctx := n, id := id, tag := r.tag, key := r.key, det := r.det,
                                           nomix := r.nomix, root := r.root, domrec := r.domrec,
                                           rootDie := if r.rootDie = 15 then s.freestDie else r.rootDie,
                                           anyDie := r.rootDie == 15, prio := r.prio }] }

/-- Does a partition take launches now (01_machine.md R25; 16_system.md R412, R414)? -/
def State.admission? (s : State) (p : Nat) : Option Nat :=
  if (s.part p).en && !(s.part p).resetting && s.launchCount p < 64 then s.nextContext p else none

/-- LAUNCH_ADMISSION (01_machine.md R24). -/
def execLaunchAdmission (part : Nat) (s : State) : Out State :=
  match s.admission? part with
  | some n => .next (s.admitLaunch part n)
  | none => .next s

/-- LQTAIL_WRITE (16_system.md R420). -/
def execLqtailWrite (part ctx : Nat) (v : Word) (s : State) : Out State := .next (s.writeContext part ctx 0x10 v)

/-- A record read of admission faults: an entry, and the launch waits (09_memory.md R449). -/
def State.launchFault (s : State) (l : Launch) (d : Nat) (va record : Word) (f : PageFault) : State :=
  let s := s.postEntry d { target := .launch l.id, part := l.part, ctxid := l.ctxid, sid := d * 4096, vaddr := va,
                           record := record, cause := f.cause, kind := 1, acc := Acc.record.code, why := f.why,
                           level := f.level }
  s.modLaunch l.part l.id fun l => { l with held := l.held + 1 }

/-- Who reads for a launch. -/
def State.launchWho (s : State) (l : Launch) : Who := ⟨0, 0, l.ctxid, (s.part l.part).epoch, l.outer, l.id⟩

/-- The id of a launch's outer domain: drawn here, or asked for in the package that holds the counter
(14_containment.md R357). -/
def State.launchId (s : State) (l : Launch) : State × Option Nat :=
  if s.capLocal l.ctxid then
    let (s, id) := s.drawId l.ctxid
    (s, some id)
  else match l.drawn with
    | some id => (s, some id)
    | none =>
      if l.asked then (s, none)
      else ((s.modLaunch l.part l.id ({ · with asked := true })).send (s.capHome l.ctxid) (s.launchWho l)
        (.idDraw (2 ^ 64 + (s.part l.part).epoch.toNat * 2 ^ 36 + l.part * 2 ^ 32 + l.id.toNat) l.ctxid), none)

/-- The moves of an outer domain with its id: it is open once they are complete; a refusal ends the launch (01_machine.md
R26, 14_containment.md R352, R362). -/
def State.carryOuter (s : State) (l : Launch) (r : DomRecord) (id : Nat) : State × Bool :=
  match s.transact (tokenLaunch l.part l.id, forChange) l.ctxid 0 (s.openSteps l.ctxid id 0 r) with
  | (s, none) => (s.modLaunch l.part l.id ({ · with plan := some (r, id) }), false)
  | (s, some x) =>
    if x.verdict ≠ .done then ((s.freeId l.ctxid id true).failLaunch l.part l.id 2 causeCapv 0, false)
    else
      let d := newDom l.ctxid id l.id l.domrec 0 1 r l.root l.rootDie l.prio 0 0 0 0
      let d := { d with pages := r.ownPages.filter fun p => !r.savePages.contains p }
      ({ s with doms := s.doms ++ [d] }.modLaunch l.part l.id ({ · with outer := id, plan := none }), true)

/-- Step 1 of R26: opens the outer domain; the result says whether it is open (01_machine.md R26, 14_containment.md
R362). -/
def State.openOuter (s : State) (l : Launch) : State × Bool :=
  match l.plan with
  | some (r, id) => s.carryOuter l r id
  | none =>
  match s.recordRead l.ctxid (tokenLaunch l.part l.id) (s.launchWho l) l.domrec 4 with
  | (s, .pending) => (s, false)
  | (s, .fault va f) => (s.launchFault l (if l.anyDie then 0 else l.rootDie) va l.domrec f, false)
  | (s, .bytes bs) =>
    match parseDomain bs true with
    | none => (s.failLaunch l.part l.id 2 causeIllegal 0, false)
    | some r =>
      if !s.domAreaThere l.part then (s.noteArea l.part 0x60 (stalledLaunch l.id), false)
      else if 16384 ≤ s.domCount l.part
          ∨ (s.capLocal l.ctxid && s.checkPages (s.capView 0 l.ctxid) l.ctxid 0 r ≠ .ok) then
        (s.failLaunch l.part l.id 2 causeCapv 0, false)
      else if !s.spans l.part && !s.drained l.part then (s, false)
      else match s.launchId l with
        | (s, none) => (s, false)
        | (s, some id) => (s.dropReads (tokenLaunch l.part l.id)).carryOuter l r id

/-- The queue entry of a launch's root task (01_machine.md R26 step 2). -/
def Launch.rootEntry (l : Launch) (age outer : Nat) : QEntry :=
  { age := age, unread := true, root := true, record := l.root, ctxid := l.ctxid, launch := l.id, prio := l.prio, pc := 0,
    ranges := [], args := [], aff := none, seq := 0, phase := 0, bar := 0, domain := outer, ag := 0 }

/-- Step 2 of R26: the root task's record enters its queue; with no queue area that raises vector 4 (16_system.md R412,
R417). -/
def State.queueRoot (s : State) (l : Launch) : State :=
  if !s.queueRoom l.rootDie l.part then
    if areaAbsent (s.part l.part).qarea then s.noteArea l.part 0x40 (stalledLaunch l.id) else s
  else
    let outer := match s.launch? l.part l.id with
      | some x => x.outer
      | none => 0
    let s := s.modLaunch l.part l.id ({ · with stage := .running })
    s.tick.spawnRoot l.rootDie (l.rootEntry s.clock outer)

/-- Steps 1 and 2 of an admitted launch, as far as they go (01_machine.md R26). -/
def State.openLaunch (s : State) (l : Launch) : State :=
  if l.stage ≠ .opening ∨ l.held ≠ 0 then s
  else if l.domrec ≠ 0 ∧ l.outer = 0 then
    match s.openOuter l with
    | (s, true) => s.queueRoot l
    | (s, false) => s
  else s.queueRoot l

/-- Has the work of a launch ended: tasks, entries, what is on its way, and the domains that are to commit again after a
replay (01_machine.md R26 step 5, R30)? -/
def State.launchIdle (s : State) (l : Launch) : Bool :=
  let mine := fun (w : Who) => w.ctxid / 4 == l.part && w.launch == l.id
  (s.tasks.all fun t => !(t.part == l.part && t.launchid == l.id))
    && (s.dies.all fun x => x.2.queue.all fun e => !(e.ctxid / 4 == l.part && e.launch == l.id))
    && (s.orphans.all fun t => !(t.part == l.part && t.launchid == l.id))
    && s.requests.all (fun r => !mine r.who) && s.fab.out.all (fun m => !mine m.who)
    && (s.cores.all fun x => x.2.sends.all fun e => !mine e.who)
    && s.doms.all fun d => !(d.ctxid == l.ctxid && d.launch == l.id && d.closed && d.state == .provisional && d.id != l.outer)

/-- DONE of a launch whose work has ended and whose outer domain commits, once the deltas of the commit have been accepted
or have left the fabric interface (LAUNCH_COMMIT, 01_machine.md R26 step 5; 12_copy.md R320). -/
def State.commitLaunch (s : State) (l : Launch) : State :=
  let done := fun (s : State) => (s.postEvent l 1 0 0 0).modLaunch l.part l.id ({ · with stage := .done })
  if l.stage ≠ .running ∨ !s.launchIdle l then s
  else if l.outer = 0 then done s
  else match s.dom? l.ctxid l.outer with
    | none => done s
    | some d =>
      if d.state ≠ .provisional then done s
      else match s.tryCommit d with
        | (s, true) => if s.launchIdle l then done s else s
        | (s, false) => s

/-- LAUNCH_COMMIT (01_machine.md R26 step 5). -/
def execLaunchCommit (part : Nat) (id : BitVec 32) (s : State) : Out State :=
  match s.launch? part id with
  | some l => .next (s.commitLaunch l)
  | none => .next s

/-- CLEARED of a launch: every quad that ran its work has passed a scan since, and its outer domain, or the domains that
its tasks in no domain closed, are CLEARED (01_machine.md R26 step 6). -/
def State.clearLaunch (s : State) (l : Launch) : State :=
  let scanned := s.quads.all fun q => q.2.ran.all fun w => !(w.ctxid / 4 == l.part && w.launch == l.id)
  let cleared := l.outer == 0 || match s.dom? l.ctxid l.outer with
    | some d => d.state == .cleared
    | none => true
  let inner := s.doms.all fun d => !(d.ctxid == l.ctxid && d.launch == l.id && d.closed && d.id != l.outer)
    || d.state == .cleared || d.state == .discarded
  if l.stage = .done && scanned && cleared && inner then (s.postEvent l 2 0 0 0).endLaunch l else s

/-- A completion record (01_machine.md R28). -/
def Post.bytes (x : Post) : List Byte :=
  leBytes 16 (x.launch.toNat + x.tag.toNat * 2 ^ 32 + x.event.toNat * 2 ^ 64 + x.status.toNat * 2 ^ 72
    + x.cause.toNat * 2 ^ 80 + x.eslot * 2 ^ 98)

/-- Have the writes of a record's launch been performed, or left the fabric interface: posting it is a release of them
(11_order.md R298)? -/
def State.writesMade (s : State) (x : Post) : Bool :=
  let mine := fun (w : Who) => w.ctxid / 4 == x.part && w.launch == x.launch && x.launch != 0
  s.requests.all (fun r => !mine r.who) && s.fab.out.all fun m => !mine m.who || m.cls != .fb

/-- Can the oldest completion record of a context be posted now (16_system.md R420; 11_order.md R298)? -/
def State.postable (s : State) (p n : Nat) : Option Post :=
  let c := s.ctx (4 * p + n)
  if c.cqsize != 0 && s.queueReachable c.cqbase && !(c.cqbase.getLsbD 63 && s.svc.hostLost)
      && (c.cqtail.toNat + 2 ^ 32 - c.cqhead.toNat) % 2 ^ 32 < 2 ^ c.cqsize.toNat then
    (s.posts.find? fun x => x.part == p && x.ctx == n).filter s.writesMade
  else none

/-- Writes a completion record, then CQTAIL, then raises vector 0 (16_system.md R420). -/
def State.postRecord (s : State) (x : Post) : State :=
  let ctxid := 4 * x.part + x.ctx
  let c := s.ctx ctxid
  let a := c.cqbase.toNat % 2 ^ 63 + 16 * (c.cqtail.toNat % 2 ^ c.cqsize.toNat)
  let s : State := { s with posts := s.posts.erase x }
  let s : State := if c.cqbase.getLsbD 63 then { s with hostMem := Memory.setBytes s.hostMem a x.bytes }
    else (s.serve a).poke a x.bytes
  let s := s.modCtx ctxid fun c => { c with cqtail := BitVec.ofNat 64 ((c.cqtail.toNat + 1) % 2 ^ 32) }
  s.raiseVector x.part 0

/-- COMPLETION_POST (01_machine.md R28). -/
def execCompletionPost (part ctx : Nat) (s : State) : Out State :=
  match s.postable part ctx with
  | some x => .next (s.postRecord x)
  | none => .next s

/-- Is the domain of an entry ready for its tasks: its snapshot made and no replay waiting (14_containment.md R360)? -/
def State.domReady (s : State) (e : QEntry) : Bool :=
  match s.dom? e.ctxid e.domain with
  | some d => d.snapshot && !d.restoring
  | none => true

/-- May tasks of an entry run dual on quarantined quads (05_tasks.md R126, 14_containment.md R371)? -/
def State.mayShadow (s : State) (e : QEntry) : Bool :=
  match s.dom? e.ctxid e.domain with
  | some d => d.dual && !d.healthyOnly
  | none => false

/-- Is a quad open to an entry: not quarantined, or open to shadows (05_tasks.md R126)? -/
def State.quadOpen (s : State) (e : QEntry) (qi : Nat) : Bool := !(s.quad qi).quarantined || s.mayShadow e

/-- The slot of a quad by rules 3 and 4 of R126. -/
def State.slotIn (s : State) (qi : Nat) : Option Nat :=
  match firstMost (fun ci => (s.openSlots ci).length) ((List.range 4).map (· + 4 * qi)) with
  | none => none
  | some ci => ((s.openSlots ci).head?).map (· + 16 * ci)

/-- The slot among some quads of a die by the rules of R126; `aff` is the preferred quad. -/
def State.slotAmong (s : State) (d : Nat) (aff : Option Nat) (ok : Nat → Bool) : Option Nat :=
  let quads := ((List.range 64).map (· + 64 * d)).filter fun qi => ok qi && s.quadSlots qi != 0
  match aff.filter fun q => quads.contains (64 * d + q) with
  | some q => s.slotIn (64 * d + q)
  | none => (firstMost s.quadSlots quads).bind s.slotIn

/-- The slots that an entry takes: one, or on a quarantined quad that of the shadow and that of the primary
(05_tasks.md R126, 14_containment.md R370). -/
inductive Slots where
  | one (sid : Nat)
  | pair (primary shadow : Nat)
deriving DecidableEq, Repr

/-- Chooses the slots of an entry. -/
def State.chooseSlots (s : State) (d : Nat) (e : QEntry) : Option Slots :=
  match s.slotAmong d e.aff (s.quadOpen e) with
  | none => none
  | some sid =>
    if (s.quad (sid / 64)).quarantined then
      (s.slotAmong d e.aff fun qi => !(s.quad qi).quarantined).map fun h => .pair h sid
    else some (.one sid)

/-- What a step of dispatch on a chosen entry came to (05_tasks.md R122). -/
inductive Checked where
  | pass (e : QEntry)
  | aside (e : QEntry)
  | failed
deriving DecidableEq, Repr

/-- Puts an entry back into its die's queue at its place. -/
def State.putEntry (s : State) (d : Nat) (e : QEntry) : State :=
  s.modDie d fun x => { x with queue := x.queue.map fun q => if q.age = e.age then e else q }

/-- Step 2 of dispatch: DEPCNT, and for a root task its record first (05_tasks.md R122, 09_memory.md R449). -/
def State.depend (s : State) (d : Nat) (e : QEntry) : State × Checked :=
  match (if e.unread then s.prepare d e else (s, .ready e)) with
  | (s, .wait e) => (s, .aside e)
  | (s, .malformed) => (s.failLaunch (e.ctxid / 4) e.launch 2 causeIllegal 0, .failed)
  | (s, .ready e) =>
    match s.translate e.ctxid .record (e.record + 48) with
    | (s, .error f) =>
      (s.recordFault d e (.record d e.age) .record (e.record + 48) f, .aside { e with state := .waiting 1 })
    | (s, .ok l) =>
      match (s.noteAccess l).readAt (s.entryWho e) (tokenEntry e.age) l 4 with
      | (s, none) => (s, .aside e)
      | (s, some bs) =>
        let s := s.dropReads (tokenEntry e.age)
        if leNat bs = 0 then (s, .pass e) else (s, .aside { e with state := .blocked l.pkg (l.pa / 64 * 64) })

/-- Lease pages of an entry: the pages of its ranges that do not roam (05_tasks.md R122, 09_memory.md R248). -/
def QEntry.leasePages (e : QEntry) : List Nat :=
  ((e.ranges.filter (!·.roam)).flatMap fun r => pagesOf r.base r.len).eraseDups

/-- Step 3 of dispatch: every lease page is walked, each that is not present gives a lease fault (09_memory.md R248). -/
def State.lease (s : State) (d : Nat) (e : QEntry) : State × Checked :=
  let (s, n) := e.leasePages.foldl (fun (p : State × Nat) page =>
    let va := BitVec.ofNat 64 (page * 0x10000)
    match p.1.translate e.ctxid .lease va with
    | (s, .ok _) => (s, p.2)
    | (s, .error f) => if f.prot then (s, p.2) else (s.recordFault d e (.lease d e.age) .lease va f, p.2 + 1)) (s, 0)
  if n = 0 then (s, .pass { e with leased := true }) else (s, .aside { e with state := .waiting n })

/-- Steps 2 and 3 of dispatch. -/
def State.ready (s : State) (d : Nat) (e : QEntry) : State × Checked :=
  match s.depend d e with
  | (s, .pass e) => s.lease d e
  | x => x

/-- The task that an entry becomes in a slot (05_tasks.md R127, R152; 14_containment.md R373). -/
def QEntry.task (e : QEntry) (uid sid : Nat) (l : Option Launch) : Task :=
  { uid := uid, sid := sid, pc := e.pc, taskrec := e.record, ctxid := e.ctxid, launchid := e.launch,
    g := ((((Vector.replicate 32 0).set 1 (e.args.getD 0 0)).set 2 (e.args.getD 1 0)).set 3 (e.args.getD 2 0)).set 4
      (e.args.getD 3 0)
    launchkey := (l.map (·.key)).getD 0, det := (l.map (·.det)).getD false, nomix := (l.map (·.nomix)).getD false,
    phase := e.phase, bar := e.bar, seq := e.seq, domain := e.domain, ag := e.ag, ranges := e.ranges, prio := e.prio }

/-- A new task enters its slot and its core's ready list. Its binding is an acquire at `.pkg`; that of a root, which no
`TSPAWN` made, comes after all that has taken effect (05_tasks.md R127; log entry 90). -/
def State.place1 (s : State) (t : Task) (root : Bool) : State :=
  let s := s.serveEverything
  let s := if root then s else s.meet t .pkg
  let t := if root then t.upToDate s else t
  ({ s with tasks := s.tasks ++ [t], nextUid := max s.nextUid (t.uid + 1) }.enterReady t).switch t.ci

/-- Step 4 of dispatch: the entry leaves its queue and its task is bound (05_tasks.md R122, R127). -/
def State.bind (s : State) (d : Nat) (e : QEntry) (sl : Slots) : State :=
  let s := s.modDie d fun x => { x with queue := x.queue.filter fun q => q.age != e.age }
  let l := s.launch? (e.ctxid / 4) e.launch
  let u := s.nextUid
  match sl with
  | .one sid => s.place1 (e.task u sid l) e.root
  | .pair h q =>
    (s.place1 { e.task u h l with dual := .primary (u + 1) } e.root).place1
      { e.task (u + 1) q l with dual := .shadow u } e.root

/-- D_p of the scheduler (05_tasks.md R123, 16_system.md R413). -/
def State.schedCharge (s : State) (p : Nat) : BitVec 32 :=
  BitVec.ofNat 32 (65536 / max 1 (field (s.part p).pqos.toNat 0 8))

/-- Virtual time of a partition on a die. That a partition has one for each die's scheduler, and not one for the package, is
the model's choice (05_tasks.md R123; log entry 77). -/
def Die.time (x : Die) (p : Nat) : BitVec 32 := Sparse.read 0 x.vtime p

/-- Bindings of a partition made so far by a die's scheduler (05_tasks.md R124). The count is kept by scheduler, so that
the bound of R125 holds on each die (log entry 77). -/
def Die.bound (x : Die) (p : Nat) : Nat := Sparse.read 0 x.bindings p

/-- Can an entry be bound as things stand: its domain is ready, its DEPCNT is 0 and its lease pages are present
(05_tasks.md R122, R123)? The record of another package says so only once it has been read (log entry 73). -/
def State.bindable (s : State) (e : QEntry) : Bool :=
  e.state == .queued && s.domReady e
    && (match s.lookup e.ctxid .record (e.record + 48) with
      | .ok (_, l) =>
        if l.pkg = s.svc.packageId then s.lookNat l.pa 4 == 0
        else (s.read? (tokenEntry e.age) l.pkg (l.pa / 64 * 64)).any fun r => r.value.any fun bs =>
          leNat ((bs.drop (l.pa % 64)).take 4) == 0
      | .error _ => false)
    && e.leasePages.all fun page => match s.lookup e.ctxid .lease (BitVec.ofNat 64 (page * 0x10000)) with
      | .error f => f.prot
      | .ok _ => true

/-- Partitions of a die with an entry or ready spilled continuation that can be bound (05_tasks.md R123). -/
def State.activeNow (s : State) (d : Nat) : List Nat :=
  (List.range 16).filter fun p =>
    ((s.die d).queue.any fun e => e.ctxid / 4 == p && s.bindable e)
      || s.tasks.any fun t => t.spilled && t.status == .ready && t.die == d && t.part == p

/-- The smallest active time of a die is looked at: when it has passed a multiple of 2^30 the inactive times behind it are
raised to it (05_tasks.md R123). -/
def Die.settleTimes (x : Die) : Die :=
  match (earliest x.time x.active).map x.time with
  | none => x
  | some now =>
    ((List.range 16).filter fun q => !x.active.contains q).foldl (fun (y : Die) q =>
      { y with vtime := Sparse.write 0 y.vtime q (raised x.low now (y.time q)) }) { x with low := now }

/-- Partitions that have become active take the smallest time of those already active if it is later; then the smallest
time is looked at (05_tasks.md R123). -/
def State.activate (s : State) (d : Nat) : State :=
  let x := s.die d
  let now := s.activeNow d
  let old := now.filter x.active.contains
  let new := now.filter fun p => !x.active.contains p
  let x := match earliest x.time old with
    | none => x
    | some m => new.foldl (fun (x : Die) p =>
        if timeBefore (x.time p) (x.time m) then { x with vtime := Sparse.write 0 x.vtime p (x.time m) } else x) x
  s.setDie d { x with active := now }.settleTimes

/-- A binding charges its partition and counts (05_tasks.md R123, R124). -/
def State.chargeBinding (s : State) (d p : Nat) : State :=
  let x := s.die d
  let x := { x with vtime := Sparse.write 0 x.vtime p (x.time p + s.schedCharge p) }.settleTimes
  s.setDie d { x with bindings := Sparse.write 0 x.bindings p (x.bound p + 1) }

/-- Something that the scheduler can bind: a queue entry or a ready spilled continuation. -/
inductive Candidate where
  | entry (e : QEntry)
  | back (t : Task)
deriving DecidableEq, Repr

/-- The oldest entry of some. -/
def oldestOf : List QEntry → Option QEntry
  | [] => none
  | x :: xs =>
    match oldestOf xs with
    | none => some x
    | some y => some (if y.age < x.age then y else x)

/-- The spilled continuation, ready and with a free slot on its core, that goes first: of several that are ready, the one
parked longest at the highest priority, which is the model's choice (05_tasks.md R124, R131; log entry 102). -/
def State.comeback (s : State) (d p : Nat) : Option Task :=
  (s.tasks.filter fun t => t.spilled && t.status == .ready && t.die == d && t.part == p
    && !(s.openSlots t.ci).isEmpty).foldl (fun b t => match b with
      | none => some t
      | some u => if u.prio < t.prio ∨ (u.prio = t.prio ∧ t.order < u.order) then some t else some u) none

/-- The candidate of a partition by R124, leaving out entries set aside in this round. -/
def State.pick (s : State) (d p : Nat) (aside : List Nat) : Option Candidate :=
  let es := if areaAbsent (s.part p).qarea then [] else (s.die d).queue.filter fun e =>
    e.ctxid / 4 == p && e.state == .queued && s.domReady e && !aside.contains e.age && (s.chooseSlots d e).isSome
  let top := es.foldl (fun m e => max m e.prio) 0
  let e := if (s.die d).bound p % 16 = 15 then oldestOf es else oldestOf (es.filter (·.prio == top))
  match s.comeback d p, e with
  | some t, some e => if e.prio ≤ t.prio then some (.back t) else some (.entry e)
  | some t, none => some (.back t)
  | none, some e => some (.entry e)
  | none, none => none

/-- A spilled continuation returns to a slot of its core. It is no binding, which would give a task the state of R127: it
neither counts nor charges its partition, so that the bound of R125 holds (05_tasks.md R123 to R125, R131; log entry
77). -/
def State.returnTask (s : State) (t : Task) : State :=
  match (s.openSlots t.ci).head? with
  | none => s
  | some n =>
    let t := { t with spilled := false, sid := 16 * t.ci + n }
    ((s.putTask t).enterReady t).switch t.ci

/-- One binding of a die's scheduler, or the return of one spilled continuation; a DUAL pair is one binding (log entry 77):
partitions in the order of R123, entries in that of R124, each taken through the steps of R122; an entry that cannot go on
is set aside and the choice repeats. -/
def State.dispatchFrom (s : State) (d : Nat) (aside : List Nat) : Nat → State × Bool
  | 0 => (s, false)
  | n + 1 =>
    let ps := (List.range 16).filter fun p => (s.pick d p aside).isSome
    match earliest (s.die d).time ps with
    | none => (s, false)
    | some p =>
      match s.pick d p aside with
      | none => (s, false)
      | some (.back t) => (s.returnTask t, true)
      | some (.entry e) =>
        match s.ready d e with
        | (s, .pass e) =>
          match s.chooseSlots d e with
          | some sl => ((s.bind d e sl).chargeBinding d p, true)
          | none => (s.putEntry d e).dispatchFrom d (aside ++ [e.age]) n
        | (s, .aside e) =>
          let s' := s.putEntry d e
          if e.state = .queued then s'.dispatchFrom d (aside ++ [e.age]) n else (s', true)
        | (s, .failed) => (s, true)

/-- The scheduler of a die binds one task or continuation, sets an entry aside, or asks for records of other packages;
the result says whether it did anything. -/
def State.dispatch (s : State) (d : Nat) : State × Bool :=
  if (s.die d).inReset || !s.runs d || ((s.die d).queue.isEmpty && s.tasks.all (!·.spilled)) then (s, false)
  else
    let (s', b) := (s.activate d).dispatchFrom d [] ((s.die d).queue.length + 1)
    (s', b || s'.reads.length != s.reads.length)

/-- Entries that wait on a die while the queue area of their partition is absent raise vector 4 (16_system.md R412,
R417). -/
def State.noteAbsent (s : State) (d : Nat) : State :=
  ((s.die d).queue.filter fun e => areaAbsent (s.part (e.ctxid / 4)).qarea).foldl
    (fun s e => s.noteArea (e.ctxid / 4) 0x40 (stalledEntry e.age)) s

/-- DISPATCH (05_tasks.md R122). -/
def execDispatch (die : Nat) (s : State) : Out State :=
  .next ((s.dispatch die).1.noteAbsent die)

/-- Spilled continuations that a partition's park queue holds, and its size (16_system.md R412). -/
def State.parkRoom (s : State) (p : Nat) : Bool :=
  let a := (s.part p).pqarea
  !areaAbsent a && (s.tasks.filter fun t => t.spilled && t.part == p).length < 2 ^ field a.toNat 0 5

/-- The parked task of a full core that has been parked longest and may be spilled (05_tasks.md R131). -/
def State.spillable (s : State) (ci : Nat) : Option Task :=
  let here := s.tasks.filter fun t => !t.spilled && t.ci == ci
  let parked := fun (t : Task) => match t.status with
    | .parked _ => true
    | _ => false
  if s.halted ci || here.length != 16 || !here.all parked then none
  else (here.filter (·.ld == 0)).foldl (fun b t => match b with
    | none => some t
    | some u => if t.order < u.order then some t else some u) none

/-- Does the scheduler hold work for a core: an entry of its die that finds no slot, or a continuation of the core that is
ready (05_tasks.md R131)? -/
def State.workFor (s : State) (ci : Nat) : Bool :=
  ((s.die (dieOf ci)).queue.any fun e => e.state == .queued && s.domReady e && s.quadOpen e (quadOf ci)
      && (s.chooseSlots (dieOf ci) e).isNone)
    || s.tasks.any fun t => t.spilled && t.status == .ready && t.ci == ci

/-- Spills a task of a core, when R131 says so. -/
def State.spill (s : State) (ci : Nat) : Option State :=
  match s.spillable ci with
  | none => none
  | some t => if s.workFor ci && s.parkRoom t.part then some (s.putTask { t with spilled := true }) else none

/-- SPILL (05_tasks.md R131); an absent park queue raises vector 4 (16_system.md R412). -/
def execSpill (core : Nat) (s : State) : Out State :=
  match s.spill core, s.spillable core with
  | some s, _ => .next s
  | none, some t => .next (if s.workFor core && areaAbsent (s.part t.part).pqarea then s.noteArea t.part 0x48 (stalledTask t.uid)
      else s)
  | none, none => .next s

/-- QUANTUM_EXPIRY: the running task of a core, with its gang, goes to the tail of the ready list, at an instruction
boundary (05_tasks.md R130; 06_vector.md R175, 08_matrix.md R224, R229). -/
def execQuantumExpiry (core : Nat) (s : State) : Out State :=
  match (s.core core).running.bind s.task? with
  | none => .next s
  | some t => .next (if (s.core core).ready.isEmpty || s.halted core || (s.syncEntry t).isSome || s.awaitsMatrix t then s
      else s.yieldUnit t)

/-- Waits of a stalled task that park it as DEP after 256 cycles (05_tasks.md R145, 12_copy.md R314, 14_containment.md
R363, R375). -/
def Wait.timesOut : Wait → Bool
  | .counters .. | .watermark .. | .domain _ | .generation _ => true
  | _ => false

/-- ISSUE_STALL_TIMEOUT (05_tasks.md R145). -/
def execIssueStallTimeout (core : Nat) (s : State) : Out State :=
  match (s.core core).running.bind s.task? with
  | none => .next s
  | some t => .next (if (s.core core).stalled && t.wait.timesOut && !s.halted core then s.park t .dep t.wait else s)

/-- PCIE_LINK_DOWN (16_system.md R420). -/
def execPcieLinkDown (s : State) : Out State := .next { s with svc := { s.svc with pcieUp := false } }
/-- PCIE_LINK_UP (16_system.md R420). -/
def execPcieLinkUp (s : State) : Out State := .next { s with svc := { s.svc with pcieUp := true, hostLost := false } }

/-- Does a context post over PCIe? -/
def State.postsAfar (s : State) (x : Post) : Bool := (s.ctx (4 * x.part + x.ctx)).cqbase.getLsbD 63

/-- PCIE_COMPLETION_TIMEOUT: records for a host that does not answer are dropped and counted with their interrupts
(15_faults.md R408). -/
def execPcieCompletionTimeout (s : State) : Out State :=
  let gone := s.posts.filter s.postsAfar
  .next { s with
    posts := s.posts.filter fun x => !s.postsAfar x
    svc := { s.svc with hostLost := true, dropped := s.svc.dropped + 2 * gone.length } }

end Sys2Proof.Machine
end

