-- ==== Sys2Proof/Machine/Service.lean ====
section
/-! DEFINITION. Boot, the management port, power and temperature (16_system.md R425 to R431), and the two happenings of
instruction fetch (03_encoding.md R86, 05_tasks.md R138). -/

namespace Sys2Proof.Machine

/-- A little-endian number in a blob. -/
def blobNat (b : List Byte) (off n : Nat) : Nat := leNat ((b.drop off).take n)

/-- Blob type (R427). -/
def blobKind (b : List Byte) : Nat := blobNat b 4 2
/-- Chunk count (R427). -/
def blobChunks (b : List Byte) : Nat := blobNat b 6 2
/-- Version (R427). -/
def blobVersion (b : List Byte) : Nat := blobNat b 8 4
/-- SM3 hash of a chunk, from the hash list (R427). -/
def blobHash (b : List Byte) (i : Nat) : List Byte := (b.drop (192 + 32 * i)).take 32
/-- A chunk of 64 KiB (R427). -/
def blobChunk (b : List Byte) (i : Nat) : List Byte := (b.drop (192 + 32 * blobChunks b + 65536 * i)).take 65536

/-- Is a blob accepted: its header, its key, its signature, its version and its chunks (R427)? -/
def State.blobAccepted (s : State) (b : List Byte) : Bool :=
  let c := blobChunks b
  blobNat b 0 4 == 0x54524F42 && 1 ≤ blobKind b && blobKind b ≤ 5 && 1 ≤ c && c ≤ 4096
    && ((b.drop 12).take 52).all (· == 0) && b.length == 192 + 32 * c + 65536 * c
    && Config.keyHashes.contains (Config.sm3 ((b.drop 64).take 64))
    && Config.sm2Verify ((b.drop 64).take 64) (Config.sm3 (b.take 128 ++ (b.drop 192).take (32 * c)))
        ((b.drop 128).take 64)
    && Sparse.read 0 s.svc.minVersion (blobKind b) ≤ blobVersion b
    && (List.range c).all fun i => Config.sm3 (blobChunk b i) == blobHash b i

/-- Does a flash bank boot: a die, a hub and an I/O image, and every blob accepted (R427, log entry 18)? -/
def State.bankBoots (s : State) (bank : List (List Byte)) : Bool :=
  [1, 2, 3].all (fun k => bank.any fun b => blobKind b == k) && bank.all s.blobAccepted

/-- The bank booted from. -/
def State.bank (s : State) : List (List Byte) := if s.svc.bootB then s.svc.bankB else s.svc.bankA

/-- Blob type of the image of a pair, by its position; the host chiplet's has none (R427, R429). -/
def imageKind (target : Nat) : Option Nat :=
  if target < 9 then some 1 else if target < 13 then some 2 else if target = 14 ∨ target = 15 then some 3 else none

/-- The blob that a pair is loaded with. -/
def State.imageOf (s : State) (target : Nat) : Option (List Byte) :=
  (imageKind target).bind fun k => s.bank.find? fun b => blobKind b == k

/-- POWER_ON of a package that is off: memory and registers as after a reset, flash and package id kept. IO-A's pair
leads at term 1 with its own image loaded; a seed that fails its check stops the package with IDFAIL, two banks that fail
with NOBLOB (R427 to R429). -/
def State.powerUp (s : State) : State :=
  let bootB := !s.bankBoots s.svc.bankA
  let stage := if !Config.seedPasses then BootStage.idfail
    else if s.bankBoots s.svc.bankA || s.bankBoots s.svc.bankB then .booting else .noblob
  let svc : Service := {
    packageId := s.svc.packageId, stage := stage, bankA := s.svc.bankA, bankB := s.svc.bankB, bootB := bootB
    minVersion := s.svc.minVersion }
  let s : State := { State.reset with agenda := s.agenda, turn := s.turn, fresh := s.fresh, clock := s.clock, svc := svc }
  match s.imageOf pairIoA with
  | some b => s.modPair pairIoA fun x => { x with
      loadTerm := 1, vcount := BitVec.ofNat 13 (blobChunks b), btype := Config.imageType 3 (blobVersion b)
      image := (List.range (blobChunks b)).map (blobChunk b) }
  | none => s

/-- POWER_ON (R428). -/
def execPowerOn (s : State) : Out State := .next (if s.svc.powered && s.svc.stage != .off then s else s.powerUp)

/-- Physical dies that take part in boot (R429, R432; 15_faults.md R400). -/
def State.healthyDies (s : State) : List Nat :=
  (List.range 9).filter fun p => Config.selfTest p && !s.svc.lostDies.contains p

/-- Has a pair its whole image, every chunk verified (R429)? -/
def State.loaded (s : State) (target : Nat) : Bool :=
  (s.imageOf target).all fun b => (s.pair target).vcount.toNat == blobChunks b

/-- Once every target has its image, the leader reports RUN: the eight lowest healthy dies take L0 to L7, and the new
minimum versions are written (R427, R429; 15_faults.md R400, R405). -/
def State.finishBoot (s : State) : State :=
  if (s.healthyDies ++ [9, 10, 11, 12, 14, 15]).all s.loaded then
    let map := Vector.ofFn fun (i : Fin 8) => match s.healthyDies[i.val]? with
      | some p => BitVec.ofNat 16 (0x8000 + p)
      | none => 0
    let mins := s.bank.foldl (fun t b =>
      if Sparse.read 0 t (blobKind b) < blobVersion b then Sparse.write 0 t (blobKind b) (blobVersion b) else t)
      s.svc.minVersion
    { s with svc := { s.svc with stage := .run, dieMap := map, minVersion := mins } }
  else s

/-- BOOT_CHUNK: a target applies a chunk under a term not below the highest that it has seen, hashes it, and advances VCOUNT
on a match (R429; 15_faults.md R405). -/
def execBootChunk (target : Nat) (term : BitVec 32) (index : Nat) (chunk : List Byte) (s : State) : Out State :=
  .next (match s.imageOf target with
    | none => s
    | some b =>
      let x := s.pair target
      if s.svc.stage != .booting || x.stopped || term < x.loadTerm || term < x.term || blobChunks b ≤ index then s
      else
        let good := Config.sm3 chunk == blobHash b index
        let x := { x with
          loadTerm := term, btype := Config.imageType (blobKind b) (blobVersion b)
          image := if !good then x.image else if index = x.vcount.toNat then x.image ++ [chunk]
            else x.image.set index chunk
          vcount := if good && index = x.vcount.toNat then x.vcount + 1 else x.vcount }
        (s.modPair target fun _ => x).finishBoot)

/-- Answers a command of the management port. -/
def State.answer (s : State) (r : Reply) : State := { s with svc := { s.svc with reply := some r } }

/-- A command that changes state needs a session, and a live leader (R425, R432). -/
def commanded (s : State) (k : State → State) : Out State :=
  .next (if !s.svc.session then s.answer (.refused (some 0x02))
    else if !s.svc.leader.any s.pairLive then s.answer (.refused none)
    else (k s).answer .done)

/-- MGMT_SESSION_OPEN: the challenge is verified against the owner key (R425). -/
def execMgmtSessionOpen (signature : Word) (s : State) : Out State :=
  .next (if Config.challengeVerifies signature then { s with svc := { s.svc with session := true, reply := some .done } }
    else s.answer (.refused none))

/-- GETID (R426); a package whose seed failed offers no identity (R428). -/
def execGetid (s : State) : Out State :=
  .next (s.answer (if s.svc.stage = .idfail then .refused none else .identity Config.identity))

/-- GETSTAT (R426). -/
def execGetstat (s : State) : Out State :=
  .next (s.answer (.stat {
    stage := s.svc.stage, term := s.svc.term, dieMap := s.svc.dieMap.toList
    quarantined := (List.range 8).map fun d => ofBits 64 ((List.range 64).map fun q => (s.quad (64 * d + q)).quarantined)
    corrected := (List.range 8).map fun d => (s.die d).corrected
    misuse := s.svc.misuse }))

/-- A voltage and frequency island: the physical dies, the hubs, the host chiplet, IO-B, IO-A (R430). -/
def State.island (s : State) (i : Nat) : Island := Sparse.read {} s.svc.islands i

/-- Changes an island. -/
def State.modIsland (s : State) (i : Nat) (f : Island → Island) : State :=
  { s with svc := { s.svc with islands := Sparse.write {} s.svc.islands i (f (s.island i)) } }

/-- GETTHERM (R426, R431): what the sensors read is a free value. -/
def execGettherm (s : State) : Out State :=
  let islands := (List.range 16).map fun i => ((s.island i).steps, (s.island i).tripped)
  .next (s.draw.answer (.therm (Config.sensors s.fresh) islands))

/-- PRESET (R426). -/
def execPreset (part : Nat) (s : State) : Out State := commanded s (·.resetPartition part)

/-- DRESET; one to a die whose pair has stopped is sent again when the pair has its state (R426; 15_faults.md R404). -/
def execDreset (pdie : Nat) (s : State) : Out State :=
  commanded s fun s =>
    if (s.pair pdie).stopped then { s with svc := { s.svc with resent := s.svc.resent ++ [pdie] } } else s.warmReset pdie

/-- HOSTMODE: MODE.SELF is written and a conventional reset performed (R426). -/
def execHostmode (self : Bool) (s : State) : Out State :=
  commanded s fun s => State.conventionalReset { s with svc := { s.svc with selfNext := self } }

/-- SETCAP: 1,800 to 3,600 W in steps of 10 W (R426); another value is not accepted (log entry 19). -/
def execSetcap (watts : Nat) (s : State) : Out State :=
  if watts < 1800 ∨ 3600 < watts ∨ watts % 10 ≠ 0 then
    .next (s.answer (.refused (if s.svc.session then none else some 0x02)))
  else commanded s fun s => { s with svc := { s.svc with powerCap := watts } }

/-- A bank with a blob written in the place of the one of its type. -/
def withBlob (bank : List (List Byte)) (b : List Byte) : List (List Byte) :=
  bank.filter (fun x => blobKind x != blobKind b) ++ [b]

/-- FWSTAGE: the blob goes to the inactive bank, unchecked until the next boot (R426). -/
def execFwstage (blob : List Byte) (s : State) : Out State :=
  commanded s fun s =>
    if s.svc.bootB then { s with svc := { s.svc with bankA := withBlob s.svc.bankA blob } }
    else { s with svc := { s.svc with bankB := withBlob s.svc.bankB blob } }

/-- Lowest clock of a compute die, in steps of 125 MHz below 2.0 GHz (R430). -/
def maxSteps : Nat := 8

/-- Has the clock of an island a step left to fall: a compute die's down to 1.0 GHz, the host chiplet's, for which no bound
is stated, always; those of hubs and I/O dies are fixed (R430, R431; log entry 74). -/
def State.mayStep (s : State) (island : Nat) : Bool := island == 13 || island < 9 && (s.island island).steps < maxSteps

/-- THERMAL_STEP_DOWN: the clock of an island falls by a step, which raises vector 4 of partition 0 (R430, R431). -/
def execThermalStepDown (island : Nat) (s : State) : Out State :=
  .next (if s.mayStep island then
      (s.modIsland island fun x => { x with steps := x.steps + 1 }).raiseVector 0 4
    else s)

/-- THERMAL_STEP_UP (R431). -/
def execThermalStepUp (island : Nat) (s : State) : Out State :=
  .next (if 0 < (s.island island).steps then
      (s.modIsland island fun x => { x with steps := x.steps - 1 }).raiseVector 0 4
    else s)

/-- THERMAL_TRIP: a compute die goes into warm reset and is handled as lost, or during boot is skipped; any other island
trips into package loss (R431, R432). -/
def execThermalTrip (island : Nat) (s : State) : Out State :=
  let s := (s.modIsland island ({ · with tripped := true })).raiseVector 0 4
  if island < 9 then
    if s.svc.stage = .booting then
      .next (State.finishBoot { s with svc := { s.svc with lostDies := s.svc.lostDies ++ [island] } })
    else execDieLossDetected island (s.warmReset island)
  else .next s.loseOwn

/-- COOLANT_LOSS: package power is removed (R431). -/
def execCoolantLoss (s : State) : Out State := .next s.loseOwn

/-- Codes of the commands of the management port (R426). -/
def commandCodes : List Byte := [0x01, 0x02, 0x03, 0x10, 0x11, 0x12, 0x13, 0x14]

/-- WINDOW_SERVICE_OPERATION: the operations of R390 by a partition's driver, with the instructions' effects; what would
raise a trap is refused, and what would end a task has no effect. Beside them it stands for the driver's other accesses,
for a code of the management port, of which a listed one has a row of its own, and for the coding of the protected region
(15_faults.md R390, R402; 16_system.md R411, R412, R417, R422, R426; log entry 50). -/
def execWindowServiceOperation (part : Nat) (op : WindowOp) (s : State) : Out State :=
  .next (match op with
    | .tlbinv a => match invalidation a with
      | some all => s.invalidateWindow part (if all then none else some (pageOf a))
      | none => s
    | .mirq a => match meshInterrupt a with
      | some (ci, r) => s.interrupt part ci r
      | none => s
    | .diagw ci ctx a b => match injection a b with
      | some x => s.inject part ci ctx x
      | none => s
    | .diagr d a => match s.diagnose d a with
      | some v => s.modPart part ({ · with lastRead := v })
      | none => s
    | .load pa n => s.driverLoad part pa n
    | .store pa n v => s.deviceStore ⟨part, false⟩ pa n v
    | .mask v => s.modPart part fun x => { x with masked := x.masked ||| (1#5 <<< v) }
    | .command c => if commandCodes.contains c then s else s.answer (.refused (some 0x01))
    | .coding ms =>
      if part = 0 ∧ ms.length = 10 ∧ (ms.map (·.1)).eraseDups.length = 10 then
        { s with svc := { s.svc with group := ms } }
      else s)

/-- RESERVED_ENCODING: ILLEGAL, precisely (03_encoding.md R86). -/
def execReservedEncoding (_w : IWord) (s : State) : Out State := withTask s fun t => trap s t causeIllegal

/-- INSTRUCTION_FETCH_FAULT: the fault entry of a fetch at the fetched address, and the park (05_tasks.md R138); a task
that does not run or whose fetch is sound goes on. -/
def execInstructionFetchFault (task : Nat) (s : State) : Out State :=
  match s.task? task with
  | none => .next s
  | some t =>
    if t.status ≠ .running then .next s
    else match s.fetchWord t t.pc with
      | (s, .denied a d) => deny s t .fetch a d
      | _ => .next s

end Sys2Proof.Machine
end

