-- ==== Sys2Proof/Machine/Vlsp.lean ====
section
/-! DEFINITION. The host chiplet: `VLSP` and the accesses of its cores (16_system.md R423, R424; 15_faults.md R397). -/

namespace Sys2Proof.Machine

/-- The host chiplet core that the turn names (log entry 5). -/
def State.hostTurn (s : State) : Nat := s.turn % 32

/-- The partition of a host chiplet core, when its allotment byte has V = 1 (R415, R423). -/
def State.hostPart (s : State) (c : Nat) : Option Nat :=
  let b := (Sparse.read (0 : Byte) s.svc.hostAllot c).toNat
  if b.testBit 7 then some (b % 16) else none

/-- A RISC-V exception of a host core: its cause and its trap value (R424; the codes are RISC-V's, log entry 5). -/
def State.hostTrap (s : State) (c cause : Nat) (tval : Word) : State :=
  s.setHostCore c { s.hostCore c with mcause := some cause, mtval := tval }

/-- RISC-V cause of an illegal instruction. -/
def hostIllegal : Nat := 2
/-- RISC-V cause of a misaligned load. -/
def hostMisaligned : Nat := 4
/-- RISC-V cause of a load access fault. -/
def hostLoadFault : Nat := 5
/-- RISC-V cause of a store or AMO access fault. -/
def hostStoreFault : Nat := 7

/-- Are all segments that `n` bytes at an offset of a scratchpad touch allotted to a partition (R424)? -/
def State.segmentsHeld (s : State) (p ci o n : Nat) : Bool :=
  (List.range (n / 64)).all fun i => s.segmentPart ci (o + 64 * i) == p

/-- Vector registers of a host core from a scratchpad; the pc goes on (R424). -/
def HostCore.loadVectors (h : HostCore) (vd n : Nat) (bytes : List Byte) : HostCore :=
  { h with
    v := (List.range n).foldl (fun v i =>
      v.setIfInBounds (vd + i) (BitVec.ofNat 512 (leNat ((bytes.drop (64 * i)).take 64)))) h.v
    vstart := 0
    pc := h.pc + 4 }

/-- `VLSP.N vd, (rs1)` on the host core of the turn: `f` holds funct7, bits 24:20 and funct3 (R424). -/
def execVlsp (f : BitVec 15) (rs d : BitVec 5) (s : State) : Out State :=
  let c := s.hostTurn
  let h := s.hostCore c
  let n := f.toNat / 256 + 1
  if f.toNat % 256 != 0 || (n != 1 && n != 2 && n != 4 && n != 8) || d.toNat % n != 0 then
    .next (s.draw.hostTrap c hostIllegal (Config.illegalTval s.fresh))
  else
    let l : Word := if rs = 0 then 0 else h.x[rs.toNat]
    let o := field l.toNat 0 18
    let ci := field l.toNat 18 11
    if l.toNat % 64 ≠ 0 then .next (s.hostTrap c hostMisaligned l)
    else match s.hostPart c with
      | none => .next (s.hostTrap c hostLoadFault l)
      | some p =>
        if 2 ^ 29 ≤ l.toNat || 0x40000 < o + 64 * n || !s.segmentsHeld p ci o (64 * n) then
          .next (s.hostTrap c hostLoadFault l)
        else
          let key := scratchKey ci o
          let s := s.correct key (64 * n)
          match (List.range n).find? fun i => s.unsound (key + 64 * i) 64 with
          | some i => .next (s.lineError (key + 64 * i))
          | none =>
            if (List.range n).any fun i => s.poisoned (key + 64 * i) then .next (s.hostTrap c hostLoadFault l)
            else .next (s.setHostCore c (h.loadVectors d.toNat n (s.bytes key (64 * n))))

/-- How a host core reaches device space: by its allotment while the host chiplet is the main host (R423). -/
def State.hostAccessor (s : State) (c : Nat) : Option Accessor :=
  if s.svc.self then (s.hostPart c).map fun p => ⟨p, false⟩ else none

/-- A store of a host core reaches its homes, a line at a time; one that writes a poisoned line whole clears it (R423;
10_atomics.md R280; 15_faults.md R397). -/
def State.hostStore (s : State) (core pa : Nat) (bs : List Byte) : State :=
  let whole := fun (k : Nat) => pa ≤ 64 * k && 64 * k + 64 ≤ pa + bs.length
  (cutLines pa bs).foldl (fun s c =>
    (s.mayMiss none c.1).arrive ⟨s.deviceWho 0, hostIndex core, c.1, .store c.2, .none, some .host, 0, [], 0⟩)
    { s with poison := s.poison.filter fun k => !((linesOf pa bs.length).contains k && whole k) }

/-- HOST_CHIPLET_MEMORY_ACCESS: an access of a host core to package physical memory. Its writes carry the host tag and
pass no capability check; a load of a poisoned line, and an address that is not there, raise an access fault
(R423; 15_faults.md R397). -/
def execHostChipletMemoryAccess (core : Nat) (m : HostAccess) (s : State) : Out State :=
  match m with
  | .load pa n =>
    if inDevice pa then
      .next (match s.hostAccessor core with
        | some x => (s.deviceLoad x pa n).1
        | none => s.countMisuse)
    else if 2 ^ 41 ≤ pa || !populated pa || s.poisoned pa then
      .next (s.hostTrap core hostLoadFault (BitVec.ofNat 64 pa))
    else
      let s := s.correct pa n
      .next (if s.unsound pa n then s.memoryError pa else ((s.mayMiss none pa).fetchBytes pa n).1)
  | .store pa bs =>
    if inDevice pa then
      .next (match s.hostAccessor core with
        | some x => s.deviceStore x pa bs.length (BitVec.ofNat 64 (leNat bs))
        | none => s.countMisuse)
    else if 2 ^ 41 ≤ pa || !populated pa then .next (s.hostTrap core hostStoreFault (BitVec.ofNat 64 pa))
    else .next (s.hostStore core pa bs)
  | .amo pa op z v =>
    if 2 ^ 41 ≤ pa || !populated pa || inDevice pa || s.poisoned pa then
      .next (s.hostTrap core hostStoreFault (BitVec.ofNat 64 pa))
    else
      let s := s.correct pa (amoBytes z)
      .next (if s.unsound pa (amoBytes z) then s.memoryError pa else ((s.mayMiss none pa).doAtomic pa op z v 0 .host
        { uid := 0, core := none, host := true, atomic := true, rel := [⟨.sys, 0⟩] }).1)

end Sys2Proof.Machine
end

