-- ==== Sys2Proof/Machine/Dispatch.lean ====
section
/-! DEFINITION. What each instruction and each happening of the opcode table does. -/

namespace Sys2Proof.Machine

def exec (i : Instr) (s : State) : Host.Outcome State Fault Refusal :=
  match i with
  | .br off => Sys2Proof.Machine.execBr off s
  | .bp p neg off => Sys2Proof.Machine.execBp p neg off s
  | .jal off => Sys2Proof.Machine.execJal off s
  | .jalr d a imm => Sys2Proof.Machine.execJalr d a imm s
  | .loop d off => Sys2Proof.Machine.execLoop d off s
  | .tend => Sys2Proof.Machine.execTend s
  | .limm imm => Sys2Proof.Machine.execLimm imm s
  | .rep smask stag len count => Sys2Proof.Machine.execRep smask stag len count s
  | .wait ld st cp mx fb => Sys2Proof.Machine.execWait ld st cp mx fb s
  | .tspawn a b => Sys2Proof.Machine.execTspawn a b s
  | .tdone a => Sys2Proof.Machine.execTdone a s
  | .tyield => Sys2Proof.Machine.execTyield s
  | .gang n => Sys2Proof.Machine.execGang n s
  | .ungang => Sys2Proof.Machine.execUngang s
  | .send d a b => Sys2Proof.Machine.execSend d a b s
  | .recv d a b => Sys2Proof.Machine.execRecv d a b s
  | .phase x => Sys2Proof.Machine.execPhase x s
  | .add d a b => Sys2Proof.Machine.execAdd d a b s
  | .sub d a b => Sys2Proof.Machine.execSub d a b s
  | .and d a b => Sys2Proof.Machine.execAnd d a b s
  | .or d a b => Sys2Proof.Machine.execOr d a b s
  | .xor d a b => Sys2Proof.Machine.execXor d a b s
  | .andn d a b => Sys2Proof.Machine.execAndn d a b s
  | .shl d a b => Sys2Proof.Machine.execShl d a b s
  | .shr d a b => Sys2Proof.Machine.execShr d a b s
  | .sar d a b => Sys2Proof.Machine.execSar d a b s
  | .rol d a b => Sys2Proof.Machine.execRol d a b s
  | .minI64 d a b => Sys2Proof.Machine.execMinI64 d a b s
  | .minN64 d a b => Sys2Proof.Machine.execMinN64 d a b s
  | .maxI64 d a b => Sys2Proof.Machine.execMaxI64 d a b s
  | .maxN64 d a b => Sys2Proof.Machine.execMaxN64 d a b s
  | .mul d a b => Sys2Proof.Machine.execMul d a b s
  | .mulhI64 d a b => Sys2Proof.Machine.execMulhI64 d a b s
  | .mulhN64 d a b => Sys2Proof.Machine.execMulhN64 d a b s
  | .divI64 d a b => Sys2Proof.Machine.execDivI64 d a b s
  | .divN64 d a b => Sys2Proof.Machine.execDivN64 d a b s
  | .remI64 d a b => Sys2Proof.Machine.execRemI64 d a b s
  | .remN64 d a b => Sys2Proof.Machine.execRemN64 d a b s
  | .sextB d a => Sys2Proof.Machine.execSextB d a s
  | .sextH d a => Sys2Proof.Machine.execSextH d a s
  | .sextW d a => Sys2Proof.Machine.execSextW d a s
  | .zextB d a => Sys2Proof.Machine.execZextB d a s
  | .zextH d a => Sys2Proof.Machine.execZextH d a s
  | .zextW d a => Sys2Proof.Machine.execZextW d a s
  | .bext d a b => Sys2Proof.Machine.execBext d a b s
  | .bins d a b => Sys2Proof.Machine.execBins d a b s
  | .clz d a => Sys2Proof.Machine.execClz d a s
  | .ctz d a => Sys2Proof.Machine.execCtz d a s
  | .popc d a => Sys2Proof.Machine.execPopc d a s
  | .brev d a => Sys2Proof.Machine.execBrev d a s
  | .leaH d a b => Sys2Proof.Machine.execLeaH d a b s
  | .leaW d a b => Sys2Proof.Machine.execLeaW d a b s
  | .leaD d a b => Sys2Proof.Machine.execLeaD d a b s
  | .shlImm d a n => Sys2Proof.Machine.execShlImm d a n s
  | .shrImm d a n => Sys2Proof.Machine.execShrImm d a n s
  | .sarImm d a n => Sys2Proof.Machine.execSarImm d a n s
  | .rolImm d a n => Sys2Proof.Machine.execRolImm d a n s
  | .addi d a imm => Sys2Proof.Machine.execAddi d a imm s
  | .andi d a imm => Sys2Proof.Machine.execAndi d a imm s
  | .ori d a imm => Sys2Proof.Machine.execOri d a imm s
  | .cmpeq p a b => Sys2Proof.Machine.execCmpeq p a b s
  | .cmpeqImm p a imm => Sys2Proof.Machine.execCmpeqImm p a imm s
  | .cmpne p a b => Sys2Proof.Machine.execCmpne p a b s
  | .cmpneImm p a imm => Sys2Proof.Machine.execCmpneImm p a imm s
  | .cmpltI64 p a b => Sys2Proof.Machine.execCmpltI64 p a b s
  | .cmpltI64Imm p a imm => Sys2Proof.Machine.execCmpltI64Imm p a imm s
  | .cmpltN64 p a b => Sys2Proof.Machine.execCmpltN64 p a b s
  | .cmpltN64Imm p a imm => Sys2Proof.Machine.execCmpltN64Imm p a imm s
  | .cmpleI64 p a b => Sys2Proof.Machine.execCmpleI64 p a b s
  | .cmpleI64Imm p a imm => Sys2Proof.Machine.execCmpleI64Imm p a imm s
  | .cmpleN64 p a b => Sys2Proof.Machine.execCmpleN64 p a b s
  | .cmpleN64Imm p a imm => Sys2Proof.Machine.execCmpleN64Imm p a imm s
  | .cmpgtI64 p a b => Sys2Proof.Machine.execCmpgtI64 p a b s
  | .cmpgtI64Imm p a imm => Sys2Proof.Machine.execCmpgtI64Imm p a imm s
  | .cmpgtN64 p a b => Sys2Proof.Machine.execCmpgtN64 p a b s
  | .cmpgtN64Imm p a imm => Sys2Proof.Machine.execCmpgtN64Imm p a imm s
  | .cmpgeI64 p a b => Sys2Proof.Machine.execCmpgeI64 p a b s
  | .cmpgeI64Imm p a imm => Sys2Proof.Machine.execCmpgeI64Imm p a imm s
  | .cmpgeN64 p a b => Sys2Proof.Machine.execCmpgeN64 p a b s
  | .cmpgeN64Imm p a imm => Sys2Proof.Machine.execCmpgeN64Imm p a imm s
  | .pand d a b => Sys2Proof.Machine.execPand d a b s
  | .por d a b => Sys2Proof.Machine.execPor d a b s
  | .pxor d a b => Sys2Proof.Machine.execPxor d a b s
  | .pandn d a b => Sys2Proof.Machine.execPandn d a b s
  | .pnot d a => Sys2Proof.Machine.execPnot d a s
  | .pmov d a => Sys2Proof.Machine.execPmov d a s
  | .pget d => Sys2Proof.Machine.execPget d s
  | .pset a => Sys2Proof.Machine.execPset a s
  | .fadd d a b => Sys2Proof.Machine.execFadd d a b s
  | .fsub d a b => Sys2Proof.Machine.execFsub d a b s
  | .fmul d a b => Sys2Proof.Machine.execFmul d a b s
  | .fdiv d a b => Sys2Proof.Machine.execFdiv d a b s
  | .fsqrt d a => Sys2Proof.Machine.execFsqrt d a s
  | .fmin d a b => Sys2Proof.Machine.execFmin d a b s
  | .fmax d a b => Sys2Proof.Machine.execFmax d a b s
  | .fma d a b => Sys2Proof.Machine.execFma d a b s
  | .fnma d a b => Sys2Proof.Machine.execFnma d a b s
  | .fabs d a => Sys2Proof.Machine.execFabs d a s
  | .fneg d a => Sys2Proof.Machine.execFneg d a s
  | .fcmpeq p a b => Sys2Proof.Machine.execFcmpeq p a b s
  | .fcmplt p a b => Sys2Proof.Machine.execFcmplt p a b s
  | .fcmple p a b => Sys2Proof.Machine.execFcmple p a b s
  | .fcmpun p a b => Sys2Proof.Machine.execFcmpun p a b s
  | .fcvtiI32 d a ovp rtz => Sys2Proof.Machine.execFcvtiI32 d a ovp rtz s
  | .fcvtiN32 d a ovp rtz => Sys2Proof.Machine.execFcvtiN32 d a ovp rtz s
  | .fcvtiI64 d a ovp rtz => Sys2Proof.Machine.execFcvtiI64 d a ovp rtz s
  | .fcvtiN64 d a ovp rtz => Sys2Proof.Machine.execFcvtiN64 d a ovp rtz s
  | .icvtfI64 d a => Sys2Proof.Machine.execIcvtfI64 d a s
  | .icvtfN64 d a => Sys2Proof.Machine.execIcvtfN64 d a s
  | .fcvtBf16 d a ovp => Sys2Proof.Machine.execFcvtBf16 d a ovp s
  | .fcvtF16 d a ovp => Sys2Proof.Machine.execFcvtF16 d a ovp s
  | .fwidBf16 d a => Sys2Proof.Machine.execFwidBf16 d a s
  | .fwidF16 d a => Sys2Proof.Machine.execFwidF16 d a s
  | .ld d a off z => Sys2Proof.Machine.execLd d a off z s
  | .ldAcq d a sc off z => Sys2Proof.Machine.execLdAcq d a sc off z s
  | .pfL1 a off => Sys2Proof.Machine.execPfL1 a off s
  | .pfL2 a off => Sys2Proof.Machine.execPfL2 a off s
  | .hintNeed a off => Sys2Proof.Machine.execHintNeed a off s
  | .hintDone a off => Sys2Proof.Machine.execHintDone a off s
  | .hintNear a off => Sys2Proof.Machine.execHintNear a off s
  | .st x a off z => Sys2Proof.Machine.execSt x a off z s
  | .stRel x a sc off z => Sys2Proof.Machine.execStRel x a sc off z s
  | .vaddF d a b k t => Sys2Proof.Machine.execVaddF d a b k t s
  | .vsubF d a b k t => Sys2Proof.Machine.execVsubF d a b k t s
  | .vmulF d a b k t => Sys2Proof.Machine.execVmulF d a b k t s
  | .vdiv d a b k t => Sys2Proof.Machine.execVdiv d a b k t s
  | .vminF d a b k t => Sys2Proof.Machine.execVminF d a b k t s
  | .vmaxF d a b k t => Sys2Proof.Machine.execVmaxF d a b k t s
  | .vfma d a b k t => Sys2Proof.Machine.execVfma d a b k t s
  | .vfms d a b k t => Sys2Proof.Machine.execVfms d a b k t s
  | .vfnma d a b k t => Sys2Proof.Machine.execVfnma d a b k t s
  | .vabs d a k t => Sys2Proof.Machine.execVabs d a k t s
  | .vneg d a k t => Sys2Proof.Machine.execVneg d a k t s
  | .vsqrt d a k t => Sys2Proof.Machine.execVsqrt d a k t s
  | .vrcp d a k t => Sys2Proof.Machine.execVrcp d a k t s
  | .vrsq d a k t => Sys2Proof.Machine.execVrsq d a k t s
  | .vexp2 d a k t => Sys2Proof.Machine.execVexp2 d a k t s
  | .vaddInt d a b k w => Sys2Proof.Machine.execVaddInt d a b k w s
  | .vsubInt d a b k w => Sys2Proof.Machine.execVsubInt d a b k w s
  | .vmulInt d a b k w => Sys2Proof.Machine.execVmulInt d a b k w s
  | .vmulhI d a b k w => Sys2Proof.Machine.execVmulhI d a b k w s
  | .vmulhN d a b k w => Sys2Proof.Machine.execVmulhN d a b k w s
  | .vminI d a b k w => Sys2Proof.Machine.execVminI d a b k w s
  | .vminN d a b k w => Sys2Proof.Machine.execVminN d a b k w s
  | .vmaxI d a b k w => Sys2Proof.Machine.execVmaxI d a b k w s
  | .vmaxN d a b k w => Sys2Proof.Machine.execVmaxN d a b k w s
  | .vand d a b k w => Sys2Proof.Machine.execVand d a b k w s
  | .vor d a b k w => Sys2Proof.Machine.execVor d a b k w s
  | .vxor d a b k w => Sys2Proof.Machine.execVxor d a b k w s
  | .vshl d a b k w => Sys2Proof.Machine.execVshl d a b k w s
  | .vshr d a b k w => Sys2Proof.Machine.execVshr d a b k w s
  | .vsar d a b k w => Sys2Proof.Machine.execVsar d a b k w s
  | .vadds d a b k w => Sys2Proof.Machine.execVadds d a b k w s
  | .vcvt d a ovp rtz uns k dst src => Sys2Proof.Machine.execVcvt d a ovp rtz uns k dst src s
  | .vcmpeq d a b k t => Sys2Proof.Machine.execVcmpeq d a b k t s
  | .vcmpne d a b k t => Sys2Proof.Machine.execVcmpne d a b k t s
  | .vcmplt d a b k t => Sys2Proof.Machine.execVcmplt d a b k t s
  | .vcmple d a b k t => Sys2Proof.Machine.execVcmple d a b k t s
  | .vcmpgt d a b k t => Sys2Proof.Machine.execVcmpgt d a b k t s
  | .vcmpge d a b k t => Sys2Proof.Machine.execVcmpge d a b k t s
  | .vcmpun d a b k t => Sys2Proof.Machine.execVcmpun d a b k t s
  | .vrsum d a k t => Sys2Proof.Machine.execVrsum d a k t s
  | .vrmin d a k t => Sys2Proof.Machine.execVrmin d a k t s
  | .vrmax d a k t => Sys2Proof.Machine.execVrmax d a k t s
  | .vscan d a k t => Sys2Proof.Machine.execVscan d a k t s
  | .vscanmin d a k t => Sys2Proof.Machine.execVscanmin d a k t s
  | .vscanmax d a k t => Sys2Proof.Machine.execVscanmax d a k t s
  | .vrand d a k t => Sys2Proof.Machine.execVrand d a k t s
  | .vror d a k t => Sys2Proof.Machine.execVror d a k t s
  | .kand d a b => Sys2Proof.Machine.execKand d a b s
  | .kor d a b => Sys2Proof.Machine.execKor d a b s
  | .kxor d a b => Sys2Proof.Machine.execKxor d a b s
  | .kandn d a b => Sys2Proof.Machine.execKandn d a b s
  | .knot d a => Sys2Proof.Machine.execKnot d a s
  | .kmov d a => Sys2Proof.Machine.execKmov d a s
  | .vperm d a b k w => Sys2Proof.Machine.execVperm d a b k w s
  | .vsel d a b k w => Sys2Proof.Machine.execVsel d a b k w s
  | .vbcast d a b k w => Sys2Proof.Machine.execVbcast d a b k w s
  | .vslup d a b k w => Sys2Proof.Machine.execVslup d a b k w s
  | .vsldn d a b k w => Sys2Proof.Machine.execVsldn d a b k w s
  | .vzip d a b k w => Sys2Proof.Machine.execVzip d a b k w s
  | .vunzip d a b k w => Sys2Proof.Machine.execVunzip d a b k w s
  | .vmov d a k w => Sys2Proof.Machine.execVmov d a k w s
  | .vrng d a k => Sys2Proof.Machine.execVrng d a k s
  | .vdqGq4 d a b k => Sys2Proof.Machine.execVdqGq4 d a b k s
  | .vsplat d a k w => Sys2Proof.Machine.execVsplat d a k w s
  | .vext d a b w => Sys2Proof.Machine.execVext d a b w s
  | .viota d k w => Sys2Proof.Machine.execViota d k w s
  | .vld d a b k w => Sys2Proof.Machine.execVld d a b k w s
  | .vst d a b k w => Sys2Proof.Machine.execVst d a b k w s
  | .vlds d a b k w => Sys2Proof.Machine.execVlds d a b k w s
  | .vsts d a b k w => Sys2Proof.Machine.execVsts d a b k w s
  | .vgath d a b k w => Sys2Proof.Machine.execVgath d a b k w s
  | .vscat d a b k w => Sys2Proof.Machine.execVscat d a b k w s
  | .vldzBf16 d a k => Sys2Proof.Machine.execVldzBf16 d a k s
  | .vstzBf16 d a k => Sys2Proof.Machine.execVstzBf16 d a k s
  | .qbind d a => Sys2Proof.Machine.execQbind d a s
  | .qstat d a => Sys2Proof.Machine.execQstat d a s
  | .qflush d => Sys2Proof.Machine.execQflush d s
  | .vstc d a b k w => Sys2Proof.Machine.execVstc d a b k w s
  | .vscatc d a b k w => Sys2Proof.Machine.execVscatc d a b k w s
  | .mctx a => Sys2Proof.Machine.execMctx a s
  | .mprog a => Sys2Proof.Machine.execMprog a s
  | .mscale a b => Sys2Proof.Machine.execMscale a b s
  | .mzero t => Sys2Proof.Machine.execMzero t s
  | .mldb a => Sys2Proof.Machine.execMldb a s
  | .mldc t a b => Sys2Proof.Machine.execMldc t a b s
  | .mst t a b => Sys2Proof.Machine.execMst t a b s
  | .mma t a b c => Sys2Proof.Machine.execMma t a b c s
  | .mring => Sys2Proof.Machine.execMring s
  | .mchk t a c raise fix => Sys2Proof.Machine.execMchk t a c raise fix s
  | .trap n => Sys2Proof.Machine.execTrap n s
  | .eret => Sys2Proof.Machine.execEret s
  | .sysr d n => Sys2Proof.Machine.execSysr d n s
  | .sysw n a => Sys2Proof.Machine.execSysw n a s
  | .tlbinv a => Sys2Proof.Machine.execTlbinv a s
  | .diagw a b => Sys2Proof.Machine.execDiagw a b s
  | .diagr d a => Sys2Proof.Machine.execDiagr d a s
  | .mirq a => Sys2Proof.Machine.execMirq a s
  | .cld d a b => Sys2Proof.Machine.execCld d a b s
  | .vcld d a b k => Sys2Proof.Machine.execVcld d a b k s
  | .amoAdd d a b z o sc => Sys2Proof.Machine.execAmoAdd d a b z o sc s
  | .amoAnd d a b z o sc => Sys2Proof.Machine.execAmoAnd d a b z o sc s
  | .amoOr d a b z o sc => Sys2Proof.Machine.execAmoOr d a b z o sc s
  | .amoXor d a b z o sc => Sys2Proof.Machine.execAmoXor d a b z o sc s
  | .amoMinI d a b z o sc => Sys2Proof.Machine.execAmoMinI d a b z o sc s
  | .amoMaxI d a b z o sc => Sys2Proof.Machine.execAmoMaxI d a b z o sc s
  | .amoMinN d a b z o sc => Sys2Proof.Machine.execAmoMinN d a b z o sc s
  | .amoMaxN d a b z o sc => Sys2Proof.Machine.execAmoMaxN d a b z o sc s
  | .amoSwap d a b z o sc => Sys2Proof.Machine.execAmoSwap d a b z o sc s
  | .cas d a b z o sc => Sys2Proof.Machine.execCas d a b z o sc s
  | .famoAdd d a b o sc => Sys2Proof.Machine.execFamoAdd d a b o sc s
  | .famoMin d a b o sc => Sys2Proof.Machine.execFamoMin d a b o sc s
  | .famoMax d a b o sc => Sys2Proof.Machine.execFamoMax d a b o sc s
  | .redAdd a b z rel sc => Sys2Proof.Machine.execRedAdd a b z rel sc s
  | .redAnd a b z rel sc => Sys2Proof.Machine.execRedAnd a b z rel sc s
  | .redOr a b z rel sc => Sys2Proof.Machine.execRedOr a b z rel sc s
  | .redXor a b z rel sc => Sys2Proof.Machine.execRedXor a b z rel sc s
  | .redMinI a b z rel sc => Sys2Proof.Machine.execRedMinI a b z rel sc s
  | .redMaxI a b z rel sc => Sys2Proof.Machine.execRedMaxI a b z rel sc s
  | .redMinN a b z rel sc => Sys2Proof.Machine.execRedMinN a b z rel sc s
  | .redMaxN a b z rel sc => Sys2Proof.Machine.execRedMaxN a b z rel sc s
  | .fredAdd a b rel sc => Sys2Proof.Machine.execFredAdd a b rel sc s
  | .fredMin a b rel sc => Sys2Proof.Machine.execFredMin a b rel sc s
  | .fredMax a b rel sc => Sys2Proof.Machine.execFredMax a b rel sc s
  | .redx d a b rel sc => Sys2Proof.Machine.execRedx d a b rel sc s
  | .fence o sc => Sys2Proof.Machine.execFence o sc s
  | .bar a sc => Sys2Proof.Machine.execBar a sc s
  | .evwait n => Sys2Proof.Machine.execEvwait n s
  | .evsig n => Sys2Proof.Machine.execEvsig n s
  | .chopen a b c => Sys2Proof.Machine.execChopen a b c s
  | .chclose a => Sys2Proof.Machine.execChclose a s
  | .chstat a b c => Sys2Proof.Machine.execChstat a b c s
  | .stc a b c z => Sys2Proof.Machine.execStc a b c z s
  | .flagw a b c => Sys2Proof.Machine.execFlagw a b c s
  | .cpy ch a b c => Sys2Proof.Machine.execCpy ch a b c s
  | .cpy2d ch a b c => Sys2Proof.Machine.execCpy2d ch a b c s
  | .cpybind ch a b => Sys2Proof.Machine.execCpybind ch a b s
  | .cpywm ch c => Sys2Proof.Machine.execCpywm ch c s
  | .cpycan ch => Sys2Proof.Machine.execCpycan ch s
  | .cpyec ch a b c => Sys2Proof.Machine.execCpyec ch a b c s
  | .capgive a b => Sys2Proof.Machine.execCapgive a b s
  | .captake a => Sys2Proof.Machine.execCaptake a s
  | .capq a c => Sys2Proof.Machine.execCapq a c s
  | .domopen a c => Sys2Proof.Machine.execDomopen a c s
  | .domclose a => Sys2Proof.Machine.execDomclose a s
  | .domfail a => Sys2Proof.Machine.execDomfail a s
  | .allocg d a => Sys2Proof.Machine.execAllocg d a s
  | .genpass a => Sys2Proof.Machine.execGenpass a s
  | .vlsp f x d => Sys2Proof.Machine.execVlsp f x d s
  | .lqtailWrite part ctx v => Sys2Proof.Machine.execLqtailWrite part ctx v s
  | .launchAdmission part => Sys2Proof.Machine.execLaunchAdmission part s
  | .dispatch die => Sys2Proof.Machine.execDispatch die s
  | .spill core => Sys2Proof.Machine.execSpill core s
  | .quantumExpiry core => Sys2Proof.Machine.execQuantumExpiry core s
  | .issueStallTimeout core => Sys2Proof.Machine.execIssueStallTimeout core s
  | .launchCommit part id => Sys2Proof.Machine.execLaunchCommit part id s
  | .completionPost part ctx => Sys2Proof.Machine.execCompletionPost part ctx s
  | .cqheadWrite part ctx v => Sys2Proof.Machine.execCqheadWrite part ctx v s
  | .pctlReset part => Sys2Proof.Machine.execPctlReset part s
  | .pctlEnable part en => Sys2Proof.Machine.execPctlEnable part en s
  | .pqosWrite writer part v => Sys2Proof.Machine.execPqosWrite writer part v s
  | .fbnextRead part die => Sys2Proof.Machine.execFbnextRead part die s
  | .fbsvcRetry part die index => Sys2Proof.Machine.execFbsvcRetry part die index s
  | .fbsvcKill part die index => Sys2Proof.Machine.execFbsvcKill part die index s
  | .registerWrite writer pa v => Sys2Proof.Machine.execRegisterWrite writer pa v s
  | .pcieFlr part => Sys2Proof.Machine.execPcieFlr part s
  | .pcieConventionalReset => Sys2Proof.Machine.execPcieConventionalReset s
  | .pcieLinkDown => Sys2Proof.Machine.execPcieLinkDown s
  | .pcieLinkUp => Sys2Proof.Machine.execPcieLinkUp s
  | .pcieCompletionTimeout => Sys2Proof.Machine.execPcieCompletionTimeout s
  | .msixUnmask part vector => Sys2Proof.Machine.execMsixUnmask part vector s
  | .mgmtSessionOpen signature => Sys2Proof.Machine.execMgmtSessionOpen signature s
  | .getid => Sys2Proof.Machine.execGetid s
  | .getstat => Sys2Proof.Machine.execGetstat s
  | .gettherm => Sys2Proof.Machine.execGettherm s
  | .preset part => Sys2Proof.Machine.execPreset part s
  | .dreset pdie => Sys2Proof.Machine.execDreset pdie s
  | .hostmode self => Sys2Proof.Machine.execHostmode self s
  | .setcap watts => Sys2Proof.Machine.execSetcap watts s
  | .fwstage blob => Sys2Proof.Machine.execFwstage blob s
  | .powerOn => Sys2Proof.Machine.execPowerOn s
  | .bootChunk target term index chunk => Sys2Proof.Machine.execBootChunk target term index chunk s
  | .lanternHeartbeatLapse => Sys2Proof.Machine.execLanternHeartbeatLapse s
  | .lanternMismatch pair => Sys2Proof.Machine.execLanternMismatch pair s
  | .lanternReloadComplete pair => Sys2Proof.Machine.execLanternReloadComplete pair s
  | .dieMapWrite term entries => Sys2Proof.Machine.execDieMapWrite term entries s
  | .packageMapWrite term id physical => Sys2Proof.Machine.execPackageMapWrite term id physical s
  | .dieLossDetected pdie => Sys2Proof.Machine.execDieLossDetected pdie s
  | .amputationVote voter amputate => Sys2Proof.Machine.execAmputationVote voter amputate s
  | .voteTimeout => Sys2Proof.Machine.execVoteTimeout s
  | .spareTakeover die term => Sys2Proof.Machine.execSpareTakeover die term s
  | .packageLoss pkg => Sys2Proof.Machine.execPackageLoss pkg s
  | .dieWarmReset pdie => Sys2Proof.Machine.execDieWarmReset pdie s
  | .watchdogExpiry core => Sys2Proof.Machine.execWatchdogExpiry core s
  | .coreResetEnd core => Sys2Proof.Machine.execCoreResetEnd core s
  | .scanSlotStart die quad => Sys2Proof.Machine.execScanSlotStart die quad s
  | .scanPass die quad => Sys2Proof.Machine.execScanPass die quad s
  | .scanFail die quad pattern => Sys2Proof.Machine.execScanFail die quad pattern s
  | .quarantineRelease die quad => Sys2Proof.Machine.execQuarantineRelease die quad s
  | .raspScrub line => Sys2Proof.Machine.execRaspScrub line s
  | .hardwareError site => Sys2Proof.Machine.execHardwareError site s
  | .lineRebuild line => Sys2Proof.Machine.execLineRebuild line s
  | .domainSnapshotComplete dom => Sys2Proof.Machine.execDomainSnapshotComplete dom s
  | .domainCommit dom => Sys2Proof.Machine.execDomainCommit dom s
  | .capabilityChangeComplete task => Sys2Proof.Machine.execCapabilityChangeComplete task s
  | .capabilityEntryFetch task page entry => Sys2Proof.Machine.execCapabilityEntryFetch task page entry s
  | .domainIdDrawReply task id => Sys2Proof.Machine.execDomainIdDrawReply task id s
  | .tlbinvComplete task => Sys2Proof.Machine.execTlbinvComplete task s
  | .vectorArbiterCycle die quad => Sys2Proof.Machine.execVectorArbiterCycle die quad s
  | .matrixGrant die quad => Sys2Proof.Machine.execMatrixGrant die quad s
  | .mringLinkTransfer core => Sys2Proof.Machine.execMringLinkTransfer core s
  | .streamTransfer core q => Sys2Proof.Machine.execStreamTransfer core q s
  | .copyEngineCycle die engine => Sys2Proof.Machine.execCopyEngineCycle die engine s
  | .mailboxPlacement core entry => Sys2Proof.Machine.execMailboxPlacement core entry s
  | .ringFullTimeout core entry => Sys2Proof.Machine.execRingFullTimeout core entry s
  | .unreportedFaultWrite die => Sys2Proof.Machine.execUnreportedFaultWrite die s
  | .mergeStep place indices => Sys2Proof.Machine.execMergeStep place indices s
  | .preemptRequest core => Sys2Proof.Machine.execPreemptRequest core s
  | .preemptSave core => Sys2Proof.Machine.execPreemptSave core s
  | .resumeRequest core => Sys2Proof.Machine.execResumeRequest core s
  | .phaseProbeComplete task => Sys2Proof.Machine.execPhaseProbeComplete task s
  | .barrierComplete task => Sys2Proof.Machine.execBarrierComplete task s
  | .barrierControlMessage src m => Sys2Proof.Machine.execBarrierControlMessage src m s
  | .rotorSlot => Sys2Proof.Machine.execRotorSlot s
  | .flitArrival src dst seq good msgs => Sys2Proof.Machine.execFlitArrival src dst seq good msgs s
  | .flitAck peer a => Sys2Proof.Machine.execFlitAck peer a s
  | .paritySupplement src seq good msgs => Sys2Proof.Machine.execParitySupplement src seq good msgs s
  | .loadRequest src m => Sys2Proof.Machine.execLoadRequest src m s
  | .loadReply dest bs => Sys2Proof.Machine.execLoadReply dest bs s
  | .storeUncounted src m => Sys2Proof.Machine.execStoreUncounted src m s
  | .storeCounted src m c => Sys2Proof.Machine.execStoreCounted src m c s
  | .flag src m => Sys2Proof.Machine.execFlag src m s
  | .reductionMessage src m => Sys2Proof.Machine.execReductionMessage src m s
  | .atomicRequest src m => Sys2Proof.Machine.execAtomicRequest src m s
  | .atomicReply task v flags => Sys2Proof.Machine.execAtomicReply task v flags s
  | .chainPacket m => Sys2Proof.Machine.execChainPacket m s
  | .chainResult m => Sys2Proof.Machine.execChainResult m s
  | .chainFaultReply m => Sys2Proof.Machine.execChainFaultReply m s
  | .stall src m => Sys2Proof.Machine.execStall src m s
  | .resync src m => Sys2Proof.Machine.execResync src m s
  | .resyncAck src ch gen => Sys2Proof.Machine.execResyncAck src ch gen s
  | .holdTimeout ch src => Sys2Proof.Machine.execHoldTimeout ch src s
  | .resyncResend ch dst => Sys2Proof.Machine.execResyncResend ch dst s
  | .slotTableLoad table => Sys2Proof.Machine.execSlotTableLoad table s
  | .portLoss port => Sys2Proof.Machine.execPortLoss port s
  | .rotorLoss rotor => Sys2Proof.Machine.execRotorLoss rotor s
  | .thermalStepDown island => Sys2Proof.Machine.execThermalStepDown island s
  | .thermalStepUp island => Sys2Proof.Machine.execThermalStepUp island s
  | .thermalTrip island => Sys2Proof.Machine.execThermalTrip island s
  | .coolantLoss => Sys2Proof.Machine.execCoolantLoss s
  | .reservedEncoding w => Sys2Proof.Machine.execReservedEncoding w s
  | .instructionFetchFault task => Sys2Proof.Machine.execInstructionFetchFault task s
  | .matrixMemoryPort core => Sys2Proof.Machine.execMatrixMemoryPort core s
  | .dieResetComplete pdie => Sys2Proof.Machine.execDieResetComplete pdie s
  | .hubWarmReset hub => Sys2Proof.Machine.execHubWarmReset hub s
  | .hostChipletMemoryAccess core m => Sys2Proof.Machine.execHostChipletMemoryAccess core m s
  | .channelAllotmentWrite id v => Sys2Proof.Machine.execChannelAllotmentWrite id v s
  | .windowServiceOperation part op => Sys2Proof.Machine.execWindowServiceOperation part op s

end Sys2Proof.Machine
end

