-- ==== Sys2Proof/Machine/Gang.lean ====
section
/-! DEFINITION. What a task executes next: its own word, the word of a running frame, or the word of its gang leader's
stream; when it may issue; and how the members of a gang keep together (05_tasks.md R146 to R151, log entry 20). -/

namespace Sys2Proof.Machine

/-- The members of a task's gang; none when it is in no gang. -/
def State.gangOf (s : State) (t : Task) : List Task := ((t.gang.map (·.members)).getD []).filterMap s.task?

/-- Is a task parked? -/
def Task.isParked (t : Task) : Bool :=
  match t.status with
  | .parked _ => true
  | _ => false

/-- May a member of a gang execute its next word: the leader when no member is parked and every follower has executed
what came before, a follower when its leader's stream has a word (R150)? -/
def State.gangAllows (s : State) (t : Task) : Bool :=
  match t.gang with
  | none => true
  | some g =>
    if !g.stream.isEmpty then true
    else if g.members.isEmpty then true
    else t.uid == g.leader && (s.gangOf t).all fun u => !u.isParked && !u.follows

/-- Has the task an instruction in progress that goes on to its end before the core stops at an instruction boundary
(05_tasks.md R154; 06_vector.md R175)? -/
def State.finishing (s : State) (ci : Nat) (t : Task) : Bool :=
  (s.core ci).stopping && !(s.core ci).preempted && s.enginesRun ci && !(s.quad (quadOf ci)).drained
    && (s.syncEntry t).any (·.pending == 0)

/-- May the running task of a core issue (R128, R129; 08_matrix.md R224)? One whose queued instruction has a fault to be
serviced comes to its turn, at which it parks (07_scratchpad.md R198). -/
def State.mayIssue (s : State) (ci : Nat) : Bool :=
  match (s.core ci).running.bind s.task? with
  | none => false
  | some t => (!s.halted ci || s.finishing ci t) && t.status == .running
    && (!s.awaitsMatrix t || s.unitFaults t) && s.gangAllows t

/-- Goes on with the word that a task executes next (R138, R147, R150). -/
def withWord (s : State) (t : Task) (k : State → IWord → Out State) : Out State :=
  match t.gang.bind (·.stream.head?), t.rep.filter (·.active) with
  | some b, _ => k s b.word
  | none, some f => k s f.word
  | none, none => withFetch s t t.pc k

/-- Has a task that parked completed its instruction, so that a reply, room or a condition is all it waits for? -/
def Wait.past : Wait → Bool
  | .load .. | .atomic .. | .chain | .queue .. | .phase .. => true
  | _ => false

/-- The task after the instruction it issued, when the instruction completed: not stalled, not taken by a trap, not to be
executed again. -/
def State.completed (s : State) (before : Task) : Option Task :=
  match s.task? before.uid with
  | none => none
  | some t =>
    if t.hnd && !before.hnd then none
    else match t.status with
      | .running => if (s.core t.ci).stalled then none else some t
      | .ready => some t
      | .parked _ => if t.wait.past then some t else none
      | .ending => none

/-- The second word of a `LIMM` at the address of a leader (03_encoding.md R71). -/
def State.followerOf (s : State) (t : Task) : Option IWord :=
  match s.fetchWord t (t.pc + 4) with
  | (_, .bytes bs) => some (wordOfBytes bs)
  | _ => none

/-- Has the task arrived at a barrier with the word that it issued? Its followers then get the word, for they arrive too
(R150; 11_order.md R292). -/
def State.arrived (s : State) (before : Task) : Option Task :=
  if before.arrival.isSome then none else (s.task? before.uid).filter (·.arrival.isSome)

/-- A leader's completed word joins the streams of its followers (R150). -/
def State.passWord (s : State) (before t : Task) (w : IWord) : State :=
  match t.gang with
  | none => s
  | some g =>
    if t.uid ≠ g.leader then s
    else
      let b : Beat := ⟨w, s.followerOf before, t.pc, t.rep⟩
      s.modTasks (g.members.filter (· != t.uid)) fun u =>
        { u with gang := u.gang.map fun h => { h with stream := h.stream ++ [b] } }

/-- What an issued word leaves to do in its gang. -/
def State.keepTogether (s : State) (before : Task) (w : IWord) : State :=
  match s.completed before, s.arrived before with
  | none, none => s
  | none, some t => if before.inGang && !before.follows then s.passWord before t.advance w else s
  | some t, _ =>
    if before.follows then s.putTask t.dropWord
    else if before.inGang && before.arrival.isNone then s.passWord before t w
    else s

/-- When a member of a gang is parked the others park, once they have executed what their leader has (R150). -/
def State.parkMembers (s : State) : State :=
  s.tasks.foldl (fun s t =>
    match s.task? t.uid with
    | none => s
    | some t =>
      if t.inGang && !t.isParked && !t.follows && t.status != .ending
          && (s.gangOf t).any (·.isParked) then
        s.park t .dep .members
      else s) s

/-- Once every member's condition holds they become READY together (R150). -/
def State.joinMembers (s : State) : State :=
  s.tasks.foldl (fun s t =>
    match s.task? t.uid with
    | none => s
    | some t =>
      if t.wait != .members || !t.isParked then s
      else if !t.inGang then s.wake t
      else if (s.gangOf t).all (fun u => u.isParked && u.wait == .members) then
        (s.gangOf t).foldl (fun s u => (s.wake { u with gang := none }).modTask u.uid ({ · with gang := u.gang })) s
      else s) s

end Sys2Proof.Machine
end

