-- ==== Sys2Proof/Machine/Turn.lean ====
section
/-! DEFINITION. What happens beside the instructions: parked tasks whose conditions hold, memory requests, the vector,
matrix, stream and copy engines, mailboxes, the scheduler, launches, domains, completion records (log entry 2). -/

namespace Sys2Proof.Machine

/-- A parked task whose condition has come to hold goes on (PARK_WAKE, 05_tasks.md R129, R132). -/
def State.tryWake (s : State) (uid : Nat) : State :=
  match s.task? uid with
  | none => s
  | some t =>
    if !t.isParked then s
    else match t.wait with
      | .counters ld st cp mx fb => if t.within ld st cp mx fb then s.wake t else s
      | .queue d e => if s.queueRoom d t.part then (s.enqueue d e).wake t else s
      | .watermark a n => if s.watermarked t.ci (BitVec.ofNat 64 a) n then s else s.wake t
      | .generation g => if s.generationOver t g then s.wake t else s
      | .phase _ _ => s.probe t
      | .unit => if s.unitFaults t then s else s.wake t
      | _ => s

/-- A task in its place by the start of its park. -/
def insertByPark (t : Task) : List Task → List Task
  | [] => [t]
  | u :: us => if t.order < u.order then t :: u :: us else u :: insertByPark t us

/-- Parked tasks, and gangs of which a member is parked; of tasks whose conditions come to hold at one moment the one
parked longest goes first (05_tasks.md R129; log entry 80). -/
def State.wakeAll (s : State) : State :=
  ((((s.tasks.filter (·.isParked)).foldr insertByPark []).foldl (fun s t => s.tryWake t.uid) s).parkMembers).joinMembers

/-- Shadows whose overlay is full are abandoned (14_containment.md R370). -/
def State.abandonFull (s : State) : State :=
  (s.tasks.filter fun t => t.isShadow && overflows t.overlay).foldl (fun s t => s.abandon t) s

/-- What follows at once when anything has changed: barriers become complete, tasks whose conditions hold become READY, in
the order in which the conditions are met, cores become eligible for their arrays, full shadows are abandoned, and each
die's partitions become active or inactive (05_tasks.md R123, R129; 08_matrix.md R214; 14_containment.md R370). -/
def State.react (s : State) : State :=
  let s := s.releaseBarriers.wakeAll.joinMatrices.abandonFull
  ((s.dies.map (·.1)).foldl (fun s d => if (s.die d).queue.isEmpty && (s.die d).active.isEmpty
      && s.tasks.all (!·.spilled) then s else s.activate d) s).activateFabric

/-- The oldest request of each requester reaches its home, and the home write queues apply what they hold
(10_atomics.md R279, R280). -/
def State.reachHomes (s : State) : State :=
  let places := (s.requests.map fun r => homePlace r.pa).eraseDups
  let indices := (s.requests.map (·.index)).eraseDups
  (places.foldl (fun s p => s.mergeAt p indices) s).serveEverything

/-- Every chain packet at a node of the package runs a step (09_memory.md R263). -/
def State.runPackets (s : State) : State := s.packets.foldl (fun s p => s.runPacket p) { s with packets := [] }

/-- The messages that this package sends to itself arrive (13_fabric.md R342). -/
def State.runLoopback (s : State) : State := (List.range s.fab.out.length).foldl (fun s _ => s.loopback) s

/-- The units of one core: streams, the matrix unit's port, copies, send entries, what was diverted, pre-emption. -/
def State.runCore (s : State) (ci : Nat) : State :=
  let s := (List.range 8).foldl (fun s q => (s.streamStep ci (BitVec.ofNat 3 q)).getD s) s
  let s := (s.matrixPort ci).getD s
  let s := (List.range (s.core ci).sends.length).foldl (fun s i => s.placeEntry ci i) s
  let s := (s.savePreempt ci).resumeQuiet ci
  (s.deliverDiverted ci).switch ci

/-- The units of one quad: its vector arbiter and its matrix array. -/
def State.runQuad (s : State) (qi : Nat) : State :=
  let s := if (coresOf qi).any (fun ci => !(s.core ci).vq.isEmpty) || !(s.quad qi).busy.isEmpty then (s.vectorCycle qi).1
    else s
  (s.matrixGrant qi).1

/-- The copy engine of a core with copies moves one sector. -/
def State.runEngines (s : State) : State :=
  let busy := (s.cores.filter fun e => e.2.chans.toList.any fun c => !c.copies.isEmpty).map fun e =>
    (dieOf e.1, quadOf e.1 % 16)
  busy.eraseDups.foldl (fun s e => s.engineTurn e.1 e.2) s

/-- Launches: admission, opening, commit, reclaimed generations, clearance, completion records, partition resets
(01_machine.md R24 to R30; 14_containment.md R375). -/
def State.runLaunches (s : State) : State :=
  let s := (List.range 16).foldl (fun s p => match s.admission? p with
    | some n => s.admitLaunch p n
    | none => s) s
  let s := s.launches.foldl (fun s l =>
    let f := fun (s : State) (g : State → Launch → State) => match s.launch? l.part l.id with
      | some l => if (s.part l.part).resetting then s else g s l
      | none => s
    f (f (f (f s State.openLaunch) State.commitLaunch) State.reclaimOver) State.clearLaunch) s
  let s := (List.range 64).foldl (fun s c => match s.postable (c / 4) (c % 4) with
    | some x => s.postRecord x
    | none => s) s
  ((List.range 16).foldl (fun s p => s.settleReset p) s).settleResetAll

/-- Domains: snapshots, restored inputs, commits, clearance (14_containment.md R361 to R368). -/
def State.runDomains (s : State) : State :=
  let s := s.doms.foldl (fun s d => match s.dom? d.ctxid d.id with
    | none => s
    | some d =>
      if d.undoing then s.replayUndo d
      else if !d.snapshot then s.takeSnapshot d
      else if d.restoring then s.restore d
      else s.closeDom d) s.settleExchanges
  s.settleDoms

/-- Schedulers: unreported faults, bindings, spills (05_tasks.md R122, R131; 15_faults.md R388). -/
def State.runSchedulers (s : State) : State :=
  let s := (s.dies.map (·.1)).foldl (fun s d => s.drainUnreported d (s.die d).unreported.length) s
  let s := (List.range 8).foldl (fun s d => if (s.die d).queue.isEmpty && s.tasks.all (fun t => !t.spilled) then s
    else ((s.dispatch d).1).noteAbsent d) s
  (s.cores.map (·.1)).foldl (fun s ci => match s.spill ci, s.spillable ci with
    | some s, _ => s
    | none, some t => if s.workFor ci && areaAbsent (s.part t.part).pqarea then s.noteArea t.part 0x48 (stalledTask t.uid)
      else s
    | none, none => s) s

/-- Tasks whose `TEND` is done leave their slots, but for those HELD (05_tasks.md R128, R142). -/
def State.endTasks (s : State) : State :=
  (s.tasks.filter fun t => t.status == .ending && t.ended && !s.halted t.ci).foldl (fun s t => s.endTask t) s

/-- One round of everything that happens beside the instructions; a package without power or not booted does
nothing. -/
def State.background (s : State) : State :=
  if !s.svc.powered || s.svc.stage != .run then s
  else
    let s := s.react.reachHomes.react.runPackets.react.runLoopback.redoAtomics.react.settleRebuilds
    let keys := s.cores.map (·.1)
    let s := keys.foldl (fun s ci => (s.runCore ci).react) s
    let s := ((keys.map quadOf).eraseDups).foldl (fun s qi => (s.runQuad qi).react) s
    s.runEngines.react.endTasks.runDomains.react.runLaunches.react.runSchedulers.react

/-- The core that issues next: the first whose task may issue, from the turn on. -/
def State.nextCore (s : State) : Option Nat := (s.cores.map (·.1)).find? fun ci => s.turn ≤ ci && s.mayIssue ci

/-- The die on which a task issues is put on record of its domain, or of its launch (01_machine.md R31). -/
def State.noteDie (s : State) (t : Task) : State :=
  let add := fun (ds : List Nat) => if ds.contains t.die then ds else ds ++ [t.die]
  if t.domain = 0 then s.modLaunch t.part t.launchid fun l => { l with dies := add l.dies }
  else s.modDom t.ctxid t.domain fun d => { d with dies := add d.dies }

/-- Work that a task's instruction puts on its quad's scan record; a shadow's does not count (14_containment.md R368 to
R370). -/
def State.noteWork (s : State) (t : Task) : State :=
  let w : Work := ⟨t.ctxid, t.launchid, t.domain⟩
  if t.isShadow then s
  else (s.modQuad (quadOf t.ci) fun q => if q.ran.contains w then q else { q with ran := q.ran ++ [w] }).noteDie t

/-- A core takes its turn: its task is about to issue, and no stall is on record. -/
def State.takeTurn (s : State) (ci : Nat) (t : Task) : State :=
  (State.noteWork { s with turn := ci } t).modCore ci ({ · with stalled := false })

/-- What follows an issued word: remote reads it no longer waits for are dropped, its gang keeps together. -/
def State.afterIssue (s : State) (before : Task) (w : IWord) : State :=
  let s := s.keepTogether before w
  match s.task? before.uid with
  | none => s
  | some t =>
    if t.wait = .reads then s else s.dropReads (tokenTask t.uid)

/-- What follows from the instruction happens, and the turn passes to the next core. -/
def State.passTurn (s : State) (ci : Nat) : State := { s.react with turn := ci + 1 }

/-- Applies a function to the next state of an outcome. -/
def thenState (o : Out State) (f : State → State) : Out State :=
  match o with
  | .next s => .next (f s)
  | .fault x => .fault x
  | .refused x => .refused x

/-- A fetched word is executed: the instruction it decodes to, or ILLEGAL for a reserved encoding (03_encoding.md R86). -/
noncomputable def runWord (s : State) (w : IWord) : Out State :=
  match decode w with
  | .ok i => exec i s
  | .error _ => exec (.reservedEncoding w) s

/-- The running task of a core issues its next word. A task whose queued vector or matrix instructions have faults to be
serviced parks first (07_scratchpad.md R198). -/
noncomputable def issue (s : State) (ci : Nat) : Out State :=
  match (s.core ci).running.bind s.task? with
  | none => .next s
  | some t =>
    let s := s.takeTurn ci t
    if s.unitFaults t then .next ((s.park t .fault .unit).passTurn ci)
    else thenState (withWord s t fun s w => thenState (runWord s w) (·.afterIssue t w)) (·.passTurn ci)

/-- What is due first: a happening of the agenda, a core's turn, or a round of what happens beside the instructions. -/
noncomputable def nextDue (s : State) : Out State :=
  match s.agenda with
  | .event i :: rest => thenState (exec i { s with agenda := rest }) State.react
  | .core ci :: rest =>
    let s := { s with agenda := rest }
    if s.mayIssue ci then issue s ci else .next s
  | [] =>
    match s.nextCore with
    | some ci => issue s ci
    | none => .next { s.background with turn := 0 }

end Sys2Proof.Machine
end

