-- ==== Sys2Proof/Machine/Boot.lean ====
section
/-! DEFINITION. Laying an instruction where the next step fetches it, for a machine whose program comes from outside
(log entry 12). -/

namespace Sys2Proof.Machine

/-- The core whose task issues next when the turn has passed every core. -/
def State.turnCore (s : State) : Nat := if s.turn < 2048 then s.turn else 0

/-- Virtual and physical address of the word of a task that `bootTask` makes. -/
def bootPc : Nat := 0x40000

/-- A page table of context 0 that maps the page of `bootPc` to itself, with its tables in the pages below. -/
def State.bootTable (s : State) : State :=
  let table := fun (pa : Nat) => 1 + 2 ^ 20 + pa / 0x10000 * 2 ^ 23
  let leaf := 0xC7 + s.svc.packageId * 2 ^ 10 + bootPc / 0x10000 * 2 ^ 23
  let s := s.modCtx 0 ({ · with ptroot := 0x10000 })
  ((s.pokeNat 0x10000 8 (table 0x20000)).pokeNat 0x20000 8 (table 0x30000)).pokeNat (0x30000 + 8 * 4) 8 leaf

/-- A task of context 0 that runs on a core, at `bootPc`. -/
def State.bootTask (s : State) (ci : Nat) : State :=
  let s := s.bootTable
  let t : Task := { uid := s.nextUid, sid := 16 * ci + ((s.freeSlots ci).headD 0), status := .running,
                    pc := BitVec.ofNat 64 bootPc }
  { s.modCore ci ({ · with running := some t.uid }) with tasks := s.tasks ++ [t], nextUid := s.nextUid + 1 }

/-- Where the running task of a core fetches its next word in this package, if its fetch finds a place. -/
def State.fetchPlace (s : State) (ci : Nat) : Option Nat :=
  if !s.mayIssue ci then none
  else match (s.core ci).running.bind s.task? with
    | none => none
    | some t =>
      if t.follows || t.rep.any (·.active) || s.unitFaults t then none
      else match (s.place t.ci t.ctxid anywhere .fetch t.pc 4).2 with
        | .ok l => if l.pkg = s.svc.packageId then some l.pa else none
        | .error _ => none

/-- The bytes of an instruction of up to two words, at an address of this package. -/
def State.layWord (s : State) (pa w : Nat) : State := (s.serveAll pa 8).pokeNat pa 8 (w % 2 ^ 32)

/-- The next step fetches and runs the instruction word `w`: laid where the core of the turn fetches, for its running
task or for one made for it. -/
def State.placeWord (s : State) (w : Nat) : State :=
  let ci := s.turnCore
  let s := { s with agenda := [], turn := ci }
  match s.fetchPlace ci with
  | some pa => s.layWord pa w
  | none => (s.bootTask ci).layWord bootPc w

end Sys2Proof.Machine
end

