-- ==== Sys2Proof/Machine/Step.lean ====
section
/-! DEFINITION. One step of the machine. -/

namespace Sys2Proof.Machine

/-- One step: what is due first (log entry 2). -/
noncomputable def step (s : State) : Host.Outcome State Fault Refusal := nextDue s

/-- `s` with an instruction stored where `step` fetches its next one (log entry 12). -/
def State.withFetchWord (s : State) (nbits w : Nat) : State := s.placeWord (w % 2 ^ nbits)

end Sys2Proof.Machine
end

