-- ==== Sys2Proof/Safety.lean ====
section
/-! DEFINITION. What counts as a safe run, and the invariant that steps keep. -/

namespace Sys2Proof.Machine

/-- A run of `n` steps that neither faults nor meets a refusal. -/
def Safe (n : Nat) (s : State) : Prop := ∃ t, core.run n s = .next t

/-- The memory and the host memory are in canonical form. -/
def State.MemoryOk (s : State) : Prop := Memory.wf s.mem = true ∧ Memory.wf s.hostMem = true

end Sys2Proof.Machine
end

