-- ==== Sys2Proof/Certificates/Slice0/Obligations.lean ====
section
/-! DEFINITION. The statements about this machine for the provers, each a proposition named after what it states. -/

namespace Sys2Proof.Machine

/-- A task that has completed its instruction in sequence: it goes on at the next word, or at the next captured word of
its frame, and waits for nothing (05_tasks.md R146, R148). -/
def Task.past (t : Task) : Task := { t.advance with wait := .none }

/-- `w` is the task `t` but for what it remembers of the order of its accesses, which no register shows (11_order.md
R287 to R291). -/
def Task.Alike (w t : Task) : Prop :=
  w = { t with
    seen := w.seen, floor := w.floor, sources := w.sources, reads := w.reads, rels := w.rels, fence := w.fence,
    events := w.events }

/-- `u` is `s` but for the order that holds among its writes, which no register and no byte shows (11_order.md R286 to
R290). -/
def State.Alike (u s : State) : Prop := u = { s with past := u.past }

/-- Does a write of the history touch `n` bytes from `a`? -/
def Past.Touches (p : Past) (a n : Nat) : Prop := p.pa < a + n ∧ a < p.pa + p.old.length

/-- The instruction answers a next state that differs in the issuing task alone, which is `t` and has moved on. -/
def Completes (i : Instr) (s : State) (t : Task) : Prop := exec i s = .next (s.putTask t.past)

/-- The instruction answers a next state that differs in the issuing task alone, which goes on at `pc`. -/
def GoesTo (i : Instr) (s : State) (t : Task) (pc : Word) : Prop :=
  exec i s = .next (s.putTask { t with pc := pc, wait := .none })

/-- The state in which task `t` has taken a precise trap: its handler runs, or it has ended with its launch failed
(15_faults.md R379, R380). -/
def trapState (s : State) (t : Task) (cause : BitVec 8) : State :=
  if t.hnd = true ∨ t.trapv = 0
  then (s.failLaunch t.part t.launchid 2 cause t.sid).discardTasks fun u => u.uid == t.uid
  else (s.dissolve t.uid).putTask { t with epc := t.pc, cause := cause, hnd := true, pc := t.trapv, gang := none,
                                           rep := t.rep.map ({ · with active := false }) }

/-- The instruction takes a precise trap with a cause. -/
def Traps (i : Instr) (s : State) (t : Task) (cause : BitVec 8) : Prop := exec i s = .next (trapState s t cause)

/-- An FP32 operand: bits 31:0 of a `g` register (04_scalar.md R98). -/
def Task.single (t : Task) (a : GReg) : Num := Format.value .f32 ((t.greg a).extractLsb' 0 32).toNat

/-- The instruction writes an FP32 result into `g`d, zeros above it, and raises its flags (04_scalar.md R98). -/
def Rounds (i : Instr) (s : State) (t : Task) (d : GReg) (r : Rounded) : Prop :=
  Completes i s { t.setG d (BitVec.ofNat 64 r.bits) with fsr := t.fsr ||| r.flags }

/-- The instruction converts: it writes the value and raises the flags, or traps with CONVOVF (04_scalar.md R116). -/
def Converts (i : Instr) (s : State) (t : Task) (d : GReg) (r : Converted) (widen : Nat → Word) : Prop :=
  (∀ v fl, r = some (v, fl) → Completes i s { t.setG d (widen v) with fsr := t.fsr ||| fl }) ∧
  (r = none → Traps i s t 0x03)

/-- The words that a task's fetches at `va` and after it give, and the state after them; `none` where a fetch does not
give its word (05_tasks.md R138). -/
def State.fetched (s : State) (t : Task) (va : Word) : Nat → Option (State × List IWord)
  | 0 => some (s, [])
  | n + 1 => match s.fetchWord t va with
    | (u, .bytes bs) => (u.fetched t (va + 4) n).map fun r => (r.1, wordOfBytes bs :: r.2)
    | _ => none

/-- May `REP` capture a word: majors 0x08 to 0x0D, 0x18 to 0x1F and 0x26, and no reserved encoding (05_tasks.md
R146)? -/
def Captured (w : IWord) : Prop :=
  let m := w.toNat / 2 ^ 26
  ((0x08 ≤ m ∧ m ≤ 0x0D) ∨ (0x18 ≤ m ∧ m ≤ 0x1F) ∨ m = 0x26) ∧ ∃ i, decode w = .ok i

/-- The word of R format with the given fields (03_encoding.md R68). -/
def rWord (major : BitVec 6) (d a b : BitVec 5) (fn : BitVec 11) : IWord := major ++ (d ++ (a ++ (b ++ fn)))

/-- No instruction has a word. -/
def ReservedWord (w : IWord) : Prop := ∀ i, decode w ≠ .ok i

/-- The words of the majors that no instruction has (03_encoding.md R86). -/
def unassignedMajor (w : IWord) : Prop := 0x28 ≤ w.toNat / 2 ^ 26 ∧ w.toNat / 2 ^ 26 ≤ 0x3E

/-- Majors 0x08 to 0x0C: the instructions that write one `g` register or one predicate and can neither trap nor set a
flag, with the destination (04_scalar.md R102 to R110, R113). -/
def plainDest : Instr → Option (GReg ⊕ Reg3)
  | .add d _ _ | .sub d _ _ | .and d _ _ | .or d _ _ | .xor d _ _ | .andn d _ _ | .shl d _ _ | .shr d _ _ | .sar d _ _
  | .rol d _ _ | .minI64 d _ _ | .minN64 d _ _ | .maxI64 d _ _ | .maxN64 d _ _ | .mul d _ _ | .mulhI64 d _ _
  | .mulhN64 d _ _ | .divI64 d _ _ | .divN64 d _ _ | .remI64 d _ _ | .remN64 d _ _ | .bext d _ _ | .bins d _ _
  | .leaH d _ _ | .leaW d _ _ | .leaD d _ _ | .shlImm d _ _ | .shrImm d _ _ | .sarImm d _ _ | .rolImm d _ _
  | .addi d _ _ | .andi d _ _ | .ori d _ _ => some (.inl d)
  | .sextB d _ | .sextH d _ | .sextW d _ | .zextB d _ | .zextH d _ | .zextW d _ | .clz d _ | .ctz d _ | .popc d _
  | .brev d _ | .fabs d _ | .fneg d _ | .pget d => some (.inl d)
  | .cmpeq p _ _ | .cmpne p _ _ | .cmpltI64 p _ _ | .cmpltN64 p _ _ | .cmpleI64 p _ _ | .cmpleN64 p _ _
  | .cmpgtI64 p _ _ | .cmpgtN64 p _ _ | .cmpgeI64 p _ _ | .cmpgeN64 p _ _ => some (.inr p)
  | .cmpeqImm p _ _ | .cmpneImm p _ _ | .cmpltI64Imm p _ _ | .cmpltN64Imm p _ _ | .cmpleI64Imm p _ _
  | .cmpleN64Imm p _ _ | .cmpgtI64Imm p _ _ | .cmpgtN64Imm p _ _ | .cmpgeI64Imm p _ _ | .cmpgeN64Imm p _ _ =>
    some (.inr p)
  | .pand p _ _ | .por p _ _ | .pxor p _ _ | .pandn p _ _ | .pnot p _ | .pmov p _ => some (.inr p)
  | _ => none

/-- The instructions of major 0x0D that round or compare and never trap, with the destination (04_scalar.md R111,
R112, R114). -/
def floatDest : Instr → Option (GReg ⊕ Reg3)
  | .fadd d _ _ | .fsub d _ _ | .fmul d _ _ | .fdiv d _ _ | .fsqrt d _ | .fmin d _ _ | .fmax d _ _ | .fma d _ _
  | .fnma d _ _ | .icvtfI64 d _ | .icvtfN64 d _ | .fwidBf16 d _ | .fwidF16 d _ => some (.inl d)
  | .fcmpeq p _ _ | .fcmplt p _ _ | .fcmple p _ _ | .fcmpun p _ _ => some (.inr p)
  | _ => none

/-- The operands of a scalar load: destination, effective address, bytes (09_memory.md R255). -/
def loadForm (t : Task) : Instr → Option (GReg × Word × Nat)
  | .ld d a off z => some (d, t.greg a + off.signExtend 64 * BitVec.ofNat 64 (sizeBytes z), sizeBytes z)
  | .ldAcq d a _ off z => some (d, t.greg a + off.signExtend 64 * BitVec.ofNat 64 (sizeBytes z), sizeBytes z)
  | _ => none

/-- The scope at which a scalar load acquires (11_order.md R288). -/
def loadScope : Instr → Option Scope
  | .ldAcq _ _ sc _ _ => some sc
  | _ => none

/-- The operands of a scalar store: source, effective address, bytes (09_memory.md R256). -/
def storeForm (t : Task) : Instr → Option (GReg × Word × Nat)
  | .st x a off z => some (x, t.greg a + off.signExtend 64 * BitVec.ofNat 64 (sizeBytes z), sizeBytes z)
  | .stRel x a _ off z => some (x, t.greg a + off.signExtend 64 * BitVec.ofNat 64 (sizeBytes z), sizeBytes z)
  | _ => none

/-- The forms of a prefetch or hint, by what they do at another package: dropped, nothing, or a message
(09_memory.md R259, R260). -/
def hintForm : Instr → Option (GReg × BitVec 12 × Nat)
  | .pfL1 a off | .pfL2 a off | .hintNeed a off => some (a, off, 0)
  | .hintDone a off => some (a, off, 1)
  | .hintNear a off => some (a, off, 2)
  | _ => none

/-- The operands of a returning atomic: destination, address and operand registers, operation, size, order
(10_atomics.md R274). -/
def atomicForm : Instr → Option (GReg × GReg × GReg × AmoOp × AmoSize × Order)
  | .amoAdd d a b z o _ => some (d, a, b, .add, z, o)
  | .amoAnd d a b z o _ => some (d, a, b, .and, z, o)
  | .amoOr d a b z o _ => some (d, a, b, .or, z, o)
  | .amoXor d a b z o _ => some (d, a, b, .xor, z, o)
  | .amoMinI d a b z o _ => some (d, a, b, .minI, z, o)
  | .amoMaxI d a b z o _ => some (d, a, b, .maxI, z, o)
  | .amoMinN d a b z o _ => some (d, a, b, .minN, z, o)
  | .amoMaxN d a b z o _ => some (d, a, b, .maxN, z, o)
  | .amoSwap d a b z o _ => some (d, a, b, .swap, z, o)
  | .cas d a b z o _ => some (d, a, b, .cas, z, o)
  | .famoAdd d a b o _ => some (d, a, b, .fadd, .w, o)
  | .famoMin d a b o _ => some (d, a, b, .fmin, .w, o)
  | .famoMax d a b o _ => some (d, a, b, .fmax, .w, o)
  | _ => none

/-- The operands of a reduction but `REDX`: address and operand registers, operation, size, release
(10_atomics.md R277). -/
def reductionForm : Instr → Option (GReg × GReg × AmoOp × AmoSize × Bool)
  | .redAdd a b z rel _ => some (a, b, .add, z, rel)
  | .redAnd a b z rel _ => some (a, b, .and, z, rel)
  | .redOr a b z rel _ => some (a, b, .or, z, rel)
  | .redXor a b z rel _ => some (a, b, .xor, z, rel)
  | .redMinI a b z rel _ => some (a, b, .minI, z, rel)
  | .redMaxI a b z rel _ => some (a, b, .maxI, z, rel)
  | .redMinN a b z rel _ => some (a, b, .minN, z, rel)
  | .redMaxN a b z rel _ => some (a, b, .maxN, z, rel)
  | .fredAdd a b rel _ => some (a, b, .fadd, .w, rel)
  | .fredMin a b rel _ => some (a, b, .fmin, .w, rel)
  | .fredMax a b rel _ => some (a, b, .fmax, .w, rel)
  | _ => none

/-- What an atomic or reduction stores, from the old value and the operand (10_atomics.md R274, R277, R278). -/
def combined (op : AmoOp) (w m v : Nat) : Nat :=
  let x := BitVec.ofNat w m
  let y := BitVec.ofNat w v
  match op with
  | .add => (x + y).toNat
  | .and => (x &&& y).toNat
  | .or => (x ||| y).toNat
  | .xor => (x ^^^ y).toNat
  | .minI => if x.toInt < y.toInt then x.toNat else y.toNat
  | .maxI => if x.toInt < y.toInt then y.toNat else x.toNat
  | .minN => if x.toNat < y.toNat then x.toNat else y.toNat
  | .maxN => if x.toNat < y.toNat then y.toNat else x.toNat
  | .swap | .cas => y.toNat
  | .fadd => (Format.sum .f32 [Format.value .f32 m, Format.value .f32 v] false).bits
  | .fmin => (Format.minmax .f32 false m v).bits
  | .fmax => (Format.minmax .f32 true m v).bits

/-- The flags that a returning atomic raises (10_atomics.md R275, R278). -/
def combinedFlags (op : AmoOp) (m v : Nat) : Flags :=
  match op with
  | .fadd => (Format.sum .f32 [Format.value .f32 m, Format.value .f32 v] false).flags
  | .fmin => (Format.minmax .f32 false m v).flags
  | .fmax => (Format.minmax .f32 true m v).flags
  | _ => 0

/-- The old value as `g`d receives it (10_atomics.md R275). -/
def widened (op : AmoOp) (z : AmoSize) (m : Nat) : Word :=
  if z = .w ∧ (op = .minI ∨ op = .maxI) then (BitVec.ofNat 32 m).signExtend 64 else BitVec.ofNat 64 m

/-- The scope at which an atomic with an order acquires, or releases (03_encoding.md R69; 11_order.md R288). -/
def orderScope (acquires : Bool) (o : Order) (sc : Scope) : Option Scope :=
  if o = .ar ∨ o = (if acquires then Order.acq else Order.rel) then some sc else none

/-- The scope at which an atomic acquires (`true`) or releases (10_atomics.md R276). -/
def atomicScope (acquires : Bool) : Instr → Option Scope
  | .amoAdd _ _ _ _ o sc | .amoAnd _ _ _ _ o sc | .amoOr _ _ _ _ o sc | .amoXor _ _ _ _ o sc | .amoMinI _ _ _ _ o sc
  | .amoMaxI _ _ _ _ o sc | .amoMinN _ _ _ _ o sc | .amoMaxN _ _ _ _ o sc | .amoSwap _ _ _ _ o sc
  | .cas _ _ _ _ o sc | .famoAdd _ _ _ o sc | .famoMin _ _ _ o sc | .famoMax _ _ _ o sc => orderScope acquires o sc
  | _ => none

/-- The scope at which a scalar store, atomic, reduction or `TDONE` releases (11_order.md R288; 10_atomics.md R277;
05_tasks.md R140). -/
def releaseOf : Instr → Option Scope
  | .stRel _ _ sc _ _ => some sc
  | .redAdd _ _ _ rel sc | .redAnd _ _ _ rel sc | .redOr _ _ _ rel sc | .redXor _ _ _ rel sc | .redMinI _ _ _ rel sc
  | .redMaxI _ _ _ rel sc | .redMinN _ _ _ rel sc | .redMaxN _ _ _ rel sc | .fredAdd _ _ rel sc | .fredMin _ _ rel sc
  | .fredMax _ _ rel sc | .redx _ _ _ rel sc => if rel then some sc else none
  | .tdone _ => some .pkg
  | i => atomicScope false i

/-- May an instruction that releases at a scope, or at none, go on: for a scope beyond the package once what it covers has
been accepted, within it once the stores covered by what its core has read have (11_order.md R288, R289; log entry 10)? -/
def State.mayRelease (s : State) (t : Task) : Option Scope → Prop
  | none => True
  | some .pod | some .sys => s.released t = true
  | some _ => s.knownHeld t = []

/-- A request of a task for a home in this package, not counted for an instruction of a unit: a store, reduction or
release (09_memory.md R256; 10_atomics.md R271; 11_order.md R288, R291). -/
def Task.request (t : Task) (s : State) (pa : Nat) (op : HomeOp) (cls : Machine.Class) (rel : Option Scope) : Request :=
  { who := s.who t, index := t.sid, pa := pa, op := op, cls := cls, tag := some t.tag, tally := 0
    rel := (rel.map fun sc => ⟨sc, t.rels⟩).toList ++ t.fence, epoch := t.rels }

/-- The task that has issued one more release, if it is one (11_order.md R288). -/
def Task.issued (t : Task) (rel : Option Scope) : Task := { t with rels := t.rels + if rel.isSome then 1 else 0 }

/-- The instructions of majors 0x18 to 0x1E, and `VDQ` and `VIOTA`, that read no `g` register, but `VCVT` under policy 11
(06_vector.md R168). -/
def isLaneInstr : Instr → Bool
  | .vaddF .. | .vsubF .. | .vmulF .. | .vdiv .. | .vminF .. | .vmaxF .. | .vfma .. | .vfms .. | .vfnma .. | .vabs ..
  | .vneg .. | .vsqrt .. | .vrcp .. | .vrsq .. | .vexp2 .. | .vaddInt .. | .vsubInt .. | .vmulInt .. | .vmulhI ..
  | .vmulhN .. | .vminI .. | .vminN .. | .vmaxI .. | .vmaxN .. | .vand .. | .vor .. | .vxor .. | .vshl .. | .vshr ..
  | .vsar .. | .vadds .. | .vcmpeq .. | .vcmpne .. | .vcmplt .. | .vcmple .. | .vcmpgt .. | .vcmpge .. | .vcmpun ..
  | .vrsum .. | .vrmin .. | .vrmax .. | .vscan .. | .vscanmin .. | .vscanmax .. | .vrand .. | .vror .. | .kand .. | .kor ..
  | .kxor .. | .kandn .. | .knot .. | .kmov .. | .vperm .. | .vsel .. | .vbcast .. | .vslup .. | .vsldn .. | .vzip ..
  | .vunzip .. | .vmov .. | .vdqGq4 .. | .viota .. => true
  | .vcvt _ _ ovp _ _ _ _ _ => ovp != .trap
  | _ => false

/-- The stream operands of a vector instruction: its first source and its destination (03_encoding.md R82). -/
def streamOperands (i : Instr) : Option Reg3 × Option Reg3 :=
  (match (vectorOperands i).2 with
    | some (.stream q) => some q
    | _ => none,
   match (vectorOperands i).1 with
    | some (.stream q) => some q
    | _ => none)

/-- The instruction joins its core's vector queue with the `g` values it read, and with whether it may reach another package,
counted in its class; its task goes on, and nothing else of the core, of another core or of memory changes (06_vector.md
R159; 05_tasks.md R143; 13_fabric.md R328). -/
def Pushes (i : Instr) (s v : State) (t : Task) (cls : Class) (x y z : Word) (quarters : Nat) (b : Option Stream) : Prop :=
  let e : VEntry :=
    { serial := v.clock + 1, instr := i, uid := t.uid, part := t.part, x := x, y := y, z := z, quarters := quarters,
      cls := cls, bind := b }
  ∃ (u : State) (far : Bool), exec i s = .next u ∧
    (u.core t.ci).vq = (v.core t.ci).vq ++ [{ e with far := far }] ∧
    (u.core t.ci).v = (v.core t.ci).v ∧ (u.core t.ci).k = (v.core t.ci).k ∧ (u.core t.ci).q = (v.core t.ci).q ∧
    (u.core t.ci).mq = (v.core t.ci).mq ∧ (∀ c, c ≠ t.ci → u.core c = v.core c) ∧
    u.tasks = (v.putTask (t.count cls).past).tasks ∧ u.mem = v.mem ∧ u.requests = v.requests

/-- The instruction joins its core's matrix queue with the `g` values it read, and with whether it may reach another package,
counted in `mx`; its task goes on, and nothing else changes (08_matrix.md R212; 13_fabric.md R328). -/
def PushesMatrix (i : Instr) (s : State) (t : Task) (x y z : Word) (sync : Bool) : Prop :=
  let e : MEntry :=
    { serial := s.clock + 1, instr := i, uid := t.uid, part := t.part, owner := ⟨t.domain, t.ctxid, t.launchid⟩, x := x,
      y := y, z := z, sync := sync }
  ∃ (u : State) (far : Bool), exec i s = .next u ∧
    (u.core t.ci).mq = (s.core t.ci).mq ++ [{ e with far := far }] ∧
    (u.core t.ci).mctx = (s.core t.ci).mctx ∧ (u.core t.ci).vq = (s.core t.ci).vq ∧
    (∀ c, c ≠ t.ci → u.core c = s.core c) ∧ u.tasks = (s.putTask { t.past with mx := t.mx + 1 }).tasks ∧ u.mem = s.mem ∧
    u.requests = s.requests

/-- Nothing stands in the way of a write of another package to a line of this one, or to a scratchpad: no poison, no
request of a task for the same home, no hotness table, no core that takes no writes (10_atomics.md R280; 15_faults.md R397;
05_tasks.md R155). -/
def State.Receives (s : State) (a : Nat) : Prop :=
  s.svc.hotbase = 0 ∧ s.poison = [] ∧ (∀ r ∈ s.requests, homePlace r.pa ≠ homePlace a) ∧
    (scratchBase ≤ a → s.diverts (scratchCore a) = false ∧ (s.core (scratchCore a)).diverted = [])

/-- A write of another package has reached its home: it stands in the home write queue of its line, or is made in the
scratchpad (10_atomics.md R279; 09_memory.md R253). -/
def Arrives (s u : State) (src : Nat) (w : Who) (a : Nat) (bs : List Byte) : Prop :=
  (a < scratchBase → u.mem = s.mem ∧
    u.queued = s.queued ++ [⟨w, packageIndex src, a, .store bs, .none, some (whoTag w), 0, [], 0⟩]) ∧
  (scratchBase ≤ a → u.queued = [] ∧ u.tag a = whoTag w ∧
    ∀ y, u.byte y = if a ≤ y ∧ y < a + bs.length then bs.getD (y - a) 0 else s.serveEverything.byte y)

/-- The ring header at a scratchpad key with HEAD moved past the SKIP records that begin there, at most `n` of them
(07_scratchpad.md R209). -/
def State.pastSkips (s : State) (key : Nat) (r : Ring) : Nat → Ring
  | 0 => r
  | n + 1 =>
    let h := s.word (key + 64 + r.head % r.size) 8
    if r.tail = r.head ∨ h.testBit 33 = false then r
    else s.pastSkips key { r with head := (r.head + h / 2 ^ 16 % 2 ^ 17) % 2 ^ 32 } n

/-- Element `i` of width `w` of a register (06_vector.md R164). -/
def elem (w : Nat) (v : VWord) (i : Nat) : BitVec w := v.extractLsb' (w * i) w

/-- Is element `i` active under a mask register; `k0` reads all ones (06_vector.md R164)? -/
def Core.active (c : Core) (k : Reg3) (i : Nat) : Bool := decide (k = 0) || c.k[k.toNat].getLsbD i

/-- The old bits of element `i` of a destination: those of a register, zero bits in a vector produced for a stream
(06_vector.md R165). -/
def Core.before (c : Core) (w : Nat) (i : Nat) : VDst → BitVec w
  | .reg d => elem w c.v[d.toNat] i
  | .stream _ => 0

/-- The queued instruction takes its first source, a register or the oldest vector of a stream, and gives its destination
one vector: where its source is `x`, element `i` is `f x i` if it takes part and keeps its old bits if not, and the flags
are the `fl x i` of those that take part. It waits for a vector, or for the room of one, that a stream has not
(06_vector.md R165; 02_numbers.md R48; 07_scratchpad.md R193). -/
def WritesLanes (c : Core) (e : VEntry) (d : VDst) (a : VSrc) (takes : Nat → Bool) (w : Nat) (f : VWord → Nat → BitVec w)
    (fl : VWord → Nat → Flags) : Prop :=
  (c.source a = none → c.compute e = none) ∧
  ∀ (y : Core) (x : VWord), c.source a = some (y, x) → ∃ (v : VWord) (g : Flags),
    c.compute e = (y.deliver v d).map (fun z => (z, g, none)) ∧
    (∀ i, i < 2048 / w → elem w v i = if takes i then f x i else c.before w i d) ∧
    (∀ n : Nat, g.getLsbD n = true ↔ ∃ i, i < 2048 / w ∧ takes i = true ∧ (fl x i).getLsbD n = true)

/-- The queued instruction takes its first source and writes a mask whose bit `i` is `f x i` for the elements of a width
and 0 above them, and raises flags; a write of `k0` is discarded (06_vector.md R176; 03_encoding.md R64). -/
def WritesMask (c : Core) (e : VEntry) (d : Reg3) (a : VSrc) (n : Nat) (f : VWord → Nat → Bool)
    (fl : VWord → Flags → Prop) : Prop :=
  (c.source a = none → c.compute e = none) ∧
  ∀ (y : Core) (x : VWord), c.source a = some (y, x) → ∃ (m : KWord) (g : Flags),
    c.compute e = some (if d = 0 then y else { y with k := y.k.set d.toNat m }, g, none) ∧
    (∀ i, i < 256 → m.getLsbD i = (decide (i < n) && f x i)) ∧ fl x g

/-- The queued instruction takes its first source and writes a register, `g` being its flags (06_vector.md R178, R179). -/
def WritesVector (c : Core) (e : VEntry) (d : VReg) (a : VSrc) (f : VWord → VWord → Flags → Prop) : Prop :=
  (c.source a = none → c.compute e = none) ∧
  ∀ (y : Core) (x : VWord), c.source a = some (y, x) → ∃ (v : VWord) (g : Flags),
    c.compute e = some ({ y with v := y.v.set d.toNat v }, g, none) ∧ f x v g

/-- The FP32 pattern of an element of a float type, and the flags of widening it (06_vector.md R178). -/
def asSingle (f : Format) (p : Nat) : Nat × Flags :=
  if f = .f32 then (p, 0) else (Format.convert .f32 .inf (f.value p)).getD (0, 0)

/-- An FP32 pattern rounded to a float type, and its flags (06_vector.md R179). -/
def fromSingle (f : Format) (p : Nat) : Nat × Flags :=
  if f = .f32 then (p, 0) else (f.convert .inf (Format.value .f32 p)).getD (0, 0)

end Sys2Proof.Machine

open Sys2Proof Sys2Proof.Machine

/-- Decoding an encoded well-formed instruction gives it back: every instruction that has a word, with every operand
at every value its encoding admits (03_encoding.md R67 to R86). -/
def Obligations.DecodeEncode : Prop := ∀ (i : Instr) (w : IWord), i.WellFormed = true → encode i = some w → decode w = .ok i

/-- A word that decodes is the encoding of one well-formed instruction: no bit of an accepted word is free, so every
field stated to be zero is zero in it (03_encoding.md R86). Every word with a major in 0x28 to 0x3E, and the all-zero
word, is a reserved encoding (03_encoding.md R86). -/
def Obligations.AcceptedWordsAreCanonical : Prop :=
  (∀ (w : IWord) (i : Instr), decode w = .ok i → i.WellFormed = true ∧ encode i = some w) ∧
  ((∀ w : IWord, unassignedMajor w → ∀ i, decode w ≠ .ok i) ∧ ∀ i, decode 0#32 ≠ .ok i)

/-- Words written out in the spec decode to the instructions they stand for (03_encoding.md, 04_scalar.md R104,
05_tasks.md R139 to R152, 15_faults.md R382 to R394, 16_system.md R424). -/
def Obligations.DecodeSpecWords : Prop :=
  decode 0x180FFE0F#32 = .ok (.wait 0 63 31 0 15) ∧ decode 0x14610002#32 = .ok (.rep 3 1 0 2) ∧
  decode 0x21280101#32 = .ok (.shlImm 9 8 1) ∧ decode 0x0C000000#32 = .ok .tend ∧
  decode 0x1C000002#32 = .ok .tyield ∧ decode 0x1C001003#32 = .ok (.gang .two) ∧
  decode 0x1C002003#32 = .ok (.gang .four) ∧ decode 0x1C000004#32 = .ok .ungang ∧
  decode 0x1C000012#32 = .ok (.phase .die) ∧ decode 0xFC00102C#32 = .ok (.trap 300) ∧
  decode 0xFC000080#32 = .ok .eret ∧ decode 0xFCA00102#32 = .ok (.sysr 5 2) ∧
  decode 0xFC060181#32 = .ok (.sysw 1 6) ∧ decode 0xFC040200#32 = .ok (.tlbinv 4) ∧
  decode 0xFC040380#32 = .ok (.mirq 4) ∧ decode 0xFC042A80#32 = .ok (.diagw 4 5) ∧
  decode 0xFCC40300#32 = .ok (.diagr 6 4)

/-- A step runs what is due: a happening of the agenda; otherwise, on the first core whose task may issue, the
instruction that the bytes at its pc, the running frame or its gang leader's stream give, or `ILLEGAL` for a reserved
encoding; then the gang keeps together and the turn passes to the next core; and without such a core one round of what
happens beside the instructions (05_tasks.md R134, R138, R147, R150; log entry 2 for the order). An instruction fetch
reads four bytes of this package's memory at the place that translation gives, little-endian, through the task's own
stores, and is not checked against declared ranges (05_tasks.md R138, 03_encoding.md R67). -/
def Obligations.StepRunsWhatItFetches : Prop :=
  ((∀ (s : State) (i : Instr) (rest : List Due), s.agenda = .event i :: rest →
      step s = thenState (exec i { s with agenda := rest }) State.react) ∧
   (∀ (s u : State) (ci : Nat) (t : Task) (bs : List Byte) (i : Instr),
     s.agenda = [] → s.nextCore = some ci → (s.core ci).running.bind s.task? = some t →
     (s.takeTurn ci t).unitFaults t = false → t.gang.bind (·.stream.head?) = none → t.rep.filter (·.active) = none →
     (s.takeTurn ci t).fetchWord t t.pc = (u, .bytes bs) → decode (wordOfBytes bs) = .ok i →
     step s = thenState (thenState (exec i u) (·.afterIssue t (wordOfBytes bs))) (·.passTurn ci)) ∧
   (∀ (s u : State) (ci : Nat) (t : Task) (bs : List Byte) (r : Reject),
     s.agenda = [] → s.nextCore = some ci → (s.core ci).running.bind s.task? = some t →
     (s.takeTurn ci t).unitFaults t = false → t.gang.bind (·.stream.head?) = none → t.rep.filter (·.active) = none →
     (s.takeTurn ci t).fetchWord t t.pc = (u, .bytes bs) → decode (wordOfBytes bs) = .error r →
     step s = thenState (thenState (exec (.reservedEncoding (wordOfBytes bs)) u) (·.afterIssue t (wordOfBytes bs)))
       (·.passTurn ci)) ∧
   (∀ (s : State) (ci : Nat) (t : Task) (f : Frame) (i : Instr),
     s.agenda = [] → s.nextCore = some ci → (s.core ci).running.bind s.task? = some t →
     (s.takeTurn ci t).unitFaults t = false → t.gang.bind (·.stream.head?) = none → t.rep = some f → f.active = true →
     decode (stagger f.smask f.stag f.i (f.words.getD f.j 0)) = .ok i →
     step s = thenState (thenState (exec i (s.takeTurn ci t))
       (·.afterIssue t (stagger f.smask f.stag f.i (f.words.getD f.j 0)))) (·.passTurn ci)) ∧
   (∀ (s : State) (ci : Nat) (t : Task) (b : Beat) (i : Instr),
     s.agenda = [] → s.nextCore = some ci → (s.core ci).running.bind s.task? = some t →
     (s.takeTurn ci t).unitFaults t = false → t.gang.bind (·.stream.head?) = some b → decode b.word = .ok i →
     step s = thenState (thenState (exec i (s.takeTurn ci t)) (·.afterIssue t b.word)) (·.passTurn ci)) ∧
   (∀ s : State, s.agenda = [] → s.nextCore = none → step s = .next { s.background with turn := 0 })) ∧
  ((∀ (s u : State) (t : Task) (va : Word) (l : Loc),
     s.place t.ci t.ctxid [⟨0, 2 ^ 64, true⟩] .fetch va 4 = (u, .ok l) → l.pkg = u.svc.packageId →
     u.found l 4 = .sound →
     let x := (u.correct l.pa 4).taskBytes t l.pa 4
     s.fetchWord t va = (x.1, .bytes x.2)) ∧
   (∀ a b c d : Byte, wordOfBytes [a, b, c, d] = d ++ (c ++ (b ++ a))))

/-- What the device's registers hold at reset where the spec gives a value, and what a fresh task's hold
(03_encoding.md R65, 02_numbers.md R47, 16_system.md R413, R418; 13_fabric.md R330; 05_tasks.md R127, R131). -/
def Obligations.ResetValues : Prop :=
  (∀ p, State.reset.part p = Part.idle) ∧ (Part.idle.en = false ∧ Part.idle.resetting = false ∧
    Part.idle.pqos = 0x01010101 ∧ Part.idle.masked = 0) ∧
  (∀ c, (State.reset.ctx c).lqtail = 0 ∧ (State.reset.ctx c).lqhead = 0 ∧ (State.reset.ctx c).cqtail = 0 ∧
    (State.reset.ctx c).perm = 0) ∧
  (∀ d, (State.reset.die d).fbstat = 0 ∧ (State.reset.die d).corrected = 0) ∧
  State.reset.svc.misuse = 0 ∧ State.reset.tasks = [] ∧ State.reset.launches = [] ∧ State.reset.doms = [] ∧
  (∀ (uid sid : Nat), let t : Task := { uid := uid, sid := sid }
    t.trapv = 0 ∧ t.epc = 0 ∧ t.cause = 0 ∧ t.fsr = 0 ∧ t.hintdrop = 0 ∧ t.hnd = false ∧ t.phase = 0 ∧
    t.ld = 0 ∧ t.st = 0 ∧ t.cp = 0 ∧ t.mx = 0 ∧ t.fb = 0 ∧ t.rep = none)

/-- `g0` reads 0 and `p0` reads 1, and a write of them is discarded; any other register reads what was last written to
it, and a write leaves the others (03_encoding.md R64). -/
def Obligations.RegisterFile : Prop :=
  ∀ (t : Task) (d e : GReg) (p q : Reg3) (v : Word) (b : Bool),
    t.greg 0 = 0 ∧ t.pred 0 = true ∧ t.setG 0 v = t ∧ t.setP 0 b = t ∧
    (d ≠ 0 → (t.setG d v).greg d = v) ∧ (e ≠ d → (t.setG d v).greg e = t.greg e) ∧ (t.setG d v).p = t.p ∧
    (p ≠ 0 → (t.setP p b).pred p = b) ∧ (q ≠ p → (t.setP p b).pred q = t.pred q) ∧ (t.setP p b).g = t.g

/-- The sums, differences, bitwise results, minima and maxima, and element addresses of major 0x08, and the immediate
forms of majors 0x09 to 0x0B; only `g`d and the pc change (04_scalar.md R102, R103; 03_encoding.md R70). Shifts give
zeros, or copies of bit 63, for counts of 64 and more, read from all 64 bits of `g`b; a rotate takes its count modulo
64, so that bit i of the result is bit i - c, round the word (04_scalar.md R104). -/
def Obligations.IntegerAndShiftResults : Prop :=
  ((∀ (d a b : GReg) (fn : BitVec 11),
     let f := fn.toNat
     let o := rWord 0x08 d a b
     decode (o 0x000) = .ok (.add d a b) ∧ decode (o 0x001) = .ok (.sub d a b) ∧ decode (o 0x002) = .ok (.and d a b) ∧
     decode (o 0x003) = .ok (.or d a b) ∧ decode (o 0x004) = .ok (.xor d a b) ∧ decode (o 0x005) = .ok (.andn d a b) ∧
     decode (o 0x00A) = .ok (.minI64 d a b) ∧ decode (o 0x00B) = .ok (.minN64 d a b) ∧
     decode (o 0x00C) = .ok (.maxI64 d a b) ∧ decode (o 0x00D) = .ok (.maxN64 d a b) ∧
     decode (o 0x029) = .ok (.leaH d a b) ∧ decode (o 0x02A) = .ok (.leaW d a b) ∧ decode (o 0x02B) = .ok (.leaD d a b) ∧
     (f ∈ [0x00E, 0x00F, 0x013, 0x01B, 0x01F] ∨ (0x026 ≤ f ∧ f ≤ 0x028) ∨ (0x02C ≤ f ∧ f ≤ 0x0FF) ∨ 0x200 ≤ f →
       ReservedWord (o fn))) ∧
   ∀ (s : State) (t : Task) (d a b : GReg) (imm : BitVec 16), s.current = some t →
     Completes (.add d a b) s (t.setG d (t.greg a + t.greg b)) ∧
     Completes (.sub d a b) s (t.setG d (t.greg a - t.greg b)) ∧
     Completes (.and d a b) s (t.setG d (t.greg a &&& t.greg b)) ∧
     Completes (.or d a b) s (t.setG d (t.greg a ||| t.greg b)) ∧
     Completes (.xor d a b) s (t.setG d (t.greg a ^^^ t.greg b)) ∧
     Completes (.andn d a b) s (t.setG d (t.greg a &&& ~~~t.greg b)) ∧
     Completes (.minI64 d a b) s (t.setG d (BitVec.ofInt 64 (min (t.greg a).toInt (t.greg b).toInt))) ∧
     Completes (.minN64 d a b) s (t.setG d (BitVec.ofNat 64 (min (t.greg a).toNat (t.greg b).toNat))) ∧
     Completes (.maxI64 d a b) s (t.setG d (BitVec.ofInt 64 (max (t.greg a).toInt (t.greg b).toInt))) ∧
     Completes (.maxN64 d a b) s (t.setG d (BitVec.ofNat 64 (max (t.greg a).toNat (t.greg b).toNat))) ∧
     Completes (.leaH d a b) s (t.setG d (t.greg a + 2 * t.greg b)) ∧
     Completes (.leaW d a b) s (t.setG d (t.greg a + 4 * t.greg b)) ∧
     Completes (.leaD d a b) s (t.setG d (t.greg a + 8 * t.greg b)) ∧
     Completes (.addi d a imm) s (t.setG d (t.greg a + imm.signExtend 64)) ∧
     Completes (.andi d a imm) s (t.setG d (t.greg a &&& imm.signExtend 64)) ∧
     Completes (.ori d a imm) s (t.setG d (t.greg a ||| imm.zeroExtend 64))) ∧
  ((∀ (d a b : GReg) (n : BitVec 6),
     decode (rWord 0x08 d a b 0x006) = .ok (.shl d a b) ∧ decode (rWord 0x08 d a b 0x007) = .ok (.shr d a b) ∧
     decode (rWord 0x08 d a b 0x008) = .ok (.sar d a b) ∧ decode (rWord 0x08 d a b 0x009) = .ok (.rol d a b) ∧
     decode (rWord 0x08 d a 0 (1#3 ++ (0#2 ++ n))) = .ok (.shlImm d a n) ∧
     decode (rWord 0x08 d a 0 (1#3 ++ (1#2 ++ n))) = .ok (.shrImm d a n) ∧
     decode (rWord 0x08 d a 0 (1#3 ++ (2#2 ++ n))) = .ok (.sarImm d a n) ∧
     decode (rWord 0x08 d a 0 (1#3 ++ (3#2 ++ n))) = .ok (.rolImm d a n)) ∧
   ∀ (s : State) (t : Task) (d a b : GReg) (n : BitVec 6), s.current = some t →
     let c := (t.greg b).toNat
     Completes (.shl d a b) s (t.setG d (if 64 ≤ c then 0 else t.greg a <<< c)) ∧
     Completes (.shr d a b) s (t.setG d (if 64 ≤ c then 0 else t.greg a >>> c)) ∧
     Completes (.sar d a b) s (t.setG d
       (if 64 ≤ c then (if (t.greg a).getLsbD 63 then BitVec.allOnes 64 else 0) else (t.greg a).sshiftRight c)) ∧
     Completes (.rol d a b) s (t.setG d ((t.greg a).rotateLeft c)) ∧
     Completes (.shlImm d a n) s (t.setG d (t.greg a <<< n.toNat)) ∧
     Completes (.shrImm d a n) s (t.setG d (t.greg a >>> n.toNat)) ∧
     Completes (.sarImm d a n) s (t.setG d ((t.greg a).sshiftRight n.toNat)) ∧
     Completes (.rolImm d a n) s (t.setG d ((t.greg a).rotateLeft n.toNat)))

/-- Low and high halves of the product (04_scalar.md R105); quotients and remainders with a zero divisor, with the
overflow of -2^63 by -1, and truncated towards zero (R106). -/
def Obligations.MultiplyDivideResults : Prop :=
  (∀ (d a b : GReg),
    let o := rWord 0x08 d a b
    decode (o 0x010) = .ok (.mul d a b) ∧ decode (o 0x011) = .ok (.mulhI64 d a b) ∧
    decode (o 0x012) = .ok (.mulhN64 d a b) ∧ decode (o 0x014) = .ok (.divI64 d a b) ∧
    decode (o 0x015) = .ok (.divN64 d a b) ∧ decode (o 0x016) = .ok (.remI64 d a b) ∧
    decode (o 0x017) = .ok (.remN64 d a b)) ∧
  ∀ (s : State) (t : Task) (d a b : GReg), s.current = some t →
    let x := t.greg a
    let y := t.greg b
    Completes (.mul d a b) s (t.setG d (x * y)) ∧
    Completes (.mulhI64 d a b) s (t.setG d ((x.signExtend 128 * y.signExtend 128).extractLsb' 64 64)) ∧
    Completes (.mulhN64 d a b) s (t.setG d ((x.zeroExtend 128 * y.zeroExtend 128).extractLsb' 64 64)) ∧
    Completes (.divI64 d a b) s (t.setG d (if y = 0 then BitVec.allOnes 64 else x.sdiv y)) ∧
    Completes (.divN64 d a b) s (t.setG d (if y = 0 then BitVec.allOnes 64 else x / y)) ∧
    Completes (.remI64 d a b) s (t.setG d (if y = 0 then x else x.srem y)) ∧
    Completes (.remN64 d a b) s (t.setG d (x % y)) ∧
    (BitVec.intMin 64).sdiv (-1) = BitVec.intMin 64 ∧ (BitVec.intMin 64).srem (-1) = 0

/-- Extensions, counts of bits, reversal (04_scalar.md R107), and bit fields, whose position and width come from `g`b
and of which nothing exists above bit 63 (R108). -/
def Obligations.BitResults : Prop :=
  (∀ (d a b : GReg),
    let o := rWord 0x08 d a 0
    decode (o 0x018) = .ok (.sextB d a) ∧ decode (o 0x019) = .ok (.sextH d a) ∧ decode (o 0x01A) = .ok (.sextW d a) ∧
    decode (o 0x01C) = .ok (.zextB d a) ∧ decode (o 0x01D) = .ok (.zextH d a) ∧ decode (o 0x01E) = .ok (.zextW d a) ∧
    decode (o 0x022) = .ok (.clz d a) ∧ decode (o 0x023) = .ok (.ctz d a) ∧ decode (o 0x024) = .ok (.popc d a) ∧
    decode (o 0x025) = .ok (.brev d a) ∧ decode (rWord 0x08 d a b 0x020) = .ok (.bext d a b) ∧
    decode (rWord 0x08 d a b 0x021) = .ok (.bins d a b)) ∧
  ∀ (s : State) (t : Task) (d a b : GReg), s.current = some t →
    let x := t.greg a
    let pos := ((t.greg b).extractLsb' 0 6).toNat
    let w := if (t.greg b).extractLsb' 8 6 = 0 then 64 else ((t.greg b).extractLsb' 8 6).toNat
    Completes (.sextB d a) s (t.setG d ((x.extractLsb' 0 8).signExtend 64)) ∧
    Completes (.sextH d a) s (t.setG d ((x.extractLsb' 0 16).signExtend 64)) ∧
    Completes (.sextW d a) s (t.setG d ((x.extractLsb' 0 32).signExtend 64)) ∧
    Completes (.zextB d a) s (t.setG d ((x.extractLsb' 0 8).zeroExtend 64)) ∧
    Completes (.zextH d a) s (t.setG d ((x.extractLsb' 0 16).zeroExtend 64)) ∧
    Completes (.zextW d a) s (t.setG d ((x.extractLsb' 0 32).zeroExtend 64)) ∧
    (∃ n : Nat, Completes (.clz d a) s (t.setG d (BitVec.ofNat 64 n)) ∧
      (x = 0 → n = 64) ∧ (x ≠ 0 → n < 64 ∧ x.getLsbD (63 - n) = true ∧ ∀ j, 63 - n < j → x.getLsbD j = false)) ∧
    (∃ n : Nat, Completes (.ctz d a) s (t.setG d (BitVec.ofNat 64 n)) ∧
      (x = 0 → n = 64) ∧ (x ≠ 0 → n < 64 ∧ x.getLsbD n = true ∧ ∀ j, j < n → x.getLsbD j = false)) ∧
    Completes (.popc d a) s (t.setG d (BitVec.ofNat 64 ((List.range 64).filter fun j => x.getLsbD j).length)) ∧
    (∃ v : Word, Completes (.brev d a) s (t.setG d v) ∧ ∀ j, j < 64 → v.getLsbD j = x.getLsbD (63 - j)) ∧
    (∃ v : Word, Completes (.bext d a b) s (t.setG d v) ∧
      ∀ j, j < 64 → v.getLsbD j = (decide (j < w) && x.getLsbD (pos + j))) ∧
    (∃ v : Word, Completes (.bins d a b) s (t.setG d v) ∧
      ∀ j, j < 64 → v.getLsbD j = if pos ≤ j ∧ j < pos + w then x.getLsbD (j - pos) else (t.greg d).getLsbD j)

/-- The integer compares write one predicate; a number as last operand is sign-extended and then read with the
signedness of the compare (04_scalar.md R109). The predicate instructions (04_scalar.md R110). -/
def Obligations.CompareAndPredicateResults : Prop :=
  ((∀ (p : Reg3) (a b x : BitVec 5) (fn : BitVec 11),
     let o := rWord 0x0C (0#2 ++ p) a b
     decode (o 0x000) = .ok (.cmpeq p a b) ∧ decode (o 0x400) = .ok (.cmpeqImm p a b) ∧
     decode (o 0x001) = .ok (.cmpne p a b) ∧ decode (o 0x401) = .ok (.cmpneImm p a b) ∧
     decode (o 0x002) = .ok (.cmpltI64 p a b) ∧ decode (o 0x402) = .ok (.cmpltI64Imm p a b) ∧
     decode (o 0x003) = .ok (.cmpltN64 p a b) ∧ decode (o 0x403) = .ok (.cmpltN64Imm p a b) ∧
     decode (o 0x004) = .ok (.cmpleI64 p a b) ∧ decode (o 0x404) = .ok (.cmpleI64Imm p a b) ∧
     decode (o 0x005) = .ok (.cmpleN64 p a b) ∧ decode (o 0x405) = .ok (.cmpleN64Imm p a b) ∧
     decode (o 0x006) = .ok (.cmpgtI64 p a b) ∧ decode (o 0x406) = .ok (.cmpgtI64Imm p a b) ∧
     decode (o 0x007) = .ok (.cmpgtN64 p a b) ∧ decode (o 0x407) = .ok (.cmpgtN64Imm p a b) ∧
     decode (o 0x008) = .ok (.cmpgeI64 p a b) ∧ decode (o 0x408) = .ok (.cmpgeI64Imm p a b) ∧
     decode (o 0x009) = .ok (.cmpgeN64 p a b) ∧ decode (o 0x409) = .ok (.cmpgeN64Imm p a b) ∧
     (fn.toNat / 16 % 64 = 0 → 10 ≤ fn.toNat % 16 → ReservedWord (rWord 0x0C x a b fn)) ∧
     (8 ≤ x.toNat → fn.toNat / 16 % 64 = 0 → ReservedWord (rWord 0x0C x a b fn))) ∧
   ∀ (s : State) (t : Task) (p : Reg3) (a b : GReg) (imm : BitVec 5), s.current = some t →
     let x := t.greg a
     let y := t.greg b
     let z := imm.signExtend 64
     Completes (.cmpeq p a b) s (t.setP p (decide (x = y))) ∧
     Completes (.cmpne p a b) s (t.setP p (decide (x ≠ y))) ∧
     Completes (.cmpltI64 p a b) s (t.setP p (decide (x.toInt < y.toInt))) ∧
     Completes (.cmpltN64 p a b) s (t.setP p (decide (x.toNat < y.toNat))) ∧
     Completes (.cmpleI64 p a b) s (t.setP p (decide (x.toInt ≤ y.toInt))) ∧
     Completes (.cmpleN64 p a b) s (t.setP p (decide (x.toNat ≤ y.toNat))) ∧
     Completes (.cmpgtI64 p a b) s (t.setP p (decide (x.toInt > y.toInt))) ∧
     Completes (.cmpgtN64 p a b) s (t.setP p (decide (x.toNat > y.toNat))) ∧
     Completes (.cmpgeI64 p a b) s (t.setP p (decide (x.toInt ≥ y.toInt))) ∧
     Completes (.cmpgeN64 p a b) s (t.setP p (decide (x.toNat ≥ y.toNat))) ∧
     Completes (.cmpeqImm p a imm) s (t.setP p (decide (x = z))) ∧
     Completes (.cmpneImm p a imm) s (t.setP p (decide (x ≠ z))) ∧
     Completes (.cmpltI64Imm p a imm) s (t.setP p (decide (x.toInt < z.toInt))) ∧
     Completes (.cmpltN64Imm p a imm) s (t.setP p (decide (x.toNat < z.toNat))) ∧
     Completes (.cmpleI64Imm p a imm) s (t.setP p (decide (x.toInt ≤ z.toInt))) ∧
     Completes (.cmpleN64Imm p a imm) s (t.setP p (decide (x.toNat ≤ z.toNat))) ∧
     Completes (.cmpgtI64Imm p a imm) s (t.setP p (decide (x.toInt > z.toInt))) ∧
     Completes (.cmpgtN64Imm p a imm) s (t.setP p (decide (x.toNat > z.toNat))) ∧
     Completes (.cmpgeI64Imm p a imm) s (t.setP p (decide (x.toInt ≥ z.toInt))) ∧
     Completes (.cmpgeN64Imm p a imm) s (t.setP p (decide (x.toNat ≥ z.toNat)))) ∧
  ((∀ (d a b : Reg3) (x y z : BitVec 5) (fn : BitVec 11),
     let f := fn.toNat
     let o := rWord 0x0C (0#2 ++ d) (0#2 ++ a) (0#2 ++ b)
     decode (o 0x010) = .ok (.pand d a b) ∧ decode (o 0x011) = .ok (.por d a b) ∧ decode (o 0x012) = .ok (.pxor d a b) ∧
     decode (o 0x013) = .ok (.pandn d a b) ∧ decode (rWord 0x0C (0#2 ++ d) (0#2 ++ a) 0 0x014) = .ok (.pnot d a) ∧
     decode (rWord 0x0C (0#2 ++ d) (0#2 ++ a) 0 0x015) = .ok (.pmov d a) ∧
     decode (rWord 0x0C x 0 0 0x020) = .ok (.pget x) ∧ decode (rWord 0x0C 0 x 0 0x021) = .ok (.pset x) ∧
     (16 ≤ f % 1024 → f ∉ [0x010, 0x011, 0x012, 0x013, 0x014, 0x015, 0x020, 0x021] → ReservedWord (rWord 0x0C x y z fn))) ∧
   ∀ (s : State) (t : Task) (d a b : Reg3) (g : GReg), s.current = some t →
     Completes (.pand d a b) s (t.setP d (t.pred a && t.pred b)) ∧
     Completes (.por d a b) s (t.setP d (t.pred a || t.pred b)) ∧
     Completes (.pxor d a b) s (t.setP d (t.pred a ^^ t.pred b)) ∧
     Completes (.pandn d a b) s (t.setP d (t.pred a && !t.pred b)) ∧
     Completes (.pnot d a) s (t.setP d (!t.pred a)) ∧
     Completes (.pmov d a) s (t.setP d (t.pred a)) ∧
     (∃ v : Word, Completes (.pget g) s (t.setG g v) ∧
       ∀ j : Nat, j < 64 → v.getLsbD j = (decide (j < 8) && t.pred (BitVec.ofNat 3 j))) ∧
     (∃ q : BitVec 8, Completes (.pset g) s { t with p := q } ∧
       ∀ j : Nat, 0 < j → j < 8 → q.getLsbD j = (t.greg g).getLsbD j))

/-- Scalar FP32 arithmetic: each result is the exact value of the operation rounded once, in bits 31:0 of `g`d, with
its flags ORed into FSR; sign operations move bits (04_scalar.md R98, R111, R112, R113; 02_numbers.md R48). The
special operands of FP32 arithmetic, row by row: bits, then flags (04_scalar.md R111, R112; 02_numbers.md R35, R46).
-/
def Obligations.FloatArithmetic : Prop :=
  (∀ (s : State) (t : Task) (d a b : GReg), s.current = some t →
     let x := t.single a
     let y := t.single b
     Rounds (.fadd d a b) s t d (Format.sum .f32 [x, y] false) ∧
     Rounds (.fsub d a b) s t d (Format.sum .f32 [x, y.negate] false) ∧
     Rounds (.fmul d a b) s t d (Format.mul .f32 x y) ∧
     Rounds (.fdiv d a b) s t d (Format.div .f32 x y) ∧
     Rounds (.fsqrt d a) s t d (Format.sqrt .f32 x) ∧
     Rounds (.fma d a b) s t d (Format.fma .f32 false x y (t.single d)) ∧
     Rounds (.fnma d a b) s t d (Format.fma .f32 true x y (t.single d)) ∧
     Rounds (.fmin d a b) s t d
       (Format.minmax .f32 false ((t.greg a).extractLsb' 0 32).toNat ((t.greg b).extractLsb' 0 32).toNat) ∧
     Rounds (.fmax d a b) s t d
       (Format.minmax .f32 true ((t.greg a).extractLsb' 0 32).toNat ((t.greg b).extractLsb' 0 32).toNat) ∧
     Completes (.fabs d a) s (t.setG d (t.greg a &&& 0x7FFFFFFF)) ∧
     Completes (.fneg d a) s (t.setG d ((t.greg a &&& 0xFFFFFFFF) ^^^ 0x80000000))) ∧
  ((∀ x y : Machine.Num, (x.isNan = true ∨ y.isNan = true) →
     ∀ r ∈ [Format.sum .f32 [x, y] false, Format.mul .f32 x y, Format.div .f32 x y],
       r.bits = 0x7FC00000 ∧ r.flags = if x.signalling = true ∨ y.signalling = true then 0x10 else 0) ∧
   (∀ s : Bool, (Format.sum .f32 [.inf s, .inf !s] false).bits = 0x7FC00000 ∧
     (Format.sum .f32 [.inf s, .inf !s] false).flags = 0x10) ∧
   (∀ (s u : Bool) (e : Int) (c : Machine.Num) (n : Bool),
     (Format.mul .f32 (.fin s 0 e) (.inf u)).bits = 0x7FC00000 ∧ (Format.mul .f32 (.fin s 0 e) (.inf u)).flags = 0x10 ∧
     (Format.mul .f32 (.inf u) (.fin s 0 e)).bits = 0x7FC00000 ∧ (Format.mul .f32 (.inf u) (.fin s 0 e)).flags = 0x10 ∧
     (Format.fma .f32 n (.fin s 0 e) (.inf u) c).bits = 0x7FC00000 ∧
     (Format.fma .f32 n (.fin s 0 e) (.inf u) c).flags = 0x10) ∧
   (∀ (s u : Bool) (m : Nat) (e : Int), m ≠ 0 →
     (Format.fma .f32 false (.inf s) (.fin u m e) (.inf (s == u))).bits = 0x7FC00000 ∧
     (Format.fma .f32 false (.inf s) (.fin u m e) (.inf (s == u))).flags = 0x10 ∧
     (Format.fma .f32 true (.inf s) (.fin u m e) (.inf (s != u))).bits = 0x7FC00000 ∧
     (Format.fma .f32 true (.inf s) (.fin u m e) (.inf (s != u))).flags = 0x10) ∧
   (∀ (s u : Bool) (m : Nat) (e k : Int),
     (Format.div .f32 (.fin s 0 e) (.fin u 0 k)).bits = 0x7FC00000 ∧
     (Format.div .f32 (.fin s 0 e) (.fin u 0 k)).flags = 0x10 ∧
     (Format.div .f32 (.inf s) (.inf u)).bits = 0x7FC00000 ∧ (Format.div .f32 (.inf s) (.inf u)).flags = 0x10 ∧
     (m ≠ 0 → (Format.div .f32 (.fin s m e) (.fin u 0 k)).bits = (if s = u then 0x7F800000 else 0xFF800000) ∧
       (Format.div .f32 (.fin s m e) (.fin u 0 k)).flags = 0x08) ∧
     (Format.div .f32 (.fin s m e) (.inf u)).bits = (if s = u then 0 else 0x80000000) ∧
     (Format.div .f32 (.fin s m e) (.inf u)).flags = 0) ∧
   (∀ (m : Nat) (e : Int) (s : Bool),
     (m ≠ 0 → (Format.sqrt .f32 (.fin true m e)).bits = 0x7FC00000 ∧ (Format.sqrt .f32 (.fin true m e)).flags = 0x10) ∧
     (Format.sqrt .f32 (.inf true)).bits = 0x7FC00000 ∧ (Format.sqrt .f32 (.inf true)).flags = 0x10 ∧
     (Format.sqrt .f32 (.fin s 0 e)).bits = (if s then 0x80000000 else 0) ∧
     (Format.sqrt .f32 (.inf false)).bits = 0x7F800000 ∧ (Format.sqrt .f32 (.inf false)).flags = 0) ∧
   (∀ (m : Nat) (e : Int), (Format.sum .f32 [.fin false m e, .fin true m e] false).bits = 0 ∧
     (Format.sum .f32 [.fin false m e, .fin true m e] false).flags = 0 ∧
     (Format.sum .f32 [.fin true 0 e, .fin true 0 e] false).bits = 0x80000000) ∧
   (∀ (m : Nat) (s : Bool), 2 ^ 128 ≤ m →
     (Format.round .f32 s m 0 false).bits = (if s then 0xFF800000 else 0x7F800000) ∧
     (Format.round .f32 s m 0 false).flags = 0x05) ∧
   ((Format.minmax .f32 false 0 0x80000000).bits = 0x80000000 ∧ (Format.minmax .f32 false 0x80000000 0).bits = 0x80000000 ∧
     (Format.minmax .f32 true 0 0x80000000).bits = 0 ∧ (Format.minmax .f32 true 0x80000000 0).bits = 0))

/-- The one rounding step takes a magnitude to the nearest multiple of the unit, a tie to an even multiple, and
reports whether the value changed; a magnitude that is a multiple already is delivered unchanged (02_numbers.md R44).
-/
def Obligations.RoundsToNearestEven : Prop :=
  ∀ (m n : Nat) (e : Int),
    let r := roundAt m e (e + n) false
    2 * (r.1 * 2 ^ n - m : Int).natAbs ≤ 2 ^ n ∧
    (2 * (r.1 * 2 ^ n - m : Int).natAbs = 2 ^ n ∧ 0 < n → r.1 % 2 = 0) ∧
    (r.2 = true ↔ r.1 * 2 ^ n ≠ m)

/-- The FP32 compares write one predicate, order unordered operands as the spec says, and set NV for a signalling NaN,
and for any NaN under the ordering relations (04_scalar.md R114). -/
def Obligations.FloatCompareResults : Prop :=
  ∀ (s : State) (t : Task) (p : Reg3) (a b : GReg), s.current = some t →
    let x := t.single a
    let y := t.single b
    let nan := x.isNan || y.isNan
    let nv : Flags := if x.signalling || y.signalling then 0x10 else 0
    let nvAny : Flags := if nan then 0x10 else 0
    Completes (.fcmpeq p a b) s { t.setP p (!nan && x.eq y) with fsr := t.fsr ||| nv } ∧
    Completes (.fcmplt p a b) s { t.setP p (!nan && x.lt y) with fsr := t.fsr ||| nvAny } ∧
    Completes (.fcmple p a b) s { t.setP p (!nan && !y.lt x) with fsr := t.fsr ||| nvAny } ∧
    Completes (.fcmpun p a b) s { t.setP p nan with fsr := t.fsr ||| nv } ∧
    (∀ (u v : Bool) (e k : Int), (Machine.Num.fin u 0 e).eq (.fin v 0 k) = true)

/-- The scalar conversions write their results, sign-extended for `.i32` and zero-extended otherwise, or trap with
CONVOVF and change nothing else; ICVTF and FWID never trap (04_scalar.md R115, R116; 02_numbers.md R50, R54, R55).
What a conversion delivers for a NaN, an infinity and an overflow under each policy (02_numbers.md R51, R52, R53). -/
def Obligations.Conversions : Prop :=
  (∀ (s : State) (t : Task) (d a : GReg) (ovp : Ovp) (rtz : Bool), s.current = some t →
     let x := t.single a
     let half := ((t.greg a).extractLsb' 0 16).toNat
     Converts (.fcvtiI32 d a ovp rtz) s t d (convertToInt ovp rtz false 32 x) (fun v => (BitVec.ofNat 32 v).signExtend 64) ∧
     Converts (.fcvtiN32 d a ovp rtz) s t d (convertToInt ovp rtz true 32 x) (BitVec.ofNat 64) ∧
     Converts (.fcvtiI64 d a ovp rtz) s t d (convertToInt ovp rtz false 64 x) (BitVec.ofNat 64) ∧
     Converts (.fcvtiN64 d a ovp rtz) s t d (convertToInt ovp rtz true 64 x) (BitVec.ofNat 64) ∧
     Converts (.fcvtBf16 d a ovp) s t d (Format.convert .bf16 ovp x) (BitVec.ofNat 64) ∧
     Converts (.fcvtF16 d a ovp) s t d (Format.convert .f16 ovp x) (BitVec.ofNat 64) ∧
     (∃ v fl, Format.ofInt .f32 .sat (t.greg a).toInt = some (v, fl) ∧
       Completes (.icvtfI64 d a) s { t.setG d (BitVec.ofNat 64 v) with fsr := t.fsr ||| fl }) ∧
     (∃ v fl, Format.ofInt .f32 .sat (t.greg a).toNat = some (v, fl) ∧
       Completes (.icvtfN64 d a) s { t.setG d (BitVec.ofNat 64 v) with fsr := t.fsr ||| fl }) ∧
     ((Format.value .bf16 half).isNan = false → Completes (.fwidBf16 d a) s (t.setG d (BitVec.ofNat 64 (half * 2 ^ 16)))) ∧
     ((Format.value .bf16 half).isNan = true → Completes (.fwidBf16 d a) s
       { t.setG d 0x7FC00000 with fsr := t.fsr ||| if (Format.value .bf16 half).signalling then 0x10 else 0 }) ∧
     (∃ v fl, Format.convert .f32 .sat (Format.value .f16 half) = some (v, fl) ∧
       Completes (.fwidF16 d a) s { t.setG d (BitVec.ofNat 64 v) with fsr := t.fsr ||| fl })) ∧
  ((∀ (rtz uns sig : Bool) (w : Nat), convertToInt .trap rtz uns w (.nan sig) = none ∧
     ∀ p, p ≠ Ovp.trap → convertToInt p rtz uns w (.nan sig) = some (0, 0x10)) ∧
   (∀ (rtz : Bool) (s : Bool), convertToInt .trap rtz false 32 (.inf s) = none ∧
     ∀ p, p ≠ Ovp.trap →
       convertToInt p rtz false 32 (.inf s) = some (if s then 0x80000000 else 0x7FFFFFFF, 0x30) ∧
       convertToInt p rtz true 32 (.inf s) = some (if s then 0 else 0xFFFFFFFF, 0x30)) ∧
   (∀ (m : Nat) (rtz : Bool), 2 ^ 32 ≤ m → convertToInt .trap rtz true 32 (.fin false m 0) = none ∧
     ∀ p, p ≠ Ovp.trap → convertToInt p rtz true 32 (.fin false m 0) = some (0xFFFFFFFF, 0x30)) ∧
   (∀ (m : Nat) (rtz : Bool) (p : Ovp), m < 2 ^ 31 → convertToInt p rtz false 32 (.fin false m 0) = some (m, 0)) ∧
   (∀ (f : Format) (p : Ovp) (sig : Bool), Format.convert f p (.nan sig) = some (f.nan, if sig then 0x10 else 0)) ∧
   (∀ (p : Ovp) (s : Bool), Format.convert .bf16 p (.inf s) = some (if s then 0xFF80 else 0x7F80, 0) ∧
     Format.convert .f16 p (.inf s) = some (if s then 0xFC00 else 0x7C00, 0) ∧
     Format.convert .e5m2 p (.inf s) = some (if s then 0xFC else 0x7C, 0) ∧
     Format.convert .e4m3 p (.inf s) = Format.overflow .e4m3 p s) ∧
   (∀ s : Bool,
     Format.overflow .f16 .sat s = some (if s then 0xFBFF else 0x7BFF, 0x25) ∧
     Format.overflow .f16 .inf s = some (if s then 0xFC00 else 0x7C00, 0x05) ∧
     Format.overflow .f16 .nan s = some (0x7E00, 0x05) ∧ Format.overflow .f16 .trap s = none ∧
     Format.overflow .e4m3 .sat s = some (if s then 0xFE else 0x7E, 0x25) ∧
     Format.overflow .e4m3 .inf s = some (0x7F, 0x05) ∧ Format.overflow .e4m3 .nan s = some (0x7F, 0x05) ∧
     Format.overflow .e4m3 .trap s = none) ∧
   (∀ (f : Format) (p : Ovp) (s : Bool) (m : Nat) (e : Int), m ≠ 0 → (f.round s m e false).overflow = true →
     Format.convert f p (.fin s m e) = Format.overflow f p s))

/-- What a scalar integer, compare, predicate or FP32 instruction that cannot trap leaves unchanged: every byte of
memory, every other task, every other register and predicate, the trap registers, the counters, and every flag that is
set; those of majors 0x08 to 0x0C leave all of FSR (04_scalar.md R102 to R114; 02_numbers.md R47). -/
def Obligations.ScalarFrame : Prop :=
  ∀ (i : Instr) (dest : GReg ⊕ Reg3) (s : State) (t : Task), s.current = some t →
    plainDest i = some dest ∨ floatDest i = some dest →
    ∃ u : Task, exec i s = .next (s.putTask u) ∧ u.uid = t.uid ∧ (∀ a, (s.putTask u).byte a = s.byte a) ∧
      (∀ x ∈ (s.putTask u).tasks, x.uid ≠ t.uid → x ∈ s.tasks) ∧
      (∀ e : GReg, dest ≠ .inl e → u.greg e = t.greg e) ∧ (∀ q : Reg3, dest ≠ .inr q → u.pred q = t.pred q) ∧
      (∀ n : Nat, t.fsr.getLsbD n = true → u.fsr.getLsbD n = true) ∧ (plainDest i = some dest → u.fsr = t.fsr) ∧
      u.trapv = t.trapv ∧ u.epc = t.epc ∧ u.cause = t.cause ∧ u.hnd = t.hnd ∧
      u.ld = t.ld ∧ u.st = t.st ∧ u.cp = t.cp ∧ u.mx = t.mx ∧ u.fb = t.fb ∧
      (t.rep = none → u.pc = t.pc + 4 ∧ u.rep = none)

/-- Branches, jumps and counted loops: displacements count words from the transferring instruction; a target that is
not a multiple of 4 raises ALIGN and leaves `g`d (05_tasks.md R134 to R137; 03_encoding.md R67). `LIMM` and its
follower execute as one instruction with a 42-bit immediate, sign-extended for ADDI, ANDI and JALR and zero-extended
for ORI; any other follower raises ILLEGAL at the `LIMM` (03_encoding.md R71, R72). -/
def Obligations.TransfersAndLongImmediates : Prop :=
  ((∀ (p : Reg3) (neg : BitVec 1) (d a : GReg) (n22 : BitVec 22) (n26 : BitVec 26) (n16 : BitVec 16),
     decode (0x00#6 ++ (p ++ (neg ++ n22))) = (if n22 = 0 then .error .zeroDisplacement
       else if p = 0 ∧ neg = 0 then .ok (.br n22) else .ok (.bp p (neg == 1) n22)) ∧
     decode (0x01#6 ++ n26) = .ok (.jal n26) ∧ decode (0x02#6 ++ (d ++ (a ++ n16))) = .ok (.jalr d a n16) ∧
     (d ≠ 0 → decode (0x03#6 ++ (d ++ (0#5 ++ n16))) = .ok (.loop d n16)) ∧
     decode (0x04#6 ++ n26) = .ok (.limm n26)) ∧
   ∀ (s : State) (t : Task) (p : Reg3) (neg : Bool) (d a : GReg) (n22 : BitVec 22) (n26 : BitVec 26) (n16 : BitVec 16),
     s.current = some t →
     let near := t.pc + 4 * n22.signExtend 64
     let target := t.greg a + n16.signExtend 64
     GoesTo (.br n22) s t near ∧
     GoesTo (.bp p neg n22) s t (if (p = 0 ∧ neg = false) ∨ (t.pred p ^^ neg) = true then near else t.pc + 4) ∧
     GoesTo (.jal n26) s (t.setG 31 (t.pc + 4)) (t.pc + 4 * n26.signExtend 64) ∧
     (target.extractLsb' 0 2 = 0 → GoesTo (.jalr d a n16) s (t.setG d (t.pc + 4)) target) ∧
     (target.extractLsb' 0 2 ≠ 0 → t.follows = false → Traps (.jalr d a n16) s t 0x02) ∧
     (1 < (t.greg d).toNat → GoesTo (.loop d n16) s (t.setG d (t.greg d - 1)) (t.pc + 4 * n16.signExtend 64)) ∧
     ((t.greg d).toNat ≤ 1 → GoesTo (.loop d n16) s (t.setG d 0) (t.pc + 4))) ∧
  (∀ (s u : State) (t : Task) (hi : BitVec 26) (bs : List Byte) (d a : GReg) (lo : BitVec 16),
     s.current = some t → t.follows = false → s.fetchWord t (t.pc + 4) = (u, .bytes bs) →
     let w := wordOfBytes bs
     let imm : BitVec 42 := hi ++ lo
     let target := t.greg a + imm.signExtend 64
     (decode w = .ok (.addi d a lo) →
       exec (.limm hi) s = .next (u.putTask { t.setG d (t.greg a + imm.signExtend 64) with pc := t.pc + 8, wait := .none })) ∧
     (decode w = .ok (.andi d a lo) →
       exec (.limm hi) s = .next (u.putTask { t.setG d (t.greg a &&& imm.signExtend 64) with pc := t.pc + 8, wait := .none })) ∧
     (decode w = .ok (.ori d a lo) →
       exec (.limm hi) s = .next (u.putTask { t.setG d (t.greg a ||| imm.zeroExtend 64) with pc := t.pc + 8, wait := .none })) ∧
     (decode w = .ok (.jalr d a lo) → target.extractLsb' 0 2 = 0 →
       exec (.limm hi) s = .next (u.putTask { t.setG d (t.pc + 8) with pc := target, wait := .none })) ∧
     (decode w = .ok (.jalr d a lo) → target.extractLsb' 0 2 ≠ 0 → exec (.limm hi) s = .next (trapState u t 0x02)) ∧
     ((∀ e b x, decode w ≠ .ok (.addi e b x) ∧ decode w ≠ .ok (.andi e b x) ∧ decode w ≠ .ok (.ori e b x) ∧
       decode w ≠ .ok (.jalr e b x)) → exec (.limm hi) s = .next (trapState u t 0x01)))

/-- `REP` captures its words and starts their frame, or raises ILLEGAL when one of them may not be captured
(05_tasks.md R146). How a frame goes on: the next word, the next iteration, or the word after the frame; iteration 0
runs the words unchanged, and iteration i adds i times STAG, modulo 32, to the fields that SMASK selects by the word's
format (05_tasks.md R146, R147). -/
def Obligations.RepFramesRun : Prop :=
  (∀ (s u : State) (t : Task) (smask : BitVec 4) (stag : BitVec 5) (len : BitVec 4) (count : BitVec 12) (ws : List IWord),
     s.current = some t → t.follows = false → s.fetched t (t.pc + 4) (len.toNat + 1) = some (u, ws) →
     ((∀ w ∈ ws, Captured w) → exec (.rep smask stag len count) s = .next (u.putTask { t with
       wait := .none, rep := some ⟨t.pc, ws, smask, stag, count.toNat + 1, 0, 0, true⟩ })) ∧
     ((∃ w ∈ ws, ¬ Captured w) → exec (.rep smask stag len count) s = .next (trapState u t 0x01))) ∧
  ((∀ (t : Task) (f : Frame), t.rep = some f → f.active = true →
     (f.j + 1 < f.words.length → t.past = { t with rep := some { f with j := f.j + 1 }, wait := .none }) ∧
     (f.words.length ≤ f.j + 1 → f.i + 1 < f.count →
       t.past = { t with rep := some { f with i := f.i + 1, j := 0 }, wait := .none }) ∧
     (f.words.length ≤ f.j + 1 → f.count ≤ f.i + 1 →
       t.past = { t with rep := none, pc := t.pc + 4 + 4 * BitVec.ofNat 64 f.words.length, wait := .none })) ∧
   (∀ (smask : BitVec 4) (stag : BitVec 5) (w : IWord), stagger smask stag 0 w = w) ∧
   (∀ (smask : BitVec 4) (stag : BitVec 5) (i : Nat) (w : IWord),
     let f := Fields.ofWord w
     let m := f.major.toNat
     let g := Fields.ofWord (stagger smask stag i w)
     let add := fun (x : BitVec 5) (n : Nat) => if smask.getLsbD n then x + BitVec.ofNat 5 i * stag else x
     g.major = f.major ∧ g.fn = f.fn ∧
     (m = 0x08 ∨ m = 0x0C ∨ m = 0x0D ∨ (0x18 ≤ m ∧ m ≤ 0x1F) →
       g.d = add f.d 0 ∧ g.a = add f.a 1 ∧ g.b = add f.b 2) ∧
     (m = 0x09 ∨ m = 0x0A ∨ m = 0x0B → g.d = add f.d 0 ∧ g.a = add f.a 1 ∧ g.b = f.b) ∧
     (m = 0x26 → g.d = add f.d 1 ∧ g.a = add f.a 2 ∧ g.b = add f.b 3)))

/-- `WAIT` completes when every counter is at or below its field, and stalls issue otherwise, for those limits; all
ones place no limit on a counter within R144's bounds (05_tasks.md R144, R145). `TYIELD` moves the running task to the
tail of the ready list, whose head runs; with an empty list the task goes on at once (05_tasks.md R141). The leader of
a gang moves every member that runs, each on its core, and a follower only goes past the word (05_tasks.md R130,
R150). `TEND` takes the task off its core, whose next ready task runs, and frees its slot once its `ld`, `st`, `cp`
and `mx` counters are 0; `fb` does not delay it (05_tasks.md R142). -/
def Obligations.WaitsYieldsAndEnds : Prop :=
  ((∀ (s : State) (t : Task) (ld st : BitVec 6) (cp mx : BitVec 5) (fb : BitVec 4), s.current = some t →
     let met := t.ld ≤ ld.toNat ∧ t.st ≤ st.toNat ∧ t.cp ≤ cp.toNat ∧ t.mx ≤ mx.toNat ∧ t.fb ≤ fb.toNat
     (met → ∃ (u : State) (w : Task), u.Alike s ∧ w.Alike t ∧ exec (.wait ld st cp mx fb) s = .next (u.putTask w.past)) ∧
     (¬ met → exec (.wait ld st cp mx fb) s =
       .next ((s.putTask { t with wait := .counters ld.toNat st.toNat cp.toNat mx.toNat fb.toNat }).modCore t.ci
         ({ · with stalled := true })))) ∧
   (∀ t : Task, (t.full .ld = true ↔ 62 ≤ t.ld) ∧ (t.full .st = true ↔ 62 ≤ t.st) ∧ (t.full .cp = true ↔ 30 ≤ t.cp) ∧
     (t.full .mx = true ↔ 30 ≤ t.mx) ∧ (t.full .fb = true ↔ 14 ≤ t.fb))) ∧
  (∀ (s : State) (t : Task), s.current = some t → (s.core t.ci).running = some t.uid →
     (t.follows = true → Completes .tyield s t) ∧
     (t.follows = false → (s.core t.ci).ready = [] → (∀ u ∈ t.unit, u = t.uid ∨ ∀ x, s.task? u = some x →
       (s.core x.ci).ready = []) → t.uid ∈ t.unit → Completes .tyield s t) ∧
     (∀ (g : Gang) (f h k : Nat) (x : Task) (rest more : List Nat), t.gang = some g → g.stream = [] →
       g.members = [t.uid, f] → f ≠ t.uid → s.task? f = some x → x.ci ≠ t.ci →
       (s.core t.ci).ready = h :: rest → h ≠ t.uid → h ≠ f → (s.core x.ci).running = some f →
       (s.core x.ci).ready = k :: more → k ≠ f → k ≠ t.uid → ∃ u, exec .tyield s = .next u ∧
         (u.core t.ci).running = some h ∧ (u.core t.ci).ready = rest ++ [t.uid] ∧
         (u.core x.ci).running = some k ∧ (u.core x.ci).ready = more ++ [f]) ∧
     (∀ (h : Nat) (rest : List Nat), t.gang = none → (s.core t.ci).ready = h :: rest → h ≠ t.uid → ∃ u,
       exec .tyield s = .next u ∧
       (u.core t.ci).running = some h ∧ (u.core t.ci).ready = rest ++ [t.uid] ∧
       u.task? t.uid = some { t.past with status := .ready } ∧
       (∀ x, s.task? h = some x → u.task? h = some { x with status := .running }) ∧
       u.mem = s.mem ∧ u.requests = s.requests)) ∧
  (∀ (s : State) (t : Task), s.current = some t → (s.core t.ci).running = some t.uid → ∃ u, exec .tend s = .next u ∧
     (t.ld = 0 ∧ t.st = 0 ∧ t.cp = 0 ∧ t.mx = 0 → u.task? t.uid = none) ∧
     (¬ (t.ld = 0 ∧ t.st = 0 ∧ t.cp = 0 ∧ t.mx = 0) →
       u.task? t.uid = some { t with status := .ending, gang := none, wait := .none }) ∧
     (u.core t.ci).running = ((s.core t.ci).ready.filter (· != t.uid)).head? ∧
     u.mem = s.mem ∧ u.requests = s.requests)

/-- `GANG` parks its issuer as DEP until its gang forms; with the other member waiting, `GANG 2` forms the gang, led
by the task on the lower core, and both go on at the word after the leader's `GANG`; a member's `GANG`, or a size that
differs from a waiting one's, raises ILLEGAL. `UNGANG` dissolves the gang, and does nothing outside one (05_tasks.md
R149, R151). -/
def Obligations.GangsFormAndDissolve : Prop :=
  ∀ (s : State) (t : Task), s.current = some t → t.rep = none →
    (∀ n : GangSize, t.inGang = true → Traps (.gang n) s t 0x01) ∧
    (∀ n : GangSize, t.inGang = false → (∀ c ∈ gangCores (gangSize n) t.ci, s.gangWaits t c = []) →
      exec (.gang n) s = .next ({ s with clock := s.clock + 1 }.park t .dep (.gang (gangSize n) s.clock))) ∧
    (∀ (n : GangSize) (c : Nat) (w : Task × Nat × Nat), c ∈ gangCores (gangSize n) t.ci → w ∈ s.gangWaits t c →
      w.2.1 ≠ gangSize n → Traps (.gang n) s t 0x01) ∧
    (∀ (x : Task) (o : Nat), t.inGang = false → s.gangWaits t t.ci = [] →
      s.gangWaits t (t.ci / 2 * 2 + (1 - t.ci % 2)) = [(x, 2, o)] → t.status = .running → x.rep = none → x.gang = none →
      x.spilled = false → s.halted x.ci = false → s.unitFaults x = false → x.status = .parked .dep → x.uid ≠ t.uid →
      s.task? x.uid = some x →
      let low := if t.ci % 2 = 0 then t else x
      let high := if t.ci % 2 = 0 then x else t
      ∃ u, exec (.gang .two) s = .next u ∧
        u.task? t.uid = some { t with pc := low.pc + 4, wait := .none, gang := some ⟨low.uid, [low.uid, high.uid], []⟩ } ∧
        u.task? x.uid = some { x with pc := low.pc + 4, wait := .none, status := .ready,
                                      gang := some ⟨low.uid, [low.uid, high.uid], []⟩ }) ∧
    (t.gang = none → Completes .ungang s t) ∧
    (∀ (g : Gang) (x : Task), t.gang = some g → g.members = [t.uid, x.uid] → g.stream = [] → x.uid ≠ t.uid →
      x.gang = some g → s.task? x.uid = some x → ∃ u, exec .ungang s = .next u ∧
        u.task? t.uid = some { t with pc := t.pc + 4, wait := .none, gang := none } ∧
        u.task? x.uid = some { x with pc := t.pc + 4, gang := none })

/-- `TSPAWN` completes wherever its record and table can be read, are sound, SEQ can be written and the queue has
room: it writes SEQ into the record as a store of the task, homed here or in another package, and enqueues the record,
with the ranges of its table, on the die asked for, in the spawner's phase and domain; a shadow's only counts. With a
full queue the task parks for room, and with no queue area raises vector 4. A misaligned record raises ALIGN and a
malformed record or a bad target ILLEGAL (05_tasks.md R139, R120, R152; 14_containment.md R370). `TDONE` completes
wherever DEPCNT may be written: a decrement goes to the record's home, counted in `st`, or as a message in `fb` when
another package is the home; a shadow's does nothing. The home leaves 0 as it is, and the record's queue entries are
free again when DEPCNT comes to 0 (05_tasks.md R140, R143; 14_containment.md R370). -/
def Obligations.SpawnsAndJoins : Prop :=
  ((∀ (s : State) (t : Task) (a b : GReg), s.current = some t → (t.greg a).toNat % 64 ≠ 0 →
     Traps (.tspawn a b) s t 0x02) ∧
   (∀ (s u : State) (t : Task) (a b : GReg) (bs : List Byte), s.current = some t → (t.greg a).toNat % 64 = 0 →
     t.isShadow = false → s.released t = true → s.taskRead t .record (t.greg a) 8 = (u, .bytes bs) →
     u.watermarked t.ci (t.greg a) 64 = false →
     let bad := fun tb => parseTask bs true = none ∨ spawnDie t.die (t.greg b) = none ∨ parseRanges tb = none
     let table := BitVec.ofNat 64 (leNat bs / 2 ^ 64 % 2 ^ 64)
     ((table = 0 ∨ table.toNat % 64 ≠ 0) → bad [] → exec (.tspawn a b) s = .next (trapState u t 0x01)) ∧
     (∀ (v : State) (tb : List Byte), table ≠ 0 → table.toNat % 64 = 0 → u.taskRead t .record table 8 = (v, .bytes tb) →
       v.watermarked t.ci table 64 = false → bad tb → exec (.tspawn a b) s = .next (trapState v t 0x01))) ∧
   (∀ (s u v : State) (t : Task) (a b : GReg) (bs tb : List Byte) (r : TaskRecord) (d : Nat) (l : Loc) (rs : List Range),
     s.current = some t → (t.greg a).toNat % 64 = 0 → t.isShadow = false → s.released t = true →
     s.taskRead t .record (t.greg a) 8 = (u, .bytes bs) → u.watermarked t.ci (t.greg a) 64 = false →
     parseTask bs true = some r → spawnDie t.die (t.greg b) = some d →
     (r.table = 0 ∧ v = u ∧ rs = [] ∨ r.table ≠ 0 ∧ u.taskRead t .record r.table 8 = (v, .bytes tb) ∧
       v.watermarked t.ci r.table 64 = false ∧ parseRanges tb = some rs) →
     (v.checked t .other .store (t.greg a + 56) 8 8).2 = .ok l →
     let w := (v.checked t .other .store (t.greg a + 56) 8 8).1
     let held := w.writeHeld t.ci (w.clock + 1) l 8
     let seq := leBytes 8 t.childSeq.toNat
     let summed := t.addSum (t.greg a + 56) seq
     let e : QEntry := {
       age := w.clock, record := t.greg a, ctxid := t.ctxid, launch := t.launchid, prio := r.prio, pc := r.pc
       ranges := rs, args := r.args, aff := r.aff, seq := t.childSeq, phase := t.phase, bar := t.bar
       domain := t.domain, ag := t.ag }
     let here : State := { w with
       clock := w.clock + 1
       requests := w.requests ++ [t.request w l.pa (.store seq) .none none] }
     let afar : State := { w.send l.pkg (w.who t) (.store ⟨w.who t, [(l.pa, seq)]⟩) .fb with clock := w.clock + 1 }
     let enters := fun (x : State) (y : Task) =>
       (w.queueRoom d t.part = true → exec (.tspawn a b) s =
         .next ((x.putTask y).setDie d { w.die d with queue := (w.die d).queue ++ [e] })) ∧
       (w.queueRoom d t.part = false → exec (.tspawn a b) s = .next (State.park (if areaAbsent (w.part t.part).qarea = true
         then x.noteArea t.part 0x40 (stalledTask t.uid) else x) y .dep (.queue d e)))
     (held = true → exec (.tspawn a b) s = .next (w.stall t .none)) ∧
     (held = false → l.pkg = w.svc.packageId → enters here { summed.past with ordinal := t.ordinal + 1 }) ∧
     (held = false → l.pkg ≠ w.svc.packageId → w.fabQueued t = false → t.fb < 14 →
       enters afar { summed.past with ordinal := t.ordinal + 1, fb := t.fb + 1 })) ∧
   (∀ (s : State) (t : Task) (a b : GReg), s.current = some t → (t.greg a).toNat % 64 = 0 → t.isShadow = true →
     exec (.tspawn a b) s = .next (s.putTask
       { (t.addSum (t.greg a + 56) (leBytes 8 t.childSeq.toNat)).past with ordinal := t.ordinal + 1 })) ∧
   (∀ (own : Nat) (v : Word), spawnDie own 0 = some own ∧ (v ≠ 0 → (v.toNat < 8 ∨ 16 ≤ v.toNat) → spawnDie own v = none) ∧
     (8 ≤ v.toNat → v.toNat < 16 → spawnDie own v = some (v.toNat - 8)))) ∧
  ((∀ (s : State) (t : Task) (a : GReg), s.current = some t → (t.greg a).toNat % 64 ≠ 0 → Traps (.tdone a) s t 0x02) ∧
   (∀ (s : State) (t : Task) (a : GReg), s.current = some t → (t.greg a).toNat % 64 = 0 → t.isShadow = true →
     Completes (.tdone a) s (t.addSum (t.greg a + 48) (leBytes 4 1))) ∧
   (∀ (s : State) (t : Task) (a : GReg) (l : Loc), s.current = some t → (t.greg a).toNat % 64 = 0 →
     t.isShadow = false → s.mayRelease t (some .pkg) → (s.checked t .red .mark (t.greg a + 48) 4 4).2 = .ok l →
     let u := (s.checked t .red .mark (t.greg a + 48) 4 4).1
     let free := u.writeHeld t.ci (u.clock + 1) l 4 = false ∧ u.writeHits l 4 = false
     let summed := t.addSum (t.greg a + 48) (leBytes 4 1)
     (l.pkg = u.svc.packageId → free → t.st < 62 → exec (.tdone a) s = .next (State.putTask { u with
       requests := u.requests ++ [t.request u l.pa .dec .st (some .pkg)] }
       { (summed.issued (some .pkg)).past with st := t.st + 1 })) ∧
     (l.pkg = u.svc.packageId → free → 62 ≤ t.st → exec (.tdone a) s = .next (u.stall t .none)) ∧
     (l.pkg ≠ u.svc.packageId → u.fabQueued t = false → t.fb < 14 → exec (.tdone a) s = .next
       ((u.send l.pkg (u.who t) (.red ⟨u.who t, l.pa, .dec⟩) .fb).putTask { summed.past with fb := t.fb + 1 }))) ∧
   (∀ (s : State) (r : Request), r.op = .dec → r.tag = none → s.unsound r.pa 4 = false →
     (s.word r.pa 4 = 0 → s.applyRequest r = s) ∧
     (1 < s.word r.pa 4 → (s.applyRequest r).mem = (s.pokeNat r.pa 4 (s.word r.pa 4 - 1)).mem ∧
       (s.applyRequest r).dies = s.dies) ∧
     (s.word r.pa 4 = 1 → (s.applyRequest r).mem = (s.pokeNat r.pa 4 0).mem ∧ ∀ d, ((s.applyRequest r).die d).queue = (s.die d).queue.map fun e =>
       if e.state = .blocked s.svc.packageId (r.pa - r.pa % 64) then { e with state := .queued } else e)))

/-- `TRAP` raises TRAPI at its own address whatever its number: with a handler and outside one EPC, CAUSE, the handler
flag and the pc are written and no register, predicate, flag or counter changes; without a handler or within it the
task ends and its launch fails as a software error with the cause (15_faults.md R379, R380, R382). `ERET` clears the
handler flag and goes on at EPC, where a frame of that address runs on; outside a handler it raises ILLEGAL, and at a
target that is not a multiple of 4 ALIGN (15_faults.md R383; 05_tasks.md R148). -/
def Obligations.TrapsAndReturns : Prop :=
  (∀ (s : State) (t : Task) (n : BitVec 12), s.current = some t →
     (t.hnd = false → t.trapv ≠ 0 → t.gang = none → exec (.trap n) s = .next (s.putTask { t with
       epc := t.pc, cause := 0x0B, hnd := true, pc := t.trapv, rep := t.rep.map ({ · with active := false }) })) ∧
     ((t.hnd = true ∨ t.trapv = 0) → ∃ u, exec (.trap n) s = .next u ∧ u.task? t.uid = none) ∧
     (∀ l : Launch, (t.hnd = true ∨ t.trapv = 0) → s.launch? t.part t.launchid = some l → ∃ u, exec (.trap n) s = .next u ∧
       ∃ p ∈ u.posts, p.tag = l.tag ∧ p.launch = l.id ∧ p.status = 2 ∧ p.cause = 0x0B ∧ p.eslot = t.sid)) ∧
  (∀ (s : State) (t : Task), s.current = some t →
     (t.hnd = false → Traps .eret s t 0x01) ∧
     (t.hnd = true → t.epc.extractLsb' 0 2 ≠ 0 → Traps .eret s t 0x02) ∧
     (t.hnd = true → t.epc.extractLsb' 0 2 = 0 → exec .eret s = .next (s.putTask
       { t with hnd := false, pc := t.epc, rep := t.rep.map fun f => { f with active := f.addr == t.epc } })))

/-- Every system register reads and writes as R65 lays it out; a number that it does not list, and a write of a
read-only register, raise ILLEGAL; FSR is read and written once the task's queued vector and matrix instructions have
completed; a misaligned TRAPV raises ALIGN; a write of EPC clears the frame (03_encoding.md R65, R66; 02_numbers.md
R49; 15_faults.md R380, R384). The service instructions run with the permission that they need and raise ILLEGAL
without it; `TLBINV` drops the translations of its partition that it names, and the capability entries where it names
all, and completes once its partition's accesses are performed; `DIAGW` flips the bits it names in the tile, the
scratchpad doubleword or the line; `DIAGR` returns the state it names; `MIRQ` asks the core it names to stop or to
resume (15_faults.md R390 to R394). -/
def Obligations.SystemRegistersAndServices : Prop :=
  (∀ (s : State) (t : Task) (d a : GReg) (n : BitVec 12), s.current = some t →
     let v := t.greg a
     let idle := (s.core t.ci).vq.all (·.uid != t.uid) && (s.core t.ci).mq.all (·.uid != t.uid) && !s.unitWriting t.uid
     Completes (.sysr d 0x000) s (t.setG d t.trapv) ∧ Completes (.sysr d 0x001) s (t.setG d t.epc) ∧
     Completes (.sysr d 0x002) s (t.setG d (t.cause.zeroExtend 64)) ∧
     (idle = true → Completes (.sysr d 0x003) s (t.setG d (t.fsr.zeroExtend 64))) ∧
     (idle = false → exec (.sysr d 0x003) s = .next (s.stall t .none) ∧ exec (.sysw 0x003 a) s = .next (s.stall t .none)) ∧
     Completes (.sysr d 0x004) s (t.setG d (BitVec.ofNat 64 t.sid)) ∧ Completes (.sysr d 0x005) s (t.setG d t.taskrec) ∧
     Completes (.sysr d 0x010) s (t.setG d (s.vshare t.ci)) ∧ Completes (.sysr d 0x011) s (t.setG d t.hintdrop) ∧
     Completes (.sysr d 0x012) s (t.setG d (s.die t.die).fbstat) ∧
     Completes (.sysr d 0x013) s (t.setG d (BitVec.ofNat 64 t.ctxid)) ∧
     Completes (.sysr d 0x014) s (t.setG d t.launchkey) ∧
     Completes (.sysr d 0x015) s (t.setG d ((if t.det then 1 else 0) + if t.nomix then 2 else 0)) ∧
     Completes (.sysr d 0x016) s (t.setG d (t.launchid.zeroExtend 64)) ∧
     (∃ (u : State) (w : Word), exec (.sysr d 0x020) s = .next (u.putTask (t.setG d w).past) ∧ u.mem = s.mem ∧ u.tasks = s.tasks) ∧
     (n ∉ [0x000#12, 0x001, 0x002, 0x003, 0x004, 0x005, 0x010, 0x011, 0x012, 0x013, 0x014, 0x015, 0x016, 0x020] →
       Traps (.sysr d n) s t 0x01) ∧
     (v.extractLsb' 0 2 = 0 → Completes (.sysw 0x000 a) s { t with trapv := v }) ∧
     (v.extractLsb' 0 2 ≠ 0 → Traps (.sysw 0x000 a) s t 0x02) ∧
     Completes (.sysw 0x001 a) s { t with epc := v, rep := none } ∧
     Completes (.sysw 0x002 a) s { t with cause := v.extractLsb' 0 8 } ∧
     (idle = true → Completes (.sysw 0x003 a) s { t with fsr := v.extractLsb' 0 6 }) ∧
     Completes (.sysw 0x011 a) s { t with hintdrop := v } ∧
     (n ∉ [0x000#12, 0x001, 0x002, 0x003, 0x011] → Traps (.sysw n a) s t 0x01)) ∧
  (∀ (s : State) (t : Task) (d a b : GReg), s.current = some t →
     let perm := (s.ctx t.ctxid).perm
     let v := t.greg a
     let w := t.greg b
     (perm.getLsbD 0 = false → Traps (.tlbinv a) s t 0x01) ∧ (perm.getLsbD 1 = false → Traps (.mirq a) s t 0x01) ∧
     (perm.getLsbD 2 = false → Traps (.diagw a b) s t 0x01 ∧ Traps (.diagr d a) s t 0x01) ∧
     (perm.getLsbD 0 = true → v.toNat % 2 ^ 16 = 1 → s.spans t.part = false → s.drained t.part = true →
       (∃ u, exec (.tlbinv a) s = .next u ∧ u.tasks = (s.putTask t.past).tasks ∧ u.mem = s.mem ∧
         ∀ q, (∀ e ∈ (u.quad q).caps, e.1 / 4 ≠ t.part) ∧ ∀ c ∈ (u.quad q).tlb, c.ctxid / 4 ≠ t.part)) ∧
     (perm.getLsbD 0 = true → v.toNat % 2 ^ 16 = 0 → canonical v = true → s.spans t.part = false →
       s.drained t.part = true → (∃ u, exec (.tlbinv a) s = .next u ∧ u.tasks = (s.putTask t.past).tasks ∧ u.mem = s.mem ∧
         ∀ q, (u.quad q).caps = (s.quad q).caps ∧ ∀ c, c ∈ (u.quad q).tlb ↔ c ∈ (s.quad q).tlb ∧
           ¬ (c.ctxid / 4 = t.part ∧ v.toNat / 2 ^ 16 % 2 ^ 39 / 2 ^ (c.shift - 16) = c.page))) ∧
     (perm.getLsbD 0 = true → 2 ≤ v.toNat % 2 ^ 16 → Traps (.tlbinv a) s t 0x01) ∧
     (perm.getLsbD 2 = true → (s.core t.ci).mq = [] → ∀ (x : TReg) (r c k : Nat) (anew : Bool), r < 64 → c < 64 →
       k < 32 → w = 0 →
       v = BitVec.ofNat 64 ((if anew then 2 else 1) * 2 ^ 56 + x.toNat + r * 2 ^ 8 + c * 2 ^ 16 + k * 2 ^ 24) →
       (∀ o, ((s.core t.ci).mctx.tile x).owners.find? (·.1 == r) = some (r, o) → o.ctxid / 4 = t.part) →
       exec (.diagw a b) s = .next ((s.modCore t.ci fun y =>
         let z := y.mctx.tile x
         let bits := Sparse.write 0 z.rows r (z.row r ^^^ (1#2048 <<< (32 * c + k)))
         let bad := if anew = true ∨ r ∈ z.bad then z.bad.filter (· ≠ r) else z.bad ++ [r]
         { y with mctx := y.mctx.setTile x { z with rows := bits, bad := bad } }).putTask t.past)) ∧
     (perm.getLsbD 2 = true → ∀ (n ci o : Nat), n < 64 → v = BitVec.ofNat 64 (3 * 2 ^ 56 + n) → w.toNat % 8 = 0 →
       scratchOf t.ci w = some (ci, o) → s.segmentPart ci o = t.part →
       let k := scratchKey ci o / 8
       let flipped := Sparse.write 0 s.flips k (Sparse.read 0 s.flips k ^^^ (1#64 <<< n))
       exec (.diagw a b) s = .next ({ s with flips := flipped }.putTask t.past)) ∧
     (perm.getLsbD 2 = true → v = BitVec.ofNat 64 (0x10 * 2 ^ 56) →
       Completes (.diagr d a) s (t.setG d (s.die t.die).corrected)) ∧
     (perm.getLsbD 2 = true → v = BitVec.ofNat 64 (0x11 * 2 ^ 56) → ∃ m : Word, Completes (.diagr d a) s (t.setG d m) ∧
       ∀ q : Nat, q < 64 → m.getLsbD q = (s.quad (64 * t.die + q)).quarantined) ∧
     (perm.getLsbD 2 = true → v = BitVec.ofNat 64 (0x13 * 2 ^ 56) → Completes (.diagr d a) s (t.setG d s.svc.misuse)) ∧
     (perm.getLsbD 1 = true → ∀ ci : Nat, ci < 2048 →
       (v = BitVec.ofNat 64 (16 * ci) → exec (.mirq a) s = .next ((s.putTask t.past).requestPreempt ci (some t.part))) ∧
       (v = BitVec.ofNat 64 (2 ^ 16 + 16 * ci) → exec (.mirq a) s = .next ((s.putTask t.past).resume ci))))

/-- A scalar load reads the bytes at its place, little-endian, and zero-extends them into `g`d; from another package
the task parks as REMOTE, and its reply is written zero-extended. The bytes are those that the place held at one point
of the history of writes that the rules of order leave open, and those that it holds now when no later write touches
them (09_memory.md R253, R255; 11_order.md R287, R290). A load from the task's own scratchpad, with nothing on its way
there, reads exactly the bytes at its offset and changes no byte of memory and no register but `g`d (07_scratchpad.md
R185, R186; 09_memory.md R255). A write of another task that the load need not yet see is left out (11_order.md R287).
-/
def Obligations.ScalarLoads : Prop :=
  ((∀ (i : Instr) (s u v : State) (t w : Task) (d : GReg) (va : Word) (n : Nat) (l : Loc) (bs : List Byte),
     s.current = some t → loadForm t i = some (d, va, n) → s.checked t .load .none va n n = (u, .ok l) →
     u.watermarked t.ci va n = false → l.device = false → l.pkg = u.svc.packageId → u.found l n = .sound →
     ((u.correct l.pa n).copiesSeen t va l n).loadBytes t (loadScope i) l.pa n = (v, w, bs) →
     exec i s = .next (v.putTask (w.setG d (BitVec.ofNat 64 (leNat bs))).past)) ∧
   (∀ (s : State) (t : Task) (acq : Option Scope) (a n : Nat), s.queued = [] → ownRequests s t a n = [] → t.overlay = [] →
     s.floorOf t a n ≤ s.past.length →
     (∃ i, s.floorOf t a n ≤ i ∧ i ≤ s.past.length ∧
       (s.loadBytes t acq a n).2.2 = (List.range n).map fun k => s.byteBefore (s.past.drop i) (a + k)) ∧
     ((∀ p ∈ s.past.drop (s.floorOf t a n), ¬ p.Touches a n) → (s.loadBytes t none a n).1.Alike s ∧
       (s.loadBytes t acq a n).2.2 = s.bytes a n) ∧
     (s.loadBytes t acq a n).2.1.Alike t) ∧
   (∀ (i : Instr) (s u : State) (t : Task) (d : GReg) (va : Word) (n : Nat) (l : Loc),
     s.current = some t → loadForm t i = some (d, va, n) → s.checked t .load .none va n n = (u, .ok l) →
     u.watermarked t.ci va n = false → l.device = false → l.pkg ≠ u.svc.packageId →
     (u.fabQueued t = true → exec i s = .next (u.stall t .none)) ∧
     (u.fabQueued t = false → exec i s = .next
       ((u.park t.advance .remote (.load d (u.overlayKey l) n (loadScope i))).send l.pkg (u.who t)
         (.loadReq ⟨u.who t, l.pa, n, .scalar t.uid⟩))))) ∧
  (∀ (i : Instr) (s : State) (t : Task) (d : GReg) (va : Word) (n o : Nat),
     s.current = some t → loadForm t i = some (d, va, n) → va.toNat = 0xFFFFFFFFFFFC0000 + o → o < 0x40000 → o % n = 0 →
     s.segmentPart t.ci o = t.ctxid / 4 → s.watermarked t.ci va n = false → s.queued = [] →
     ownRequests s t (scratchKey t.ci o) n = [] → t.overlay = [] → s.flips = [] → s.poison = [] →
     (∀ p ∈ s.past.drop (s.floorOf t (scratchKey t.ci o) n), ¬ p.Touches (scratchKey t.ci o) n) →
     (loadScope i = none ∨ s.requests = []) → ∃ (u : State) (w : Task), u.Alike s ∧
       w.Alike (t.setG d (BitVec.ofNat 64 (s.word (scratchKey t.ci o) n))).past ∧ exec i s = .next (u.putTask w))

/-- A scalar store puts the low bytes of its source into the store buffer for its place, with the owner tag of the
task's domain, and completes; a release does so once the task's earlier stores are gone; a store to another package is
sent and counted in `fb` (09_memory.md R253, R256; 05_tasks.md R143; 11_order.md R288). A relaxed store does not wait
for the task's earlier stores (09_memory.md R256). -/
def Obligations.ScalarStores : Prop :=
  (∀ (i : Instr) (s u : State) (t : Task) (x : GReg) (va : Word) (n : Nat) (l : Loc),
     s.current = some t → storeForm t i = some (x, va, n) → s.mayRelease t (releaseOf i) → t.dual = .single →
     s.checked t .store .store va n n = (u, .ok l) → u.watermarked t.ci va n = false → l.device = false →
     u.writeHeld t.ci (u.clock + 1) l n = false →
     let bytes := leBytes n (t.greg x).toNat
     (u.writeHits l n = true → exec i s = .next (u.hwerrTask t)) ∧
     (u.writeHits l n = false → l.pkg = u.svc.packageId → exec i s = .next ({ u with
       requests := u.requests ++ [t.request u l.pa (.store bytes) .none (releaseOf i)] }.putTask
         (t.issued (releaseOf i)).past)) ∧
     (l.pkg ≠ u.svc.packageId → u.fabQueued t = false → t.fb < 14 → exec i s = .next
       ((u.send l.pkg (u.who t) (.store ⟨u.who t, [(l.pa, bytes)]⟩) .fb).putTask { t.past with fb := t.fb + 1 }))) ∧
  (∀ (s u : State) (t : Task) (x a : GReg) (off : BitVec 12) (z : Size) (l : Loc),
     s.current = some t → t.dual = .single →
     let n := sizeBytes z
     let va := t.greg a + off.signExtend 64 * BitVec.ofNat 64 n
     s.checked t .store .store va n n = (u, .ok l) → u.watermarked t.ci va n = false → l.device = false →
     u.writeHeld t.ci (u.clock + 1) l n = false → l.pkg = u.svc.packageId → u.writeHits l n = false →
     exec (.st x a off z) s = .next ({ u with requests := u.requests ++
       [t.request u l.pa (.store (leBytes n (t.greg x).toNat)) .none none] }.putTask t.past))

/-- What a scalar load and a scalar store leave in memory: both change at most the accessed bits of the leaf that maps
their page, where no older translation of it is cached, and counts of the hotness table; every other byte of memory
reads as before. The store is made when its home takes it. The home then writes exactly the bytes stored (09_memory.md
R243, R255, R256). A task's own buffered store is seen by its next load from the same scratchpad bytes (11_order.md
R286). -/
def Obligations.MemoryAccessFrame : Prop :=
  ((∀ (i : Instr) (s u : State) (t : Task) (x : GReg) (va : Word) (n leaf : Nat) (l : Loc),
     s.current = some t → (loadForm t i = some (x, va, n) ∨ storeForm t i = some (x, va, n)) → s.queued = [] →
     s.flips = [] → s.poison = [] → t.dual = .single → s.cached (quadOf t.ci) t.ctxid va false = [] →
     (s.lookup t.ctxid .load va = .ok (leaf, l) ∨ s.lookup t.ctxid .store va = .ok (leaf, l)) → l.device = false →
     (loadScope i = none ∨ s.requests = []) →
     exec i s = .next u → (∃ w, u.task? t.uid = some w ∧ w.status = t.status ∧ w.hnd = t.hnd) →
     ∀ a, a < leaf ∨ leaf + 8 ≤ a → s.svc.hotbase = 0 ∨ s.inHotTable a = false → u.byte a = s.byte a) ∧
   (∀ (s : State) (r : Request) (bs : List Byte) (a : Nat), r.op = .store bs →
     (s.applyRequest r).byte a = if r.pa ≤ a ∧ a < r.pa + bs.length then bs.getD (a - r.pa) 0 else s.byte a)) ∧
  (∀ (s u v : State) (t t' : Task) (x a d : GReg) (off : BitVec 12) (z : Size) (o : Nat),
     s.current = some t → t.dual = .single → t.overlay = [] →
     let n := sizeBytes z
     (t.greg a + off.signExtend 64 * BitVec.ofNat 64 n).toNat = 0xFFFFFFFFFFFC0000 + o → o < 0x40000 → o % n = 0 →
     s.segmentPart t.ci o = t.ctxid / 4 → s.flips = [] → s.poison = [] → (s.core t.ci).mq = [] →
     (∀ c ∈ (s.core t.ci).chans.toList, c.bound = none) →
     exec (.st x a off z) s = .next u → u.current = some t' → exec (.ld d a off z) u = .next v → d ≠ 0 →
     ∃ w, v.task? t.uid = some w ∧ (w.greg d).toNat = (t.greg x).toNat % 2 ^ (8 * n))

/-- The checks of R236 in their order, on a scalar load and a scalar store: a misaligned address raises ALIGN; an
aligned one that is not canonical, in the reserved window or in no range ends the task with RANGE; a translation that
fails parks the task, where no older translation is cached, as FAULT at the instruction, with its registers as they
were (09_memory.md R235, R236, R247, R250). Which leaf a translation refuses, and why: the walk's levels and the
checks of a leaf (09_memory.md R237 to R242). -/
def Obligations.AccessAndLeafChecks : Prop :=
  (∀ (i : Instr) (s : State) (t : Task) (x : GReg) (va : Word) (n : Nat),
     s.current = some t → (loadForm t i = some (x, va, n) ∨ storeForm t i = some (x, va, n)) →
     s.mayRelease t (releaseOf i) →
     (va.toNat % n ≠ 0 → Traps i s t 0x02) ∧
     (va.toNat % n = 0 → (canonical va = false ∨ reservedWindow va = true) → exec i s = .next
       ((s.failLaunch t.part t.launchid 2 0x05 t.sid).discardTasks fun u => u.uid == t.uid)) ∧
     (va.toNat % n = 0 → canonical va = true → scratchOf t.ci va = none → reservedWindow va = false →
       s.inRanges t.ranges t.ctxid va n = false → exec i s = .next
         ((s.failLaunch t.part t.launchid 2 0x05 t.sid).discardTasks fun u => u.uid == t.uid)) ∧
     (∀ f : PageFault, s.cached (quadOf t.ci) t.ctxid va false = [] → va.toNat % n = 0 → canonical va = true → scratchOf t.ci va = none → reservedWindow va = false →
       s.inRanges t.ranges t.ctxid va n = true →
       (loadForm t i = some (x, va, n) → s.lookup t.ctxid .load va = .error f) →
       (storeForm t i = some (x, va, n) → s.lookup t.ctxid .store va = .error f) →
       ∃ u w, exec i s = .next u ∧ u.task? t.uid = some w ∧ w.status = .parked .fault ∧ w.wait = .service ∧
         w.pc = t.pc ∧ w.g = t.g ∧ w.p = t.p ∧ w.fsr = t.fsr ∧ u.mem = s.mem ∧ u.requests = s.requests)) ∧
  (∀ (s : State) (e pa : Nat) (acc : Acc),
     (e.testBit 3 = true → leafFault s e pa acc = some 1) ∧
     (e.testBit 3 = false → 2 ^ 41 ≤ pa → leafFault s e pa acc = some 2) ∧
     (e.testBit 3 = false → pa < 0x0C000000000 → leafMT e ≠ 3 → acc.writes = true → e.testBit 1 = false →
       leafFault s e pa acc = some 6) ∧
     (e.testBit 3 = false → pa < 0x0C000000000 → leafMT e ≠ 3 → e.testBit 2 = false → leafFault s e pa .fetch = some 7) ∧
     (e.testBit 3 = false → pa < 0x0C000000000 → leafMT e = 3 → leafFault s e pa acc = some 3) ∧
     (e.testBit 3 = false → pa < 0x0C000000000 → leafMT e ≠ 3 → e.testBit 1 = true → e.testBit 2 = true →
       leafFault s e pa acc = none))

/-- A prefetch or hint completes and counts in HINTDROP when it is dropped; one that is not sets A and changes no
register; `HINT.near` adds 256, saturating, to the counter of its frame for this package, or is sent to the package
that holds the frame (09_memory.md R258, R259, R260). -/
def Obligations.HintsComplete : Prop :=
  ∀ (i : Instr) (s : State) (t : Task) (a : GReg) (off : BitVec 12) (form : Nat), s.current = some t →
    hintForm i = some (a, off, form) →
    let va := t.greg a + off.signExtend 64
    (s.hinted t va = none → Completes i s { t with hintdrop := t.hintdrop + 1 }) ∧
    (∀ (leaf : Nat) (l : Loc), s.hinted t va = some (leaf, l) →
      let x := (s.setAccessed leaf false).remember (quadOf t.ci) t.ctxid va
      (l.pkg = s.svc.packageId → form ≠ 2 → exec i s = .next (x.putTask t.past)) ∧
      (l.pkg ≠ s.svc.packageId → form = 0 → Completes i s { t with hintdrop := t.hintdrop + 1 }) ∧
      (l.pkg ≠ s.svc.packageId → form = 1 → exec i s = .next (x.putTask t.past)) ∧
      (form = 2 → l.pkg = s.svc.packageId → exec i s = .next ((x.nearHint none l.pa).putTask t.past)) ∧
      (form = 2 → l.pkg ≠ s.svc.packageId →
        exec i s = .next ((x.send l.pkg (x.who t) (.near (x.who t) l.pa)).putTask t.past))) ∧
    (∀ x : State, x.svc.hotbase ≠ 0 → x.queued = [] → ∀ pa, pa < 0x0C000000000 →
      let k := x.svc.hotbase.toNat + 16 * (pa / 0x10000) + 4
      (x.nearHint none pa).word k 4 = min (x.word k 4 + 256) (2 ^ 32 - 1) ∧
      (∀ y, y < k ∨ k + 4 ≤ y → (x.nearHint none pa).byte y = x.byte y)) ∧
    (canonical va = false → s.hinted t va = none) ∧ ((scratchOf t.ci va).isSome = true → s.hinted t va = none) ∧
    (s.inRanges t.ranges t.ctxid va 1 = false → s.hinted t va = none)

/-- A returning atomic in this package reads the old value, stores the new one of its operation (a `CAS` only where
the comparand equals it) with the owner tag of its task, writes the old value to `g`d and raises the flags of a
floating form; no other byte changes; a later access of the task to the bytes finds its own stores in them
(10_atomics.md R273, R274, R275, R278). Atomics and reductions at a misaligned address raise ALIGN, whatever the
address; a far returning atomic parks its task as REMOTE and its operation goes to the home of the leaf; a far one
whose leaf has RAP = 0 takes RAPV (10_atomics.md R271, R272, R275, R277). -/
def Obligations.AtomicsComplete : Prop :=
  (∀ (i : Instr) (s u : State) (t : Task) (d a b : GReg) (op : AmoOp) (z : AmoSize) (o : Order) (l : Loc),
     s.current = some t → atomicForm i = some (d, a, b, op, z, o) → s.mayRelease t (releaseOf i) → t.dual = .single →
     let n := amoBytes z
     s.checked t .atomic .frozen (t.greg a) n n = (u, .ok l) → l.pkg = u.svc.packageId → u.queued = [] → u.flips = [] →
     u.poison = [] → u.writeHeld t.ci (u.clock + 1) l n = false →
     (∀ r ∈ u.requests, r.who.task = t.uid → lineOf r.pa ≠ lineOf l.pa) →
     let m := u.word l.pa n
     let v := (t.greg b).toNat % 2 ^ (8 * n)
     let c := (t.greg d).toNat % 2 ^ (8 * n)
     ∃ (x : State) (w : Task), exec i s = .next (x.putTask w) ∧ w.Alike { ({ t.setG d (widened op z m) with
         fsr := t.fsr ||| combinedFlags op m v } : Task).past with atomics := t.atomics + 1 } ∧
       (atomicScope true i = none ∨ u.requests = [] → x.tasks = u.tasks ∧ (op = .cas → m ≠ c → x.Alike u) ∧
         (op ≠ .cas ∨ m = c → x.word l.pa n = combined op (8 * n) m v ∧ x.tag l.pa = t.tag ∧
           ∀ y, y < l.pa ∨ l.pa + n ≤ y → x.byte y = u.byte y))) ∧
  ((∀ (i : Instr) (s : State) (t : Task) (d a b : GReg) (op : AmoOp) (z : AmoSize) (o : Order),
     s.current = some t → atomicForm i = some (d, a, b, op, z, o) → s.mayRelease t (releaseOf i) →
     (t.greg a).toNat % amoBytes z ≠ 0 → Traps i s t 0x02) ∧
   (∀ (i : Instr) (s : State) (t : Task) (a b : GReg) (op : AmoOp) (z : AmoSize) (rel : Bool),
     s.current = some t → reductionForm i = some (a, b, op, z, rel) → (t.greg a).toNat % amoBytes z ≠ 0 →
     Traps i s t 0x02) ∧
   (∀ (i : Instr) (s u : State) (t : Task) (d a b : GReg) (op : AmoOp) (z : AmoSize) (o : Order) (l : Loc),
     s.current = some t → atomicForm i = some (d, a, b, op, z, o) → s.mayRelease t (releaseOf i) → t.isShadow = false →
     s.checked t .atomic .frozen (t.greg a) (amoBytes z) (amoBytes z) = (u, .ok l) → l.pkg ≠ u.svc.packageId →
     let target := if l.scratch then none else u.atomicTarget (quadOf t.ci) t.ctxid t.domain (t.greg a) l.leaf
     (u.fabQueued t = true → exec i s = .next (u.stall t .none)) ∧
     (u.fabQueued t = false → exec i s = .next ((u.park { t.advance with atomics := t.atomics + 1 } .remote
       (.atomic d op z (t.greg b) (t.greg d) (t.greg a) (atomicScope true i) target)).send l.pkg (u.who t)
       (.atomicReq ⟨u.who t, l.pa, op, z, t.greg b, t.greg d⟩)))) ∧
   (∀ (i : Instr) (s u : State) (t : Task) (d a b : GReg) (op : AmoOp) (z : AmoSize) (o : Order) (l : Loc),
     s.current = some t → atomicForm i = some (d, a, b, op, z, o) → s.mayRelease t (releaseOf i) → t.isShadow = false →
     (t.greg a).toNat % amoBytes z = 0 →
     s.place t.ci t.ctxid t.ranges .atomic (t.greg a) (amoBytes z) = (u, .ok l) → l.scratch = false →
     l.pkg ≠ u.svc.packageId → l.leaf.testBit 8 = false →
     exec i s = .next (u.faultPark t .atomic (t.greg a) 0x07 ⟨false, 0, 0⟩)))

/-- A reduction goes to its home with its operand, counted in `st` or, to another package, in `fb`, and its task goes
on; deterministic mode turns floating reductions away with ILLEGAL; the home stores the combined value and changes no
other byte (10_atomics.md R271, R274, R277, R279). `REDX` reads its descriptor, converts bits 31:0 of `g`b under its
exponent, and sends a 64-bit addition; misalignment raises ALIGN, a bad descriptor ILLEGAL, a value that does not fit
CONVOVF (10_atomics.md R277, R281; 02_numbers.md R59). -/
def Obligations.ReductionsAndFixedSums : Prop :=
  ((∀ (i : Instr) (s u : State) (t : Task) (a b : GReg) (op : AmoOp) (z : AmoSize) (rel : Bool) (l : Loc),
     s.current = some t → reductionForm i = some (a, b, op, z, rel) → s.mayRelease t (releaseOf i) →
     (op ∈ [AmoOp.fadd, .fmin, .fmax] → t.det = false) → t.isShadow = false →
     (t.greg a).toNat % amoBytes z = 0 →
     s.checked t .red .mark (t.greg a) (amoBytes z) (amoBytes z) = (u, .ok l) →
     let summed := t.addSum (t.greg a) (leBytes (amoBytes z) (t.greg b).toNat)
     (l.pkg = u.svc.packageId → u.writeHeld t.ci (u.clock + 1) l (amoBytes z) = false →
       u.writeHits l (amoBytes z) = false → t.st < 62 → exec i s = .next ({ u with requests := u.requests ++
       [t.request u l.pa (.combine op z (t.greg b)) .st (releaseOf i)] }.putTask
         { (summed.issued (releaseOf i)).past with st := t.st + 1 })) ∧
     (l.pkg ≠ u.svc.packageId → u.fabQueued t = false → t.fb < 14 → exec i s = .next
       ((u.send l.pkg (u.who t) (.red ⟨u.who t, l.pa, .combine op z (t.greg b)⟩) .fb).putTask
         { summed.past with fb := t.fb + 1 }))) ∧
   (∀ (i : Instr) (s : State) (t : Task) (a b : GReg) (op : AmoOp) (z : AmoSize) (rel : Bool),
     s.current = some t → reductionForm i = some (a, b, op, z, rel) → (op ∈ [AmoOp.fadd, .fmin, .fmax] → t.det = false) →
     t.isShadow = true → (t.greg a).toNat % amoBytes z = 0 →
     Completes i s (t.addSum (t.greg a) (leBytes (amoBytes z) (t.greg b).toNat))) ∧
   (∀ (i : Instr) (s : State) (t : Task) (a b : GReg) (op : AmoOp) (z : AmoSize) (rel : Bool),
     s.current = some t → reductionForm i = some (a, b, op, z, rel) → op ∈ [AmoOp.fadd, .fmin, .fmax] →
     t.det = true → (t.greg a).toNat % amoBytes z = 0 → Traps i s t 0x01) ∧
   (∀ (s : State) (r : Request) (op : AmoOp) (z : AmoSize) (v : Word), r.op = .combine op z v →
     let n := amoBytes z
     s.unsound r.pa n = false →
     (s.applyRequest r).word r.pa n = combined op (8 * n) (s.word r.pa n) (v.toNat % 2 ^ (8 * n)) ∧
     ∀ y, y < r.pa ∨ r.pa + n ≤ y → (s.applyRequest r).byte y = s.byte y)) ∧
  (∀ (s : State) (t : Task) (d a b : GReg) (rel : Bool) (sc : Scope), s.current = some t →
     ((t.greg a).toNat % 8 ≠ 0 ∨ (t.greg d).toNat % 16 ≠ 0 → Traps (.redx d a b rel sc) s t 0x02) ∧
     (∀ (u : State) (bs : List Byte), (t.greg a).toNat % 8 = 0 → (t.greg d).toNat % 16 = 0 →
       s.taskRead t .record (t.greg d) 2 = (u, .bytes bs) → u.watermarked t.ci (t.greg d) 16 = false →
       let base := leNat bs % 2 ^ 64
       let len := leNat bs / 2 ^ 80 % 2 ^ 40
       let bad := leNat bs / 2 ^ 73 % 2 ^ 7 ≠ 0 ∨ leNat bs / 2 ^ 120 % 2 ^ 8 ≠ 0 ∨ len = 0 ∨ base % 8 ≠ 0 ∨ len % 8 ≠ 0 ∨
         (t.greg a).toNat < base ∨ base + len < (t.greg a).toNat + 8
       let e := (BitVec.ofNat 9 (leNat bs / 2 ^ 64)).toInt
       (bad → exec (.redx d a b rel sc) s = .next (trapState u t 0x01)) ∧
       (¬ bad → fixedOf ((t.greg b).toNat % 2 ^ 32) e = none →
         exec (.redx d a b rel sc) s = .next (trapState u t 0x03)) ∧
       (∀ (w : State) (x : Nat) (fl : Flags) (l : Loc), ¬ bad → fixedOf ((t.greg b).toNat % 2 ^ 32) e = some (x, fl) →
         t.isShadow = false → u.mayRelease t (releaseOf (.redx d a b rel sc)) →
         u.checked t .red .mark (t.greg a) 8 8 = (w, .ok l) → l.pkg = w.svc.packageId →
         w.writeHeld t.ci (w.clock + 1) l 8 = false → w.writeHits l 8 = false → t.st < 62 →
         exec (.redx d a b rel sc) s = .next ({ w with requests := w.requests ++ [t.request w l.pa
             (.combine .add .d (BitVec.ofNat 64 x)) .st (releaseOf (.redx d a b rel sc))] }.putTask
           { ({ (t.addSum (t.greg a) (leBytes 8 (BitVec.ofNat 64 x).toNat)).issued (releaseOf (.redx d a b rel sc)) with
                fsr := t.fsr ||| fl } : Task).past with st := t.st + 1 }))))

/-- `CLD` reads its descriptor, parks its task as CHAIN past itself, and sends the packet of its first step to the
home of `g`a; misalignment raises ALIGN and a bad header or step ILLEGAL. `VCLD` starts a chain for each active
element, once its core's vector queue is empty (09_memory.md R262, R263, R264, R267). A chain step masks the word it
loaded by KEEP and CLR, adds the signed offset, and goes on, loads finally, stops with the address, or stops at zero;
a step address that is not a multiple of 8 stops with ALIGN, one in a scratchpad window with WINDOW; the last lane to
stop writes results and statuses and its task becomes READY (09_memory.md R262 to R267). -/
def Obligations.Chains : Prop :=
  ((∀ (s : State) (t : Task) (d a b : GReg), s.current = some t →
     ((t.greg a).toNat % 8 ≠ 0 ∨ (t.greg b).toNat % 8 ≠ 0 → Traps (.cld d a b) s t 0x02) ∧
     (∀ (u : State) (h : List Byte), (t.greg a).toNat % 8 = 0 → (t.greg b).toNat % 8 = 0 →
       s.taskRead t .record (t.greg b) 1 = (u, .bytes h) → u.watermarked t.ci (t.greg b) 8 = false → (leNat h = 0 ∨ 8 < leNat h) →
       exec (.cld d a b) s = .next (trapState u t 0x01)) ∧
     (∀ (u v : State) (h bs : List Byte) (steps : List Word), (t.greg a).toNat % 8 = 0 → (t.greg b).toNat % 8 = 0 →
       s.taskRead t .record (t.greg b) 1 = (u, .bytes h) → u.watermarked t.ci (t.greg b) 8 = false →
       1 ≤ leNat h → leNat h ≤ 8 → u.taskRead t .record (t.greg b + 8) (leNat h) = (v, .bytes bs) →
       v.watermarked t.ci (t.greg b + 8) (8 * leNat h) = false → chainSteps (leNat h) bs = some steps →
       exec (.cld d a b) s = .next ((v.park { t.advance with
         chain := some ⟨.scalar d, steps, [{ lane := 0, x := t.greg a }]⟩ } .chain .chain).resendLanes t.uid [0])) ∧
     (∀ (n : Nat) (bs : List Byte), (∃ i, i < n ∧ leNat ((bs.drop (8 * i)).take 8) / 2 ^ 52 % 2 ^ 12 ≠ 0) →
       chainSteps n bs = none)) ∧
   (∀ (s u v : State) (t : Task) (d a : VReg) (b : GReg) (k : Reg3) (h bs : List Byte) (steps : List Word),
     s.current = some t → (t.greg b).toNat % 8 = 0 →
     ((s.core t.ci).vq ≠ [] → exec (.vcld d a b k) s = .next (s.stall t .none)) ∧
     ((s.core t.ci).vq = [] → s.taskRead t .record (t.greg b) 1 = (u, .bytes h) →
       u.watermarked t.ci (t.greg b) 8 = false → 1 ≤ leNat h → leNat h ≤ 8 →
       u.taskRead t .record (t.greg b + 8) (leNat h) = (v, .bytes bs) →
       v.watermarked t.ci (t.greg b + 8) (8 * leNat h) = false → chainSteps (leNat h) bs = some steps →
       let mask := (s.core t.ci).k[k.toNat]
       let active := (List.range 64).filter fun j => decide (k = 0) || mask.getLsbD j
       let elem := fun j : Nat => ((s.core t.ci).v[a.toNat].extractLsb' (32 * j) 32).zeroExtend 64
       let x := v.park { t.advance with
         chain := some ⟨.vector d, steps, active.map fun j => { lane := j, x := elem j }⟩ } .chain .chain
       exec (.vcld d a b k) s = .next ((active.foldl (fun y j =>
         y.afterWord ⟨y.who t, y.svc.packageId, t.ctxid, j, steps, t.ranges, 0, elem j, 0, false⟩ (elem j)) x).settleChain
           t.uid)))) ∧
  ((∀ st w c : Word,
     let keep := st.toNat / 2 ^ 40 % 64
     let clr := st.toNat / 2 ^ 46 % 16
     let kept := if keep = 0 then w.toNat else w.toNat % 2 ^ keep
     let m := BitVec.ofNat 64 (kept - kept % 2 ^ clr)
     let a := m + (st.extractLsb' 0 40).signExtend 64
     let op := st.toNat / 2 ^ 50 % 4
     (op = 0 → chainStep st c w = .go a) ∧ (op = 1 → chainStep st c w = .load a) ∧ (op = 2 → chainStep st c w = .stop a 1) ∧
     (op = 3 → chainStep st c w = if m = 0 then .stop c 2 else .go a)) ∧
   (∀ (s : State) (c : Nat) (rs : List Range) (f : Bool) (x : Word),
     (x.toNat % 8 ≠ 0 → s.locate c rs f x = (s, .stop 3)) ∧
     (x.toNat % 8 = 0 → 0xFFFFFFFFFFFC0000 ≤ x.toNat → s.locate c rs f x = (s, .stop 4)) ∧
     (x.toNat % 8 = 0 → canonical x = false → s.locate c rs f x = (s, .range))) ∧
   (∀ (s : State) (t : Task) (d : GReg) (steps : List Word) (l : Lane) (m : ChainEnd), s.task? t.uid = some t →
     t.chain = some ⟨.scalar d, steps, [l]⟩ → l.lane = m.lane → m.task = t.uid → m.range = false → t.gang = none →
     t.spilled = false → s.halted t.ci = false → s.unitFaults t = false → d ≠ 31 →
     ∃ u w, exec (.chainResult m) s = .next u ∧ u.task? t.uid = some w ∧ w.status = .ready ∧ w.chain = none ∧
       w.g = ((t.setG d m.result).setG (d + 1) (BitVec.ofNat 64 (min l.nfault 0xFFFF * 2 ^ 16 +
         (if l.fv then 2 ^ 12 else 0) + l.fstep * 2 ^ 8 + m.stop.toNat * 2 ^ 4 + m.done))).g))

/-- An instruction of majors 0x18 to 0x1F joins its core's vector queue with four quarters and in no class; a full
queue stalls issue; a stream operand that is not bound, or bound in the other direction, raises ILLEGAL (06_vector.md
R158, R159, R168, R181, R183; 07_scratchpad.md R193; 05_tasks.md R143). `VCVT` under policy 11 joins its core's queue
with four quarters, and issue waits for it there; once its last quarter has been granted an overflow of an active
element traps with CONVOVF and nothing written, and without one the conversion is made and the task goes on
(06_vector.md R174, R175; 02_numbers.md R54). -/
def Obligations.VectorPushes : Prop :=
  (∀ (s : State) (t : Task), s.current = some t →
     (∀ i : Instr, isLaneInstr i = true →
       ((∀ q, (streamOperands i).1 = some q → (s.core t.ci).pushedStream q = some false) →
         (∀ q, (streamOperands i).2 = some q → (s.core t.ci).pushedStream q = some true) →
         ((s.core t.ci).vq.length < 32 → Pushes i s s t .none 0 0 0 4 none) ∧
         (32 ≤ (s.core t.ci).vq.length → exec i s = .next (s.stall t .none))) ∧
       (∀ q, (streamOperands i).1 = some q → (s.core t.ci).pushedStream q ≠ some false → Traps i s t 0x01) ∧
       (∀ q, (streamOperands i).2 = some q → (s.core t.ci).pushedStream q ≠ some true → Traps i s t 0x01)) ∧
     ((s.core t.ci).vq.length < 32 → ∀ (d a : VReg) (g h : GReg) (k : Reg3) (w : Width),
       Pushes (.vsplat d g k w) s s t .none (t.greg g) 0 0 4 none ∧
       (t.ld < 62 → Pushes (.vext g a h w) s s t .ld (t.greg h) 0 0 4 none) ∧
       Pushes (.vrng d a k) s s t .none (if t.det || t.nomix then t.launchkey
         else t.launchkey ^^^ (t.launchid.zeroExtend 64 * 0xE71F4D836B2C95D1)) 0 0 4 none)) ∧
  (∀ (s : State) (t : Task) (d : VDst) (a : VSrc) (rtz uns : Bool) (k : Reg3) (dst src : CvtType), s.current = some t →
     let i : Instr := .vcvt d a .trap rtz uns k dst src
     let c := s.core t.ci
     (s.syncEntry t = none → c.streamsFit i = false → Traps i s t 0x01) ∧
     (s.syncEntry t = none → c.streamsFit i = true → 32 ≤ c.vq.length → exec i s = .next (s.stall t .none)) ∧
     (s.syncEntry t = none → c.streamsFit i = true → c.vq.length < 32 →
       let e : VEntry := { serial := s.clock + 1, instr := i, uid := t.uid, part := t.part, quarters := 4, sync := true }
       ∃ u, exec i s = .next u ∧ (u.core t.ci).vq = c.vq ++ [e] ∧ (u.core t.ci).stalled = true ∧ (u.core t.ci).v = c.v ∧
         (u.core t.ci).q = c.q ∧ u.tasks = (s.putTask { t with wait := .none }).tasks ∧ u.mem = s.mem) ∧
     (∀ e : VEntry, s.syncEntry t = some e → e.quarters ≠ 0 → exec i s = .next (s.stall t .none)) ∧
     (∀ e : VEntry, s.syncEntry t = some e → e.quarters = 0 → c.convert d a .trap rtz uns k dst src = some none →
       exec i s = .next (trapState (s.modEntry t.ci e.serial fun _ => none) t 0x03)) ∧
     (∀ (e : VEntry) (x : Core) (fl : Flags), s.syncEntry t = some e → e.quarters = 0 →
       c.convert d a .trap rtz uns k dst src = some (some (x, fl, none)) → ∃ u, exec i s = .next u ∧
         (u.core t.ci).v = x.v ∧ (u.core t.ci).k = c.k ∧ (u.core t.ci).vq = c.vq.filter (·.serial != e.serial) ∧
         u.mem = s.mem ∧ u.tasks = (s.putTask ({ t with fsr := t.fsr ||| fl } : Task).past).tasks) ∧
     (∀ (x y : VReg) (n : Nat), d = .reg x → a = .reg y → n < 2048 / max dst.bits src.bits → c.active k n = true →
       convertElement .trap rtz uns dst src (elem src.bits c.v[y.toNat] n).toNat = none →
       c.convert d a .trap rtz uns k dst src = some none))

/-- A vector memory instruction joins the queue with its base and stride, or its base and bound, counted in `ld`, in
`st`, or in `fb` where an active element is homed in another package; issue of a store waits while older queued
instructions may still change the mask or the index register that its class hangs on (log entry 40); its base and
stride must be multiples of its element size, and a full class stalls it; `VLDZ` and `VSTZ` need a multiple of 8;
issue waits for `VSTZ` until it has read its record's capacity at its place in the queue, and traps with SPARSEOVR if
that is too small (07_scratchpad.md R198 to R203; 13_fabric.md R342; 05_tasks.md R143, R144). What a vector memory
instruction does at the head of its queue, once its addresses are checked and, for a load, read: a load writes its
active elements from the bytes at their addresses, a store writes those of its register, by stride or by index; lanes
out of bound load 0, store nothing and leave the mask; `VLDZ` spreads the values of a record by its mask; `VSTZ` reads
its capacity, and stores header, mask and values; `QBIND` and `QFLUSH` change the binding (07_scratchpad.md R191,
R195, R198 to R203). -/
def Obligations.VectorMemoryPushes : Prop :=
  (∀ (s : State) (t : Task) (d b : VReg) (a g : GReg) (k : Reg3) (w : Width), s.current = some t →
     (s.core t.ci).vq.length < 32 →
     let z := widthBits w / 8
     let unit := BitVec.ofNat 64 z
     let x := t.greg a
     let y := t.greg g
     let next := t.greg (a + 1)
     let third := t.greg (a + 2)
     let far := fun els : List (Nat × Word) =>
       ∃ e ∈ els, s.homedElsewhere t (BitVec.ofNat 64 (e.2.toNat / 2 ^ 16 * 2 ^ 16)) = true
     let c := s.core t.ci
     let settled := fun (lanes : List (Nat × Word)) =>
       t.isShadow = true ∨ ¬ far lanes ∨ k = 0 ∨ ∀ e ∈ c.vq, writesMask k e.instr = false
     let known := t.isShadow = true ∨ ∀ e ∈ c.vq, (k = 0 ∨ writesMask k e.instr = false) ∧ writesVector b e.instr = false
     let stores := fun (ready : Prop) (i : Instr) (els : List (Nat × Word)) (base stride : Word) =>
       (ready → (t.isShadow = true ∨ ¬ far els) → t.st < 62 → Pushes i s s t .st base stride 0 0 none) ∧
       (ready → t.isShadow = false → far els → t.fb < 14 → Pushes i s s t .fb base stride 0 0 none) ∧
       (¬ ready → exec i s = .next (s.stall t .none))
     ((x + y).toNat % z = 0 → t.ld < 62 → Pushes (.vld d a g k w) s s t .ld (x + y) unit 0 0 none) ∧
     ((x + y).toNat % z = 0 → stores (settled (c.strided 0 (widthBits w) (x + y) unit)) (.vst d a g k w)
       (c.strided k (widthBits w) (x + y) unit) (x + y) unit) ∧
     ((x + y).toNat % z ≠ 0 → Traps (.vld d a g k w) s t 0x02 ∧
       (settled (c.strided 0 (widthBits w) (x + y) unit) → Traps (.vst d a g k w) s t 0x02)) ∧
     (x.toNat % z = 0 → y.toNat % z = 0 → t.ld < 62 → Pushes (.vlds d a g k w) s s t .ld x y 0 0 none) ∧
     (x.toNat % z = 0 → y.toNat % z = 0 → stores (settled (c.strided 0 (widthBits w) x y)) (.vsts d a g k w)
       (c.strided k (widthBits w) x y) x y) ∧
     (x.toNat % z ≠ 0 ∨ y.toNat % z ≠ 0 → Traps (.vlds d a g k w) s t 0x02 ∧
       (settled (c.strided 0 (widthBits w) x y) → Traps (.vsts d a g k w) s t 0x02)) ∧
     (x.toNat % z = 0 → t.ld < 62 → Pushes (.vgath d a b k w) s s t .ld x next 0 0 none) ∧
     (x.toNat % z = 0 → stores known (.vscat d a b k w) (c.indexed b k (widthBits w) x next).1 x next) ∧
     (x.toNat % z ≠ 0 → Traps (.vgath d a b k w) s t 0x02 ∧ (known → Traps (.vscat d a b k w) s t 0x02)) ∧
     (s.mayCount t y false = true → x.toNat % z = 0 → t.fb < 14 → Pushes (.vstc d a g k w) s s t .fb x unit y 0 none) ∧
     (s.mayCount t y false = false → Traps (.vstc d a g k w) s t 0x01) ∧
     (s.mayCount t third false = true → x.toNat % z = 0 → t.fb < 14 →
       Pushes (.vscatc d a b k w) s s t .fb x next third 0 none) ∧
     (s.mayCount t third false = false → Traps (.vscatc d a b k w) s t 0x01) ∧
     (x.toNat % 8 = 0 → t.ld < 62 → Pushes (.vldzBf16 d a k) s s t .ld x 0 0 0 none) ∧
     (x.toNat % 8 ≠ 0 → Traps (.vldzBf16 d a k) s t 0x02 ∧ Traps (.vstzBf16 d a k) s t 0x02) ∧
     (x.toNat % 8 = 0 → s.syncEntry t = none →
       let rows := (List.range 5).map fun i => (i, x + BitVec.ofNat 64 (64 * i))
       let cls := if t.isShadow = false ∧ far rows then Machine.Class.fb else .st
       let e : VEntry := { serial := s.clock + 1, instr := .vstzBf16 d a k, uid := t.uid, part := t.part, x := x,
                           quarters := 0, cls := cls, sync := true, far := cls == .fb }
       t.full cls = false → ∃ u, exec (.vstzBf16 d a k) s = .next u ∧ (u.core t.ci).vq = c.vq ++ [e] ∧
         (u.core t.ci).stalled = true ∧ u.tasks = (s.putTask { t.count cls with wait := .none }).tasks ∧ u.mem = s.mem) ∧
     (∀ e : VEntry, x.toNat % 8 = 0 → s.syncEntry t = some e →
       let stored := ((List.range 128).filter fun i => c.active k i && (elem 16 c.v[d.toNat] i) != 0#16).length
       (e.capacity = none → exec (.vstzBf16 d a k) s = .next (s.stall t .none)) ∧
       (∀ cap, e.capacity = some cap → cap < stored → exec (.vstzBf16 d a k) s =
         .next (trapState (s.modEntry t.ci e.serial fun _ => none) (t.uncount e.cls) 0x04)) ∧
       (∀ cap, e.capacity = some cap → stored ≤ cap → ∃ u, exec (.vstzBf16 d a k) s = .next u ∧
         (u.core t.ci).vq = c.vq.map (fun y => if y.serial = e.serial then { y with sync := false } else y) ∧
         u.tasks = (s.putTask t.past).tasks ∧ u.mem = s.mem)) ∧
     (62 ≤ t.ld → x.toNat % 8 = 0 → exec (.vldzBf16 d a k) s = .next (s.stall t .none))) ∧
  (∀ (s v w : State) (die quad j : Nat) (e : VEntry) (t : Task) (d b : VReg) (a g : GReg) (k q : Reg3) (z : Width)
     (ls : List Loc) (bss : List (List Byte)),
     let ci := 4 * (64 * die + quad) + j
     let c := s.core ci
     let n := widthBits z
     let x := e.agent ci
     let step := exec (.vectorArbiterCycle die quad) s
     j < 4 → c.vq = [e] → (∀ i, i < 4 → i ≠ j → (s.core (4 * (64 * die + quad) + i)).vq = []) → s.unitsRun ci = true →
     s.task? e.uid = some t → e.quarters = 0 → e.pending = 0 →
     let active := (List.range (2048 / n)).filter fun i => c.active k i
     let strided := active.map fun i => (i, e.x + e.y * BitVec.ofNat 64 i)
     let index := fun i => (elem n c.v[b.toNat] i).toNat
     let inside := (active.filter fun i => index i < e.y.toNat).map fun i => (i, e.x + BitVec.ofNat 64 (index i * (n / 8)))
     let outside := fun i => decide (i < 2048 / n) && c.active k i && decide (e.y.toNat ≤ index i)
     let unmasks := fun (u v : State) (out : Nat → Bool) =>
       k ≠ 0 → ∀ i, i < 256 → (u.core ci).active k i = ((v.core ci).active k i && !out i)
     let loads := fun (els : List (Nat × Word)) (out : Nat → Bool) => (∀ p ∈ els, s.watermarked ci p.2 (n / 8) = false) →
       s.unitCheck t x .vload .none (els.map fun p => (p.2, n / 8)) = (v, .ok ls) →
       v.unitRead t x (ls.map fun l => (l, n / 8)) = (w, .bytes bss) → ∃ u, step = .next u ∧ (u.core ci).vq = [] ∧
         u.mem = w.mem ∧ unmasks u w out ∧ (∀ r : VReg, r ≠ d → (u.core ci).v[r.toNat] = (w.core ci).v[r.toNat]) ∧
         ∀ i, i < 2048 / n → elem n (u.core ci).v[d.toNat] i = match (List.zip els bss).find? (fun p => p.1.1 == i) with
           | some p => BitVec.ofNat n (leNat p.2)
           | none => if out i then 0 else elem n (w.core ci).v[d.toNat] i
     let stores := fun (ws : List (Word × List Byte)) (out : Nat → Bool) =>
       (∀ p ∈ ws, s.watermarked ci p.1 p.2.length = false) →
       s.unitCheck t x .vstore .store (ws.map fun p => (p.1, p.2.length)) = (v, .ok ls) →
       e.cls = (if ls.any fun l => l.pkg != v.svc.packageId && !t.keeps l then .fb else .st) →
       (∀ p ∈ List.zip ls ws, v.writeHeld ci e.serial p.1 p.2.2.length = false) →
       let xs := List.zipWith (fun (p : Word × List Byte) l => (p.1, l, p.2)) ws ls
       v.unitHits xs = false → ∃ u, step = .next u ∧ (u.core ci).vq = [] ∧ unmasks u v out ∧
         u.mem = (v.unitStore t x xs).mem ∧ u.requests = (v.unitStore t x xs).requests ∧
         u.fab = (v.unitStore t x xs).fab ∧ u.tasks = (v.unitStore t x xs).tasks
     let lanes := fun (els : List (Nat × Word)) => els.map fun p =>
       (p.2, leBytes (n / 8) (elem n c.v[d.toNat] p.1).toNat)
     (e.instr = .vld d a g k z ∨ e.instr = .vlds d a g k z → loads strided fun _ => false) ∧
     (e.instr = .vst d a g k z ∨ e.instr = .vsts d a g k z → stores (lanes strided) fun _ => false) ∧
     (e.instr = .vgath d a b k z → loads inside outside) ∧
     (e.instr = .vscat d a b k z → stores (lanes inside) outside) ∧
     (e.instr = .vldzBf16 d a k → ∀ (v' w' : State) (ls' : List Loc) (ms : List (List Byte)),
       s.watermarked ci (e.x + 8) 8 = false → s.watermarked ci (e.x + 16) 8 = false →
       s.unitCheck t x .vload .none [(e.x + 8, 8), (e.x + 16, 8)] = (v', .ok ls') →
       v'.unitRead t x (ls'.map fun l => (l, 8)) = (w', .bytes ms) →
       let m := leNat ms.flatten
       let below := fun i => ((List.range i).filter m.testBit).length
       let as_ := (List.range (below 128)).map fun i => (e.x + 24 + 2 * BitVec.ofNat 64 i, 2)
       (∀ p ∈ as_, w'.watermarked ci p.1 2 = false) → w'.unitCheck t x .vload .none as_ = (v, .ok ls) →
       v.unitRead t x (ls.map fun l => (l, 2)) = (w, .bytes bss) → ∃ u, step = .next u ∧ (u.core ci).vq = [] ∧
         u.mem = w.mem ∧ (∀ r : VReg, r ≠ d → (u.core ci).v[r.toNat] = (w.core ci).v[r.toNat]) ∧
         ∀ i, i < 128 → elem 16 (u.core ci).v[d.toNat] i = if (w.core ci).active k i then
           (if m.testBit i then BitVec.ofNat 16 (leNat (bss.getD (below i) [])) else 0)
           else elem 16 (w.core ci).v[d.toNat] i) ∧
     (e.instr = .vstzBf16 d a k → e.sync = true → e.capacity = none → s.watermarked ci e.x 8 = false →
       s.unitCheck t x .vload .none [(e.x, 8)] = (v, .ok ls) →
       v.unitRead t x (ls.map fun l => (l, 8)) = (w, .bytes bss) → ∃ u, step = .next u ∧ u.mem = w.mem ∧
         (u.core ci).vq = [{ e with capacity := some (leNat bss.flatten / 2 ^ 16 % 2 ^ 16) }]) ∧
     (∀ cap : Nat, e.instr = .vstzBf16 d a k → e.sync = false → e.capacity = some cap →
       let kept := (List.range 128).filter fun i => c.active k i && elem 16 c.v[d.toNat] i != 0#16
       let mask := (kept.map fun i => 2 ^ i).sum
       stores ([(e.x, leBytes 8 (kept.length + cap * 2 ^ 16)), (e.x + 8, leBytes 8 (mask % 2 ^ 64)),
           (e.x + 16, leBytes 8 (mask / 2 ^ 64))] ++ kept.zipIdx.map fun p =>
             (e.x + 24 + 2 * BitVec.ofNat 64 p.2, leBytes 2 (elem 16 c.v[d.toNat] p.1).toNat)) fun _ => false) ∧
     ((∀ y, c.q[q.toNat] = some y → y.output = false) →
       (e.instr = .qbind q a → ∃ u, step = .next u ∧ (u.core ci).q = c.q.set q.toNat e.bind ∧ (u.core ci).vq = [] ∧
         u.mem = s.mem) ∧
       (e.instr = .qflush q → ∃ u, step = .next u ∧ (u.core ci).q = c.q.set q.toNat none ∧ (u.core ci).vq = [] ∧
         u.mem = s.mem)))

/-- The integer operations of major 0x19 on each active element, modulo its width, with no flag, on registers and
streams; a shift count is read unsigned at the full width (06_vector.md R165, R172, R173). -/
def Obligations.LaneIntegerResults : Prop :=
  ∀ (c : Core) (e : VEntry) (d : VDst) (a : VSrc) (b : VReg) (k : Reg3) (w : Width),
    let n := widthBits w
    let y := fun i => elem n c.v[b.toNat] i
    let writes := fun (f : BitVec n → BitVec n → BitVec n) =>
      WritesLanes c e d a (c.active k) n (fun x i => f (elem n x i) (y i)) fun _ _ => 0
    (e.instr = .vaddInt d a b k w → writes fun p q => p + q) ∧
    (e.instr = .vsubInt d a b k w → writes fun p q => p - q) ∧
    (e.instr = .vmulInt d a b k w → writes fun p q => p * q) ∧
    (e.instr = .vmulhI d a b k w → writes fun p q => BitVec.ofInt n (p.toInt * q.toInt / 2 ^ n)) ∧
    (e.instr = .vmulhN d a b k w → writes fun p q => BitVec.ofNat n (p.toNat * q.toNat / 2 ^ n)) ∧
    (e.instr = .vminI d a b k w → writes fun p q => if p.toInt < q.toInt then p else q) ∧
    (e.instr = .vminN d a b k w → writes fun p q => if p.toNat < q.toNat then p else q) ∧
    (e.instr = .vmaxI d a b k w → writes fun p q => if p.toInt < q.toInt then q else p) ∧
    (e.instr = .vmaxN d a b k w → writes fun p q => if p.toNat < q.toNat then q else p) ∧
    (e.instr = .vand d a b k w → writes fun p q => p &&& q) ∧
    (e.instr = .vor d a b k w → writes fun p q => p ||| q) ∧
    (e.instr = .vxor d a b k w → writes fun p q => p ^^^ q) ∧
    (e.instr = .vshl d a b k w → writes fun p q => if n ≤ q.toNat then 0 else p <<< q.toNat) ∧
    (e.instr = .vshr d a b k w → writes fun p q => if n ≤ q.toNat then 0 else p >>> q.toNat) ∧
    (e.instr = .vsar d a b k w → writes fun p q =>
      if n ≤ q.toNat then (if p.msb then BitVec.allOnes n else 0) else p.sshiftRight q.toNat) ∧
    (e.instr = .vadds d a b k w → writes fun p q =>
      BitVec.ofInt n (max (-(2 ^ (n - 1))) (min (2 ^ (n - 1) - 1) (p.toInt + q.toInt))))

/-- The floating operations of major 0x18 on each active element: one rounding in the element's format, the flags of
the active elements, on registers and streams; the fused forms read `v`d; sign operations move bits (06_vector.md
R165, R169, R170, R171). Reciprocals, reciprocal square roots and powers of two in a format: their special operands
row by row; a reciprocal square root is the one rounding of the exact value, given by its leading bits and whether
more follow; a power of two with an integer exponent is exact, and any other is the rounding of a value between the
powers around it, whose bits rest on a log entry (06_vector.md R170; log entry 25). `VCVT` under the policies other
than 11 converts the elements that both types have and that are active, and leaves the others, those above included;
the kinds of conversion (06_vector.md R174, R175; 02_numbers.md R50 to R55). -/
def Obligations.LaneFloatResults : Prop :=
  (∀ (c : Core) (e : VEntry) (d : VDst) (a : VSrc) (r b : VReg) (k : Reg3) (t : FType),
     let f := t.format
     let n := f.width
     let x := fun (v : VWord) i => f.value (elem n v i).toNat
     let y := fun i => f.value (elem n c.v[b.toNat] i).toNat
     let z := fun i => f.value (elem n c.v[r.toNat] i).toNat
     let into := fun (o : VDst) (g : VWord → Nat → Rounded) =>
       WritesLanes c e o a (c.active k) n (fun v i => BitVec.ofNat n (g v i).bits) fun v i => (g v i).flags
     (e.instr = .vaddF d a b k t → into d fun v i => f.sum [x v i, y i] false) ∧
     (e.instr = .vsubF d a b k t → into d fun v i => f.sum [x v i, (y i).negate] false) ∧
     (e.instr = .vmulF d a b k t → into d fun v i => f.mul (x v i) (y i)) ∧
     (e.instr = .vdiv d a b k t → into d fun v i => f.div (x v i) (y i)) ∧
     (e.instr = .vfma r a b k t → into (.reg r) fun v i => f.fma false (x v i) (y i) (z i)) ∧
     (e.instr = .vfms r a b k t → into (.reg r) fun v i => f.fma false (x v i) (y i) (z i).negate) ∧
     (e.instr = .vfnma r a b k t → into (.reg r) fun v i => f.fma true (x v i) (y i) (z i)) ∧
     (e.instr = .vminF d a b k t → into d fun v i =>
       f.minmax false (elem n v i).toNat (elem n c.v[b.toNat] i).toNat) ∧
     (e.instr = .vmaxF d a b k t → into d fun v i =>
       f.minmax true (elem n v i).toNat (elem n c.v[b.toNat] i).toNat) ∧
     (e.instr = .vsqrt d a k t → into d fun v i => f.sqrt (x v i)) ∧
     (e.instr = .vrcp d a k t → into d fun v i => f.div (.fin false 1 0) (x v i)) ∧
     (e.instr = .vrsq d a k t → into d fun v i => f.rsq (x v i)) ∧
     (e.instr = .vexp2 d a k t → into d fun v i => f.exp2 (x v i)) ∧
     (e.instr = .vabs d a k t → WritesLanes c e d a (c.active k) n
       (fun v i => elem n v i &&& BitVec.ofNat n (2 ^ (n - 1) - 1)) fun _ _ => 0) ∧
     (e.instr = .vneg d a k t → WritesLanes c e d a (c.active k) n
       (fun v i => elem n v i ^^^ BitVec.ofNat n (2 ^ (n - 1))) fun _ _ => 0)) ∧
  (∀ (t : FType) (s : Bool) (m : Nat) (q : Int),
     let f := t.format
     let nan := fun (r : Rounded) (nv : Bool) => r.bits = f.nan ∧ r.flags = if nv then 0x10 else 0
     let is := fun (r : Rounded) (neg : Bool) (mag : Nat) (fl : Flags) => r.bits = f.signed neg mag ∧ r.flags = fl
     (∀ r ∈ [f.div (.fin false 1 0) (.nan s), f.rsq (.nan s), f.exp2 (.nan s)], nan r s) ∧
     is (f.div (.fin false 1 0) (.fin s 0 q)) s f.infinity 0x08 ∧ is (f.rsq (.fin s 0 q)) s f.infinity 0x08 ∧
     is (f.exp2 (.fin s 0 q)) false (f.bias * 2 ^ f.man) 0 ∧
     is (f.div (.fin false 1 0) (.inf s)) s 0 0 ∧ is (f.rsq (.inf false)) false 0 0 ∧ nan (f.rsq (.inf true)) true ∧
     is (f.exp2 (.inf false)) false f.infinity 0 ∧ is (f.exp2 (.inf true)) false 0 0 ∧
     (m ≠ 0 → nan (f.rsq (.fin true m q)) true ∧ ∃ (r j : Nat) (z : Int),
       2 ^ (f.man + 3) ≤ r ∧ r * r * m ≤ 2 ^ j ∧ 2 ^ j < (r + 1) * (r + 1) * m ∧ 2 * z + j + q = 0 ∧
         f.rsq (.fin false m q) = f.round false r z (decide (r * r * m ≠ 2 ^ j))) ∧
     f.exp2 (.fin false m 0) = f.round false 1 m false ∧ f.exp2 (.fin true m 0) = f.round false 1 (-m) false ∧
     (∀ n : Nat, 0 < n → n ≤ 152 → m % 2 ^ n ≠ 0 → m < 2 ^ (n + 10) → ∃ r : Nat, 2 ^ 256 ≤ r ∧ r < 2 ^ 257 ∧
       f.exp2 (.fin s m (-n)) = f.round false r ((if s then -(m : Int) else m) / (2 ^ n : Nat) - 256) true)) ∧
  (∀ (c : Core) (e : VEntry) (d : VDst) (a : VSrc) (ovp : Ovp) (rtz uns : Bool) (k : Reg3) (dst src : CvtType),
     let r := fun (v : VWord) i => convertElement ovp rtz uns dst src (elem src.bits v i).toNat
     (e.instr = .vcvt d a ovp rtz uns k dst src → ovp ≠ .trap →
       WritesLanes c e d a (fun i => c.active k i && decide (i < 2048 / max dst.bits src.bits)) dst.bits
         (fun v i => BitVec.ofNat dst.bits ((r v i).getD (0, 0)).1) fun v i => ((r v i).getD (0, 0)).2) ∧
     (ovp ≠ .trap → ∀ x, convertElement ovp rtz uns dst src x ≠ none) ∧
     (∀ (x : BitVec src.bits),
       let i : Int := if uns then x.toNat else x.toInt
       let lo : Int := if uns then 0 else -(2 ^ (dst.bits - 1))
       let hi : Int := if uns then 2 ^ dst.bits - 1 else 2 ^ (dst.bits - 1) - 1
       let y := convertElement ovp rtz uns dst src x.toNat
       (∀ g h, src.format = some g → dst.format = some h → y = h.convert ovp (g.value x.toNat)) ∧
       (∀ h, src.format = none → dst.format = some h → y = h.convert ovp (.fin (i < 0) i.natAbs 0)) ∧
       (∀ g, src.format = some g → dst.format = none → y = convertToInt ovp rtz uns dst.bits (g.value x.toNat)) ∧
       (src.format = none → dst.format = none →
         (lo ≤ i → i ≤ hi → y = some ((BitVec.ofInt dst.bits i).toNat, 0)) ∧
         (i < lo ∨ hi < i → ovp ≠ .trap →
           y = some ((BitVec.ofInt dst.bits (if i < lo then lo else hi)).toNat, 0x30)))))

/-- The compares of integers and of floats, with what a NaN makes of them and their NV, and the mask logic
(06_vector.md R176, R177; 03_encoding.md R64). Permutes, selects, moves and generated elements move bits unchanged and
set no flag; `VSEL` writes every element; indexes and counts are read unsigned; `VRNG` draws by its key and each
element, and `VDQ` decodes a block (06_vector.md R180 to R183; 02_numbers.md R42). The integer reductions write the
sum, the least or greatest, or the bitwise result of the active elements into 32-bit element 0 and zeros above it,
without flags, and the identity where none is active; the integer scans write running results in ascending order, and
inactive elements keep their bits (06_vector.md R178, R179). The float reductions combine the active elements,
asSingle to FP32, and the identity for the others, by the fixed tree, in FP32, into 32-bit element 0, with the flags
of every node; the float scans go on in ascending order and round each result to the element's type (06_vector.md
R178, R179; 02_numbers.md R61). -/
def Obligations.MasksMovesAndReductions : Prop :=
  (∀ (c : Core) (e : VEntry) (d ka kb k : Reg3) (a : VSrc) (b : VReg) (t : RType),
     let n := t.width
     let int := fun (v : VWord) i =>
       if t.unsigned then ((elem n v i).toNat : Int) else (elem n v i).toInt
     let writes := fun (r : Int → Int → Bool) =>
       WritesMask c e d a (2048 / n) (fun v i => c.active k i && r (int v i) (int c.v[b.toNat] i)) fun _ g => g = 0
     let logic := fun (r : Bool → Bool → Bool) =>
       WritesMask c e d (.reg 0) 256 (fun _ i => r (c.active ka i) (c.active kb i)) fun _ g => g = 0
     (t.format = none →
       (e.instr = .vcmpeq d a b k t → writes fun p q => decide (p = q)) ∧
       (e.instr = .vcmpne d a b k t → writes fun p q => decide (p ≠ q)) ∧
       (e.instr = .vcmplt d a b k t → writes fun p q => decide (p < q)) ∧
       (e.instr = .vcmple d a b k t → writes fun p q => decide (p ≤ q)) ∧
       (e.instr = .vcmpgt d a b k t → writes fun p q => decide (q < p)) ∧
       (e.instr = .vcmpge d a b k t → writes fun p q => decide (q ≤ p))) ∧
     (∀ f : Format, t.format = some f →
       let num := fun (v : VWord) i => f.value (elem n v i).toNat
       let floats := fun (r raises : Machine.Num → Machine.Num → Bool) =>
         WritesMask c e d a (2048 / n) (fun v i => c.active k i && r (num v i) (num c.v[b.toNat] i)) fun v g =>
           (g = 0 ∨ g = 0x10) ∧ (g = 0x10 ↔ ∃ i, i < 2048 / n ∧ c.active k i = true ∧
             raises (num v i) (num c.v[b.toNat] i) = true)
       let nan := fun p q : Machine.Num => p.isNan || q.isNan
       let signals := fun p q : Machine.Num => p.signalling || q.signalling
       (e.instr = .vcmpeq d a b k t → floats (fun p q => !nan p q && p.eq q) signals) ∧
       (e.instr = .vcmpne d a b k t → floats (fun p q => nan p q || !p.eq q) signals) ∧
       (e.instr = .vcmplt d a b k t → floats (fun p q => !nan p q && p.lt q) nan) ∧
       (e.instr = .vcmple d a b k t → floats (fun p q => !nan p q && !q.lt p) nan) ∧
       (e.instr = .vcmpgt d a b k t → floats (fun p q => !nan p q && q.lt p) nan) ∧
       (e.instr = .vcmpge d a b k t → floats (fun p q => !nan p q && !p.lt q) nan) ∧
       (∀ u : FType, u.format = f → e.instr = .vcmpun d a b k u → floats nan signals)) ∧
     (e.instr = .kand d ka kb → logic fun p q => p && q) ∧
     (e.instr = .kor d ka kb → logic fun p q => p || q) ∧
     (e.instr = .kxor d ka kb → logic fun p q => p ^^ q) ∧
     (e.instr = .kandn d ka kb → logic fun p q => p && !q) ∧
     (e.instr = .knot d ka → logic fun p _ => !p) ∧
     (e.instr = .kmov d ka → logic fun p _ => p)) ∧
  (∀ (c : Core) (e : VEntry) (d a b : VReg) (g : GReg) (k : Reg3) (w : Width),
     let n := widthBits w
     let m := 2048 / n
     let x := fun i => elem n c.v[a.toNat] i
     let y := fun i => elem n c.v[b.toNat] i
     let writes := fun f => WritesLanes c e (.reg d) (.reg a) (c.active k) n (fun _ => f) fun _ _ => 0
     let words := fun f => WritesLanes c e (.reg d) (.reg a) (c.active k) 32 (fun _ => f) fun _ _ => 0
     (e.instr = .vperm d a b k w → writes fun i => x ((y i).toNat % m)) ∧
     (e.instr = .vbcast d a b k w → writes fun _ => x ((y 0).toNat % m)) ∧
     (e.instr = .vslup d a b k w → writes fun i => if (y 0).toNat ≤ i then x (i - (y 0).toNat) else 0) ∧
     (e.instr = .vsldn d a b k w → writes fun i => if i + (y 0).toNat < m then x (i + (y 0).toNat) else 0) ∧
     (e.instr = .vzip d a b k w → writes fun i => if i % 2 = 0 then x (i / 2) else y ((i - 1) / 2)) ∧
     (e.instr = .vunzip d a b k w → writes fun i => if i < m / 2 then x (2 * i) else y (2 * i - m)) ∧
     (e.instr = .vmov d a k w → writes fun i => x i) ∧
     (e.instr = .vsel d a b k w → WritesLanes c e (.reg d) (.reg a) (fun _ => true) n
       (fun _ i => if c.active k i then x i else y i) fun _ _ => 0) ∧
     (e.instr = .vsplat d g k w → writes fun _ => e.x.setWidth n) ∧
     (e.instr = .viota d k w → writes fun i => BitVec.ofNat n i) ∧
     (e.instr = .vrng d a k → words fun i =>
       let p := e.x ^^^ ((elem 32 c.v[a.toNat] i).setWidth 64 * 0x8F3A61D52C97E44B)
       let q := (p ^^^ (p >>> 31)) * 0xB4E5C2197AD3F0A7
       let r := (q ^^^ (q >>> 29)) * 0x8F3A61D52C97E44B
       (r ^^^ (r >>> 32)).setWidth 32) ∧
     (e.instr = .vdqGq4 d a b k → words fun i => BitVec.ofNat 32 (gq4Decode (elem 4 c.v[a.toNat] i).toNat
       (elem 8 c.v[b.toNat] 4).toNat (elem 32 c.v[b.toNat] 0).toNat)) ∧
     (e.instr = .vext g a 0 w → c.compute e = some (c, 0, some (g, (x (e.x.toNat % m)).zeroExtend 64)))) ∧
  (∀ (c : Core) (e : VEntry) (d : VReg) (a : VSrc) (k : Reg3) (t : RType), t.format = none →
     let n := t.width
     let int := fun (v : VWord) i => if t.unsigned then ((elem n v i).toNat : Int) else (elem n v i).toInt
     let lo : Int := if t.unsigned then 0 else -(2 ^ (n - 1))
     let hi : Int := if t.unsigned then 2 ^ n - 1 else 2 ^ (n - 1) - 1
     let act := fun i => (List.range i).filter fun j => c.active k j
     let one := fun (f : VWord → BitVec 32) =>
       WritesVector c e d a fun x v g => v = (f x).zeroExtend 2048 ∧ g = 0
     let all := fun (x : VWord) => (act (2048 / n)).map (int x)
     let runs := fun (f : List Int → Int) => WritesVector c e d a fun x v g => g = 0 ∧ ∀ i, i < 2048 / n →
       elem n v i = if c.active k i then BitVec.ofInt n (f ((act (i + 1)).map (int x))) else elem n c.v[d.toNat] i
     (e.instr = .vrsum d a k t → one fun x => BitVec.ofInt 32 (all x).sum) ∧
     (e.instr = .vrmin d a k t → one fun x => BitVec.ofInt 32 ((all x).foldl min hi)) ∧
     (e.instr = .vrmax d a k t → one fun x => BitVec.ofInt 32 ((all x).foldl max lo)) ∧
     (∀ u : IType, u.rtype = t → e.instr = .vrand d a k u → one fun x =>
       (all x).foldl (fun v i => v &&& BitVec.ofInt 32 i) (BitVec.ofInt 32 (if t.unsigned then 2 ^ n - 1 else -1))) ∧
     (∀ u : IType, u.rtype = t → e.instr = .vror d a k u → one fun x =>
       (all x).foldl (fun v i => v ||| BitVec.ofInt 32 i) 0) ∧
     (e.instr = .vscan d a k t → runs List.sum) ∧
     (e.instr = .vscanmin d a k t → runs fun l => l.foldl min hi) ∧
     (e.instr = .vscanmax d a k t → runs fun l => l.foldl max lo)) ∧
  (∀ (c : Core) (e : VEntry) (d : VReg) (a : VSrc) (k : Reg3) (t : RType) (f : Format), t.format = some f →
     let n := t.width
     let leaf := fun (x : VWord) i => asSingle f (elem n x i).toNat
     let tree := fun (op : Nat → Nat → Rounded) (identity : Nat) => WritesVector c e d a fun x v g =>
       ∀ node : Nat → Nat → Nat × Flags,
         (∀ i, node 0 i = if c.active k i then leaf x i else (identity, 0)) →
         (∀ l i, node (l + 1) i =
           let p := node l (2 * i)
           let q := node l (2 * i + 1)
           ((op p.1 q.1).bits, p.2 ||| q.2 ||| (op p.1 q.1).flags)) →
         v = BitVec.ofNat 2048 ((node (Nat.log2 (2048 / n)) 0).1 % 2 ^ 32) ∧ g = (node (Nat.log2 (2048 / n)) 0).2
     let scan := fun (op : Nat → Nat → Rounded) (identity : Nat) => WritesVector c e d a fun x v g =>
       ∀ acc : Nat → Nat, acc 0 = identity →
         (∀ i, acc (i + 1) = if c.active k i then (op (acc i) (leaf x i).1).bits else acc i) →
         (∀ i, i < 2048 / n → elem n v i = if c.active k i then BitVec.ofNat n (fromSingle f (acc (i + 1))).1
           else elem n c.v[d.toNat] i) ∧
         ∀ j : Nat, g.getLsbD j = true ↔ ∃ i, i < 2048 / n ∧ c.active k i = true ∧
           ((leaf x i).2 ||| (op (acc i) (leaf x i).1).flags ||| (fromSingle f (acc (i + 1))).2).getLsbD j = true
     let add := fun p q => Format.sum .f32 [Format.value .f32 p, Format.value .f32 q] false
     (e.instr = .vrsum d a k t → tree add 0x80000000) ∧
     (e.instr = .vrmin d a k t → tree (Format.minmax .f32 false) 0x7F800000) ∧
     (e.instr = .vrmax d a k t → tree (Format.minmax .f32 true) 0xFF800000) ∧
     (e.instr = .vscan d a k t → scan add 0x80000000) ∧
     (e.instr = .vscanmin d a k t → scan (Format.minmax .f32 false) 0x7F800000) ∧
     (e.instr = .vscanmax d a k t → scan (Format.minmax .f32 true) 0xFF800000))

/-- A stream source consumes the oldest buffered vector, and waits while there is none; a stream destination produces
a vector, and waits while four are buffered; past the pattern's end a source reads zeros, a destination drops its
vector and the stream's over bit is set (07_scratchpad.md R190, R193). `QBIND` reads a descriptor and joins the vector
queue with its binding, or raises ALIGN or ILLEGAL, or ends the task with RANGE for a pattern that leaves the
scratchpad or the partition's segments; `QSTAT` waits for the queue and returns the stream's status; `QFLUSH` joins
the queue (07_scratchpad.md R187, R191, R194, R195). -/
def Obligations.Streams : Prop :=
  (∀ (c : Core) (q : Reg3) (x : Stream) (v : VWord), c.q[q.toNat] = some x →
     (∀ a : VReg, c.source (.reg a) = some (c, c.v[a.toNat]) ∧
       c.deliver v (.reg a) = some { c with v := c.v.set a.toNat v }) ∧
     (∀ (w : VWord) (rest : List VWord), x.pos < x.total → x.buffer = w :: rest →
       c.source (.stream q) = some ({ c with q := c.q.set q.toNat (some { x with pos := x.pos + 1, buffer := rest }) }, w)) ∧
     (x.pos < x.total → x.buffer = [] → c.source (.stream q) = none) ∧
     (x.total ≤ x.pos → c.source (.stream q) =
       some ({ c with q := c.q.set q.toNat (some { x with pos := x.pos + 1, beyond := true }) }, 0)) ∧
     (x.pos < x.total → x.buffer.length < 4 → c.deliver v (.stream q) =
       some { c with q := c.q.set q.toNat (some { x with pos := x.pos + 1, buffer := x.buffer ++ [v] }) }) ∧
     (x.pos < x.total → 4 ≤ x.buffer.length → c.deliver v (.stream q) = none) ∧
     (x.total ≤ x.pos → c.deliver v (.stream q) =
       some { c with q := c.q.set q.toNat (some { x with pos := x.pos + 1, beyond := true }) }) ∧
     (∀ i j l : Nat, i < x.cnt[0] → j < x.cnt[1] → l < x.cnt[2] → x.addr (i + x.cnt[0] * (j + x.cnt[1] * l)) =
       ((x.base : Int) + i * x.str[0] + j * x.str[1] + l * x.str[2]).toNat)) ∧
  (∀ (s : State) (t : Task) (q : Reg3) (a d : GReg), s.current = some t →
     ((t.greg a).toNat % 32 ≠ 0 → Traps (.qbind q a) s t 0x02) ∧
     (∀ (v : State) (bs : List Byte), (t.greg a).toNat % 32 = 0 → s.taskRead t .record (t.greg a) 4 = (v, .bytes bs) →
       v.watermarked t.ci (t.greg a) 32 = false →
       (parseStream bs = none → exec (.qbind q a) s = .next (trapState v t 0x01)) ∧
       (∀ x : Stream, parseStream bs = some x → (x.extent.1 < 0 ∨ 0x3FFFF < x.extent.2) → exec (.qbind q a) s = .next
         ((v.failLaunch t.part t.launchid 2 0x05 t.sid).discardTasks fun u => u.uid == t.uid)) ∧
       (∀ x : Stream, parseStream bs = some x → 0 ≤ x.extent.1 → x.extent.2 ≤ 0x3FFFF →
         v.segmentsOf t.ci x.extent.1.toNat x.extent.2.toNat t.part = true → (v.core t.ci).vq.length < 32 →
         Pushes (.qbind q a) s v t .none 0 0 0 0 (some x))) ∧
     ((s.core t.ci).vq ≠ [] ∨ s.drainable t.ci q = false → exec (.qstat d q) s = .next (s.stall t .none)) ∧
     ((s.core t.ci).vq = [] → (s.core t.ci).q[q.toNat] = none → ∃ u : State, exec (.qstat d q) s = .next (u.putTask (t.setG d 0).past) ∧
       u.Alike s) ∧
     (∀ x : Stream, (s.core t.ci).vq = [] → s.drainable t.ci q = true → (s.core t.ci).q[q.toNat] = some x → ∃ u : State, exec (.qstat d q) s =
       .next (u.putTask (t.setG d (BitVec.ofNat 64 (2 ^ 63 + (if x.output then 2 ^ 62 else 0) +
         (if x.beyond then 2 ^ 61 else 0) + x.pos % 2 ^ 32))).past) ∧ u.tasks = s.tasks ∧
         (x.output = false → u.Alike s)) ∧
     ((s.core t.ci).vq.length < 32 → Pushes (.qflush q) s s t .none 0 0 0 0 none))

/-- A matrix instruction joins its core's matrix queue and is counted in `mx`; what raises ILLEGAL, ALIGN or RANGE is
checked at issue, a full queue or class stalls it, and issue of the task waits for `MCHK` (08_matrix.md R212, R217 to
R229; 05_tasks.md R143, R144). What `MLDB`, `MLDC`, `MPROG` and `MST` do at the memory port, once their addresses are
checked and, for a load, read: the latch, the tile with its checksums where they are kept, the microprogram or the
software error of an invalid one, and the stored elements, the entry staying until its writes have been made
(08_matrix.md R219, R223, R224, R226; 02_numbers.md R48; 07_scratchpad.md R198). -/
def Obligations.MatrixPushes : Prop :=
  (∀ (s : State) (t : Task) (x : TReg) (a b c : GReg) (raise fix : Bool), s.current = some t → t.mx < 30 →
     (s.core t.ci).mq.length < 16 →
     let u := t.greg a
     let v := t.greg b
     let w := t.greg c
     let ctx := (s.core t.ci).pushedWord s.clock
     (validContext u = true → PushesMatrix (.mctx a) s t u 0 0 false) ∧ (validContext u = false → Traps (.mctx a) s t 0x01) ∧
     (u.toNat % 16 = 0 → PushesMatrix (.mprog a) s t u 0 0 false) ∧ (u.toNat % 16 ≠ 0 → Traps (.mprog a) s t 0x02) ∧
     (u.toNat % 8 = 0 → v.toNat % 4 = 0 → PushesMatrix (.mscale a b) s t u v 0 false) ∧
     (u.toNat % 8 ≠ 0 ∨ v.toNat % 4 ≠ 0 → Traps (.mscale a b) s t 0x02) ∧
     PushesMatrix (.mzero x) s t 0 0 0 false ∧
     (u.toNat % 64 = 0 → PushesMatrix (.mldb a) s t u 0 0 false) ∧ (u.toNat % 64 ≠ 0 → Traps (.mldb a) s t 0x02) ∧
     (u.toNat % 64 = 0 → v.toNat % 64 = 0 → PushesMatrix (.mldc x a b) s t u v 0 false) ∧
     (u.toNat % 64 ≠ 0 ∨ v.toNat % 64 ≠ 0 → Traps (.mldc x a b) s t 0x02 ∧ Traps (.mst x a b) s t 0x02) ∧
     (u.toNat % 64 = 0 → v.toNat % 64 = 0 → ctxOvp ctx ≠ .trap → PushesMatrix (.mst x a b) s t u v 0 false) ∧
     (u.toNat % 64 = 0 → v.toNat % 64 = 0 → ctxOvp ctx = .trap → (s.core t.ci).mq ≠ [] →
       exec (.mst x a b) s = .next (s.stall t .none)) ∧
     (u.toNat % 64 = 0 → v.toNat % 64 = 0 → ctxOvp (s.core t.ci).mctx.word = .trap → (s.core t.ci).mq = [] →
       ((s.core t.ci).mctx.tile x).bad = [] →
       ((storePieces (s.core t.ci).mctx.word ((s.core t.ci).mctx.tile x) 0 0 = none → Traps (.mst x a b) s t 0x03) ∧
        (storePieces (s.core t.ci).mctx.word ((s.core t.ci).mctx.tile x) 0 0 ≠ none →
         PushesMatrix (.mst x a b) s t u v 0 true))) ∧
     (let k := v.toNat % 2 ^ 9
      let ko := v.toNat / 2 ^ 16 % 2 ^ 9
      let bad := v.toNat / 2 ^ 25 ≠ 0 ∨ v.toNat / 2 ^ 9 % 2 ^ 7 ≠ 0 ∨ k = 0 ∨ latchRows (ctxB ctx) < ko + k
      let ready := ctxRec ctx = true → (s.core t.ci).mctx.prog ≠ [] ∨ ∃ e ∈ (s.core t.ci).mq, ∃ r, e.instr = .mprog r
      (bad ∨ ¬ ready → Traps (.mma x a b c) s t 0x01) ∧
      (¬ bad → ready → u.toNat % 64 ≠ 0 ∨ w.toNat % 64 ≠ 0 → Traps (.mma x a b c) s t 0x02) ∧
      (¬ bad → ready → u.toNat % 64 = 0 → w.toNat % 64 = 0 → s.operandFits t ctx u v w = false →
       exec (.mma x a b c) s = .next
         ((s.failLaunch t.part t.launchid 2 0x05 t.sid).discardTasks fun y => y.uid == t.uid)) ∧
      (¬ bad → ready → u.toNat % 64 = 0 → w.toNat % 64 = 0 → s.operandFits t ctx u v w = true →
       PushesMatrix (.mma x a b c) s t u v w false)) ∧
     (let holder := (s.die t.die).mrallot.toNat / 2 ^ (4 * (4 * (quadOf t.ci % 64 / 8) + t.ci % 4)) % 16
      (holder = t.part → PushesMatrix .mring s t 0 0 0 false) ∧ (holder ≠ t.part → Traps .mring s t 0x01)) ∧
     (ctxAcc ctx = true → (u.extractLsb' 0 32).toInt < 0 → Traps (.mchk x a c raise fix) s t 0x01) ∧
     (ctxAcc ctx = true → 0 ≤ (u.extractLsb' 0 32).toInt → PushesMatrix (.mchk x a c raise fix) s t u 0 0 true) ∧
     (ctxAcc ctx = false → (t.single a).isNan = true ∨ ((t.single a).sign = true ∧ (t.single a).isZero = false) →
       Traps (.mchk x a c raise fix) s t 0x01) ∧
     (ctxAcc ctx = false → (t.single a).isNan = false → (t.single a).sign = false ∨ (t.single a).isZero = true →
       PushesMatrix (.mchk x a c raise fix) s t u 0 0 true)) ∧
  (∀ (s v w : State) (ci : Nat) (e : MEntry) (t : Task) (ls : List Loc) (bss : List (List Byte)) (x : TReg) (a b : GReg),
     s.unitsRun ci = true → (s.core ci).mq = [e] → s.task? e.uid = some t → e.pending = 0 → e.dropped = false →
     let m := (s.core ci).mctx
     let g := e.agent ci 0
     let step := exec (.matrixMemoryPort ci) s
     let bytes := bss.flatten
     let lines := fun (p : Word) (o n k : Nat) => (List.range n).map fun i => (p + BitVec.ofNat 64 (o + k * i), k)
     let reads := fun (as_ : List (Word × Nat)) (effect : State → Prop) => s.readsOrdered ci e = true →
       s.unitCheck t g .mread .none as_ = (v, .ok ls) →
       v.unitRead t g (List.zip ls (as_.map (·.2))) = (w, .bytes bss) → ∃ u, step = .next u ∧ (u.core ci).mq = [] ∧ effect u
     (e.instr = .mldb a →
       let n := if ctxB m.word = 5 then 8192 else 16384
       reads (if ctxB m.word ≠ 5 then lines e.x 0 256 64
         else if ctxSsrc m.word = 0 then lines e.x 0 128 64 ++ lines e.x 8192 4 64 ++ [(e.x + 8448, 4)]
         else lines e.x 0 128 64 ++ lines m.bsa 0 32 8 ++ [(m.ssa, 4)]) fun u => u.mem = w.mem ∧
           (u.core ci).mctx = { (w.core ci).mctx with latch :=
             { data := bytes.take n, scales := (bytes.drop n).take 256
               scale := BitVec.ofNat 32 (leNat ((bytes.drop (n + 256)).take 4)), owner := some e.owner } }) ∧
     (e.instr = .mldc x a b →
       let row := fun i => BitVec.ofNat 2048 (leNat ((bytes.drop (256 * i)).take 256))
       let sum := fun (xs : List Nat) => if ctxAcc m.word then xs.sum % 2 ^ 32
         else (Format.sum .f32 (xs.map (Format.value .f32)) false).bits
       reads ((List.range 64).flatMap fun i => (List.range 4).map fun j =>
         (e.x + e.y * BitVec.ofNat 64 i + BitVec.ofNat 64 (64 * j), 64)) fun u =>
           let y := (u.core ci).mctx.tile x
           u.mem = w.mem ∧ (∀ i, i < 64 → y.row i = row i) ∧ y.cv = ctxChk m.word ∧
           (ctxChk m.word = true → ∀ i, i < 64 →
             elem 32 y.cr i = BitVec.ofNat 32 (sum ((List.range 64).map fun j => (elem 32 (row i) j).toNat)) ∧
             elem 32 y.cc i = BitVec.ofNat 32 (sum ((List.range 64).map fun j => (elem 32 (row j) i).toNat))) ∧
           ∀ o, o ≠ x → (u.core ci).mctx.tile o = (w.core ci).mctx.tile o) ∧
     (e.instr = .mprog a →
       (∀ p, parseProgram bytes = some p → reads [(e.x, 16)] fun u => u.mem = w.mem ∧
         (u.core ci).mctx = { (w.core ci).mctx with prog := p }) ∧
       (parseProgram bytes = none → reads [(e.x, 16)] fun u =>
         u = ((w.finishMatrix ci e 0).failLaunch t.part t.launchid 2 0x01 t.sid).discardTasks fun y => y.uid == t.uid)) ∧
     (∀ (bs : List Byte) (p : List (BitVec 32)), bs.length = 16 → (parseProgram bs = some p ↔
       1 ≤ p.length ∧ p.length ≤ 4 ∧ (∀ o ∈ p, o.toNat < 2 ^ 16 ∧ validOp o = true) ∧
         leNat bs = (p.zipIdx.map fun o => o.1.toNat * 2 ^ (16 * o.2)).sum + p.length * 2 ^ 64)) ∧
     (∀ (ps : List (Word × List Byte)) (fl : Flags), e.instr = .mst x a b → e.stored = false → (m.tile x).bad = [] →
       (m.tile x).badSums = false → storePieces m.word (m.tile x) e.x e.y = some (ps, fl) →
       s.unitCheck t g .mwrite .store (ps.map fun p => (p.1, p.2.length)) = (v, .ok ls) →
       let xs := List.zipWith (fun (p : Word × List Byte) l => (p.1, l, p.2)) ps ls
       v.unitHits xs = false → step = .next ((v.setMatrix ci { e with stored := true, flags := fl }).unitStore t
         (e.agent ci (storeBytes m.word)) xs)) ∧
     (e.instr = .mst x a b → e.stored = true → (s.opPending e.serial = true → step = .next s) ∧
       (s.opPending e.serial = false → ∃ u, step = .next u ∧ (u.core ci).mq = [] ∧ u.mem = s.mem ∧
         u.task? t.uid = some { t with fsr := t.fsr ||| e.flags })) ∧
     (∀ (y : Tile) (p q : Word) (ps : List (Word × List Byte)) (fl : Flags), storePieces m.word y p q = some (ps, fl) →
       let n := storeBytes m.word
       ps.length = 64 * n ∧ (∀ i k, i < 64 → k < n → (ps.getD (n * i + k) (0, [])).1 =
         p + q * BitVec.ofNat 64 i + BitVec.ofNat 64 (64 * k)) ∧
       (∀ i j, i < 64 → j < 64 → ∃ r, storeElement m.word (elem 32 (y.row i) j).toNat = some r ∧
         (((ps.getD (n * i + n * j / 64) (0, [])).2).drop (n * j % 64)).take n = leBytes n r.1) ∧
       ∀ f : Nat, fl.getLsbD f = true ↔ ∃ i j r, i < 64 ∧ j < 64 ∧
         storeElement m.word (elem 32 (y.row i) j).toNat = some r ∧ r.2.getLsbD f = true))

/-- The copy instructions push a copy with its rows onto a channel, counted in `cp`; a copy of no bytes or of more
than 2^40, and a malformed descriptor, raise ILLEGAL, a misaligned one ALIGN; bytes that the task may not reach end it
with RANGE; a full channel stalls issue. `CPYBIND` binds, `CPYWM` reads the watermark, `CPYCAN` empties the channel,
once what the begun copy has written has left the interface, and leaves its binding (12_copy.md R306 to R319). An
engine moves 64 bytes in a cycle, in sectors of 32: a copy within a scratchpad takes exactly those bytes from its
source to its destination and goes on at its next byte; one that has moved everything leaves its channel and its
task's `cp` count. An engine with nothing to move changes nothing (12_copy.md R305, R306, R310). -/
def Obligations.Copies : Prop :=
  (∀ (s : State) (t : Task) (ch : Reg3) (a b c : GReg), s.current = some t →
     let u := (t.greg a).toNat
     let v := (t.greg b).toNat
     let n := (t.greg c).toNat
     let x := s.chan t.ci ch
     let pushed := fun (s : State) (k : Copy) =>
       let z : Copy := { k with serial := s.clock + 1, uid := t.uid }
       ({ s with clock := s.clock + 1 }.modChan t.ci ch.toNat fun y => { y with copies := y.copies ++ [z] }).putTask
         { t.past with cp := t.cp + 1 }
     let rangeEnd := fun (s : State) =>
       (s.failLaunch t.part t.launchid 2 0x05 t.sid).discardTasks fun u => u.uid == t.uid
     (n = 0 ∨ 2 ^ 40 < n → Traps (.cpy ch a b c) s t 0x01) ∧
     (0 < n → n ≤ 2 ^ 40 → s.openSpan t spanFuel u n = true → s.openSpan t spanFuel v n = true → x.copies.length < 16 →
       t.cp < 30 → exec (.cpy ch a b c) s =
         .next (pushed s { serial := 0, uid := 0, op := .plain, dst := u, src := v, len0 := n })) ∧
     (0 < n → n ≤ 2 ^ 40 → (s.openSpan t spanFuel u n = false ∨ s.openSpan t spanFuel v n = false) →
       exec (.cpy ch a b c) s = .next (rangeEnd s)) ∧
     (0 < n → n ≤ 2 ^ 40 → s.openSpan t spanFuel u n = true → s.openSpan t spanFuel v n = true →
       (16 ≤ x.copies.length ∨ 30 ≤ t.cp) → exec (.cpy ch a b c) s = .next (s.stall t .none)) ∧
     (n % 64 ≠ 0 → Traps (.cpy2d ch a b c) s t 0x02) ∧
     (∀ (w : State) (bs : List Byte), n % 64 = 0 → s.taskRead t .record (t.greg c) 8 = (w, .bytes bs) →
       w.watermarked t.ci (t.greg c) 64 = false →
       let d := leNat bs
       let sd := fun i : Nat => (BitVec.ofNat 64 (d / 2 ^ i)).toInt
       let k : Copy := { serial := 0, uid := 0, op := .plain, dst := u, src := v, len0 := d % 2 ^ 32, sstr1 := sd 64,
                         cnt1 := d / 2 ^ 32 % 2 ^ 16, cnt2 := d / 2 ^ 48 % 2 ^ 16, sstr2 := sd 128, dstr1 := sd 192,
                         dstr2 := sd 256 }
       let bad := d / 2 ^ 320 % 2 ^ 192 ≠ 0 ∨ k.len0 = 0 ∨ k.cnt1 = 0 ∨ k.cnt2 = 0 ∨ 2 ^ 40 < k.len0 * k.cnt1 * k.cnt2
       (bad → exec (.cpy2d ch a b c) s = .next (trapState w t 0x01)) ∧
       (¬ bad → w.openRows t k k.dst k.dstr1 k.dstr2 = true → w.openRows t k k.src k.sstr1 k.sstr2 = true →
         (w.chan t.ci ch).copies.length < 16 → t.cp < 30 → exec (.cpy2d ch a b c) s = .next (pushed w k))) ∧
     (n % 32 ≠ 0 → Traps (.cpyec ch a b c) s t 0x02) ∧
     (∀ (w : State) (bs : List Byte), n % 32 = 0 → s.taskRead t .record (t.greg c) 4 = (w, .bytes bs) →
       w.watermarked t.ci (t.greg c) 32 = false →
       let d := leNat bs
       let len := d % 2 ^ 40
       let old := d / 2 ^ 64 % 2 ^ 64
       let delta := d.testBit 48
       let far := u % 32 ≠ 0 ∨ v % 32 ≠ 0 ∨ old % 32 ≠ 0
       let bad := d / 2 ^ 128 % 2 ^ 128 ≠ 0 ∨ d / 2 ^ 49 % 2 ^ 15 ≠ 0 ∨ len = 0 ∨ len % 32 ≠ 0 ∨ (delta = false ∧ old ≠ 0)
       let k : Copy := { serial := 0, uid := 0, dst := u, src := v, len0 := len,
                         op := .parity (BitVec.ofNat 8 (d / 2 ^ 40)) (if delta then some old else none) }
       (far → exec (.cpyec ch a b c) s = .next (trapState w t 0x02)) ∧
       (¬ far → bad → exec (.cpyec ch a b c) s = .next (trapState w t 0x01)) ∧
       (¬ far → ¬ bad → w.openSpan t spanFuel u len = true → w.openSpan t spanFuel v len = true →
         (delta = true → w.openSpan t spanFuel old len = true) → (w.chan t.ci ch).copies.length < 16 → t.cp < 30 →
         exec (.cpyec ch a b c) s = .next (pushed w k))) ∧
     (v % 32 ≠ 0 ∨ (v ≠ 0 ∧ u % 32 ≠ 0) → Traps (.cpybind ch a b) s t 0x02) ∧
     (v % 32 = 0 → v ≠ 0 → u % 32 = 0 → (u = 0 ∨ 2 ^ 40 < v ∨ canonical (BitVec.ofNat 64 (u + v - 1)) = false) →
       Traps (.cpybind ch a b) s t 0x01) ∧
     (v % 32 = 0 → v ≠ 0 → u % 32 = 0 → u ≠ 0 → v ≤ 2 ^ 40 → canonical (BitVec.ofNat 64 (u + v - 1)) = true →
       (x.copies = [] → exec (.cpybind ch a b) s = .next ((State.modChan { s with clock := s.clock + 1 } t.ci ch.toNat
         fun y => { y with bound := some (u, v), stamp := s.clock + 1, wm := u, written := [] }).putTask t.past)) ∧
       (x.copies ≠ [] → exec (.cpybind ch a b) s = .next (s.stall t .none))) ∧
     (v = 0 → x.copies = [] → ∃ w, exec (.cpybind ch a b) s = .next w ∧ (w.chan t.ci ch).bound = none ∧
       w.tasks = (s.putTask t.past).tasks) ∧
     Completes (.cpywm ch c) s (t.setG c (if x.bound.isSome then BitVec.ofNat 64 x.wm else 0)) ∧
     ((∀ h k, t.wait ≠ .cancelled h k) → (∀ k ∈ x.copies, k.uid = t.uid ∧ k.stopAt = none) →
       let gone := fun (w : State) (left : List Copy) => (w.chan t.ci ch).copies = left ∧ (w.chan t.ci ch).bound = x.bound ∧
         (w.chan t.ci ch).wm = x.wm ∧ w.mem = s.mem ∧ ∀ h : Reg3, h ≠ ch → w.chan t.ci h = s.chan t.ci h
       ((∀ k m, x.copies.head? = some k → k.begun = true → m ∈ s.fab.out → m.op ≠ k.serial) → ∃ w, exec (.cpycan ch) s = .next w ∧
         gone w [] ∧ w.task? t.uid = some { t.past with cp := t.cp - x.copies.length }) ∧
       (∀ (k : Copy) (rest : List Copy) (m : OutMsg), x.copies = k :: rest → k.begun = true → m ∈ s.fab.out → m.op = k.serial →
         ∃ w, exec (.cpycan ch) s = .next w ∧ (w.core t.ci).stalled = true ∧
           gone w [{ k with stopAt := some k.pos, held := [], again := [], restart := false }] ∧
           w.task? t.uid = some { t with wait := .cancelled ch.toNat k.serial, cp := t.cp - rest.length })) ∧
     (∀ (h k : Nat), t.wait = .cancelled h k →
       ((∀ y ∈ x.copies, y.serial ≠ k) → Completes (.cpycan ch) s t) ∧
       ((∃ y ∈ x.copies, y.serial = k) → exec (.cpycan ch) s = .next (s.stall t t.wait)))) ∧
  ((∀ (s : State) (d e : Nat), (∀ x ∈ engineChannels d e, s.movable x.1 x.2 = false) →
     exec (.copyEngineCycle d e) s = .next s) ∧
   (∀ (s : State) (d e : Nat) (t : Task) (ch : Reg3) (c : Copy) (from_ to_ : Nat),
     (t.ci, ch.toNat) ∈ engineChannels d e →
     (∀ x ∈ engineChannels d e, x ≠ (t.ci, ch.toNat) → s.movable x.1 x.2 = false) →
     (s.chan t.ci ch).copies = [c] → (s.chan t.ci ch).bound = none → s.enginesRun t.ci = true → c.op = .plain →
     c.held = [] → c.again = [] → c.pos = 0 → c.restart = false → c.stopAt = none → c.cnt1 = 1 → c.cnt2 = 1 → 64 ≤ c.len0 →
     c.src = 0xFFFFFFFFFFFC0000 + from_ → c.dst = 0xFFFFFFFFFFFC0000 + to_ → from_ % 32 = 0 → to_ % 32 = 0 →
     from_ + c.len0 ≤ 0x40000 → to_ + c.len0 ≤ 0x40000 → (from_ + 64 ≤ to_ ∨ to_ + 64 ≤ from_) →
     s.task? c.uid = some t → (∀ o, o < 0x40000 → s.segmentPart t.ci o = t.part) → t.dual = .single → t.overlay = [] →
     s.queued = [] → s.flips = [] → s.poison = [] → t.ci < 2048 →
     (∀ r ∈ s.requests, r.who.task ≠ t.uid ∧ homePlace r.pa ≠ homePlace (scratchKey t.ci to_)) →
     (∀ x ∈ s.tasks, x.uid = t.uid → x = t) →
     ∃ u, exec (.copyEngineCycle d e) s = .next u ∧
       (∀ i, i < 64 → u.byte (scratchKey t.ci (to_ + i)) = s.byte (scratchKey t.ci (from_ + i))) ∧
       (∀ a, (a < scratchKey t.ci to_ ∨ scratchKey t.ci to_ + 64 ≤ a) → u.byte a = s.byte a) ∧
       (64 < c.len0 → (u.chan t.ci ch).copies = [{ c with pos := 64, begun := true }] ∧ u.tasks = s.tasks) ∧
       (c.len0 = 64 → s.fab.out = [] → (u.chan t.ci ch).copies = [] ∧
         u.tasks = (s.modTask t.uid fun x => { x with cp := x.cp - 1 }).tasks)))

/-- `SEND` copies its bytes as a message for a ring of a sibling core or its own, and a message is placed as a record
behind TAIL with its length and sender: an empty ring first has TAIL and HEAD brought up to a multiple of its size, a
record that would run past the ring's end stands at its start behind a SKIP record, and one that is larger than the
ring is placed with OVR and no payload; one that does not fit is held, and after the bound FULLEV and FULLCNT are set
once. `RECV` takes the first record at HEAD that is no SKIP record into its buffer, of one with OVR nothing, clears
FULLEV and returns its status, and parks as MBOX at an empty ring (07_scratchpad.md R204 to R209). -/
def Obligations.MailboxMessages : Prop :=
  (∀ (s : State) (t : Task) (d a b : GReg) (rc ro bo : Nat), s.current = some t →
    let len := (t.greg d).toNat
    (len = 0 ∨ 4096 < len → Traps (.send d a b) s t 0x01) ∧
    (0 < len → len ≤ 4096 → ((t.greg a).toNat % 64 ≠ 0 ∨ (t.greg b).toNat % 8 ≠ 0) → Traps (.send d a b) s t 0x02) ∧
    (0 < len → len ≤ 4096 → (t.greg a).toNat % 64 = 0 → (t.greg b).toNat % 8 = 0 →
      scratchOf t.ci (t.greg a) = some (rc, ro) → ownOffset t.ci (t.greg b) = some bo →
      s.segmentPart rc ro = t.part → s.ownScratch t.ci t.part bo len = true → t.dual = .single → t.overlay = [] →
      s.queued = [] → s.flips = [] → s.poison = [] →
      ((s.core t.ci).sends.length < 4 → s.ownDrained t = false → exec (.send d a b) s = .next (s.stall t t.wait)) ∧
      ((s.core t.ci).sends.length < 4 → s.ownDrained t = true →
        let k := scratchKey t.ci bo
        let e : SendEntry := { who := s.who t, ring := scratchKey rc ro, order := s.clock + 1, phase := t.phase,
                               payload := forwarded (ownRequests s t k len) k len (s.bytes k len) }
        exec (.send d a b) s = .next (({ s with clock := s.clock + 1 }.modCore t.ci fun c =>
          { c with sends := c.sends ++ [e] }).putTask t.past)) ∧
      (4 ≤ (s.core t.ci).sends.length → exec (.send d a b) s = .next (s.stall t .none)))) ∧
  (∀ (s : State) (ci : Nat) (e : SendEntry) (rest : List SendEntry) (r : Ring), (s.core ci).sends = e :: rest →
    s.halted (scratchCore e.ring) = false → (∀ x, .send x ∈ (s.core (scratchCore e.ring)).diverted → x.ring ≠ e.ring) →
    s.ring e.ring = some r → r.inside e.ring = true → s.queued = [] →
    (∀ q ∈ s.requests, q.who.task = e.who.task → q.plain = false) →
    let len := e.payload.length
    let tail := if r.tail = r.head then (r.tail + r.size - 1) / r.size * r.size % 2 ^ 32 else r.tail
    let head := if r.tail = r.head then tail else r.head
    let free := r.size - (tail + 2 ^ 32 - head) % 2 ^ 32
    let off := tail % r.size
    let run := r.size - off
    let ovr := decide (r.size < 8 + (len + 7) / 8 * 8)
    let z := if ovr then 8 else 8 + (len + 7) / 8 * 8
    let placed := fun (u : State) (o n : Nat) =>
      exec (.mailboxPlacement ci 0) s = .next u ∧ (u.core ci).sends = rest ∧
      u.word (e.ring + 64 + o) 8 = len + z * 2 ^ 16 + (if ovr then 2 ^ 34 else 0) + e.who.sid * 2 ^ 35 ∧
      (ovr = false → u.bytes (e.ring + 72 + o) len = e.payload) ∧ u.word e.ring 4 = (tail + n) % 2 ^ 32 ∧
      u.word (e.ring + 4) 4 = head
    let outside := fun (a o n : Nat) => a < e.ring + o ∨ e.ring + o + n ≤ a
    (len ≤ 4096 → e.who.sid < 2 ^ 15 → z ≤ run → z ≤ free → ∃ u, placed u off z ∧
      ∀ a, outside a 0 8 → outside a (64 + off) z → u.byte a = s.byte a) ∧
    (len ≤ 4096 → e.who.sid < 2 ^ 15 → run < z → run + z ≤ free → ∃ u, placed u 0 (run + z) ∧
      u.word (e.ring + 64 + off) 8 = run * 2 ^ 16 + 2 ^ 33 + e.who.sid * 2 ^ 35 ∧
      ∀ a, outside a 0 8 → outside a 64 z → outside a (64 + off) 8 → u.byte a = s.byte a) ∧
    (free < z ∨ (run < z ∧ free < run + z) → exec (.mailboxPlacement ci 0) s = .next
      (s.setCore ci { s.core ci with sends := { e with held := true } :: rest }))) ∧
  (∀ (s : State) (ci : Nat) (e : SendEntry) (rest : List SendEntry), (s.core ci).sends = e :: rest → e.held = true →
    s.queued = [] →
    e.fullDone = false → ∃ u, exec (.ringFullTimeout ci 0) s = .next u ∧ (u.core ci).sends = { e with fullDone := true } :: rest ∧
      u.byte (e.ring + 16) = s.byte (e.ring + 16) ||| 1 ∧ u.word (e.ring + 24) 4 = (s.word (e.ring + 24) 4 + 1) % 2 ^ 32 ∧
      ∀ a, a ≠ e.ring + 16 → (a < e.ring + 24 ∨ e.ring + 28 ≤ a) → u.byte a = s.byte a) ∧
  (∀ (s : State) (t : Task) (d a b : GReg) (ro bo : Nat) (r : Ring), s.current = some t → s.vectorMemory t.ci = false →
    s.ownDrained t = true →
    ((t.greg a).toNat % 64 ≠ 0 ∨ (t.greg b).toNat % 8 ≠ 0 → Traps (.recv d a b) s t 0x02) ∧
    ((t.greg a).toNat % 64 = 0 → (t.greg b).toNat % 8 = 0 → ownOffset t.ci (t.greg a) = some ro →
      ownOffset t.ci (t.greg b) = some bo → s.flips = [] → s.poison = [] →
      let cap := (t.greg d).toNat
      let key := scratchKey t.ci ro
      (s.ownScratch t.ci t.part ro 64 = false ∨ s.ownScratch t.ci t.part bo cap = false →
        exec (.recv d a b) s = .next (s.softwareError t 0x05)) ∧
      (s.ownScratch t.ci t.part ro 64 = true → s.ownScratch t.ci t.part bo cap = true →
        (s.ring key = none → Traps (.recv d a b) s t 0x01) ∧
        (s.ring key = some r → s.ownScratch t.ci t.part ro (64 + r.size) = false →
          exec (.recv d a b) s = .next (s.softwareError t 0x05)) ∧
        (s.ring key = some r → s.ownScratch t.ci t.part ro (64 + r.size) = true →
          (let x := s.pastSkips key r (r.size / 8)
           (x.tail = x.head → exec (.recv d a b) s = .next (s.park t .mbox (.mailbox (BitVec.ofNat 64 key)))) ∧
           (x.tail ≠ x.head →
            let m := key + 64 + x.head % r.size
            let h := s.word m 8
            let len := h % 2 ^ 16
            let ovr := h.testBit 34
            let n := if ovr then 0 else min len cap
            (s.core t.ci).mq = [] → (bo + n ≤ ro ∨ ro + 64 + r.size ≤ bo) → s.queued = [] → s.requests = [] →
            ∃ u w, exec (.recv d a b) s = .next u ∧ u.task? t.uid = some w ∧
              w.Alike (t.setG d (BitVec.ofNat 64 (len + (if cap < len then 2 ^ 16 else 0) + (if ovr then 2 ^ 17 else 0) +
                (if r.fullev then 2 ^ 18 else 0) + h / 2 ^ 35 % 2 ^ 15 * 2 ^ 20))).past ∧
              u.bytes (scratchKey t.ci bo) n = s.bytes (m + 8) n ∧ u.byte (key + 16) = s.byte (key + 16) &&& 0xFE#8 ∧
              u.word (key + 4) 4 = (x.head + h / 2 ^ 16 % 2 ^ 17) % 2 ^ 32))))))

/-- Fences, barriers, phases and event lines: what each waits for, and what it does when that holds; and the
happenings that let a task go on (11_order.md R291 to R301; 05_tasks.md R152, R153). A task at a barrier goes on at
its next instruction once the barrier is complete: every task and queue entry of its launch in the unit has arrived; a
task that has entered a phase becomes READY once nobody of its launch in the unit is left in it; an arrival message of
the current reset epoch is kept, once, and a withdrawal takes it away (11_order.md R293, R294, R295, R303; 05_tasks.md
R153; 13_fabric.md R345). -/
def Obligations.OrderAndBarriers : Prop :=
  (∀ (s : State) (t : Task), s.current = some t → t.wait = .none → t.arrival = none →
     let quiet := t.st = 0 ∧ t.cp = 0 ∧ t.mx = 0
     let idle := s.requests = [] ∧ s.queued = []
     (∀ sc : Scope, ∃ u : State, exec (.fence .acq sc) s = .next (u.putTask t.past) ∧ (s.requests = [] → u.Alike s)) ∧
     (∀ (o : FenceOrder) (sc : Scope), o ≠ .acq →
       (s.ownDrained t = true → ∃ (u : State) (w : Task), w.Alike t ∧ exec (.fence o sc) s = .next (u.putTask w.past) ∧
         (o = .rel ∨ idle → u.Alike s)) ∧
       (s.ownDrained t = false → exec (.fence o sc) s = .next (s.stall t .none))) ∧
     (∀ (a : GReg) (sc : Scope), t.greg a = 0 → (quiet → s.released t = true → exec (.bar a sc) s =
         .next (s.stall { t with bar := t.bar + 1, arrival := some ⟨sc, none, false⟩ } .barrier)) ∧
       (¬ quiet ∨ s.released t = false → exec (.bar a sc) s = .next (s.stall t .none))) ∧
     (∀ (a : GReg) (sc : Scope) (n id p : Nat), t.greg a ≠ 0 → quiet → t.dual = .shadow p →
       s.explicitBarrier t sc (t.greg a).toNat = some (id, n) →
       ((∀ x, s.task? p = some x → t.events < x.events) → ∃ (u : State) (w : Task), w.Alike t ∧
         exec (.bar a sc) s = .next (u.putTask w.past) ∧ (idle → u.Alike s)) ∧
       (∀ x, s.task? p = some x → x.events ≤ t.events → exec (.bar a sc) s = .next (s.stall t .none))) ∧
     (∀ (a : GReg) (sc : Scope) (n id : Nat), t.greg a ≠ 0 →
       (s.explicitBarrier t sc (t.greg a).toNat = none → Traps (.bar a sc) s t 0x01) ∧
       (s.explicitBarrier t sc (t.greg a).toNat = some (id, n) → quiet → t.isShadow = false → s.released t = true →
         let b := s.barrierAt t sc id
         (b.arrived ≠ [] → b.expected ≠ n → Traps (.bar a sc) s t 0x01) ∧
         ((b.arrived = [] ∨ b.expected = n) → b.arrived.length + 1 < n → exec (.bar a sc) s = .next
           ((s.setBarrier t sc id ⟨n, b.arrived ++ [t.uid]⟩).stall { t with arrival := some ⟨sc, some id, false⟩ }
             .barrier)) ∧
         (b.arrived = [] → n = 1 → ∃ (u : State) (w : Task), w.Alike t ∧ exec (.bar a sc) s = .next (u.putTask w.past) ∧
           (idle → u.Alike (s.setBarrier t sc id {}))) ∧
         (∀ (x : Task) (y : Arrival), b.arrived = [x.uid] → b.expected = 2 → n = 2 → x.uid ≠ t.uid →
           s.task? x.uid = some x → x.arrival = some y →
           ∃ (u : State) (w : Task), w.Alike t ∧ exec (.bar a sc) s = .next (u.putTask w.past) ∧
             (s.flips = [] → (u.task? x.uid).map (·.arrival) = some (some { y with done := true }) ∧
               (u.barrierAt t sc id).arrived = [])))) ∧
     (∀ sc : Scope, (quiet → t.fb = 0 → s.released t = true → exec (.phase sc) s = .next
         (s.park { t.advance with phase := t.phase + 1, bar := 0 } .dep (.phase sc t.phase))) ∧
       (¬ (quiet ∧ t.fb = 0) ∨ s.released t = false → exec (.phase sc) s = .next (s.stall t .none))) ∧
     (∀ n : BitVec 5, let q := s.quad (quadOf t.ci)
       let c := q.lines[n.toNat]
       (q.linePart n.toNat ≠ t.part → Traps (.evsig n) s t 0x01 ∧ Traps (.evwait n) s t 0x01) ∧
       (q.linePart n.toNat = t.part → s.released t = true → t.isShadow = true → Completes (.evsig n) s t) ∧
       (q.linePart n.toNat = t.part → s.released t = false → exec (.evsig n) s = .next (s.stall t .none)) ∧
       (q.linePart n.toNat = t.part → s.released t = true → t.isShadow = false → ∃ u, exec (.evsig n) s = .next u ∧
         u.tasks = (s.putTask t.past).tasks ∧ u.mem = s.mem ∧ u.cores = s.cores ∧
         u.quad (quadOf t.ci) = { q with lines := q.lines.set n.toNat (if c = 65535 then c else c + 1) }) ∧
       (∀ p, q.linePart n.toNat = t.part → t.dual = .shadow p →
         ((∀ x, s.task? p = some x → t.events < x.events) → ∃ (u : State) (w : Task), w.Alike t ∧
           exec (.evwait n) s = .next (u.putTask w.past) ∧ (idle → u.Alike s)) ∧
         (∀ x, s.task? p = some x → x.events ≤ t.events → exec (.evwait n) s = .next (s.stall t .none))) ∧
       (q.linePart n.toNat = t.part → t.isShadow = false → s.olderStalls t n.toNat s.clock < c.toNat →
         ∃ (u : State) (w : Task), w.Alike t ∧ exec (.evwait n) s = .next (u.putTask w.past) ∧
           (idle → u.Alike (s.setQuad (quadOf t.ci) { q with lines := q.lines.set n.toNat (c - 1) }))) ∧
       (q.linePart n.toNat = t.part → t.isShadow = false → c.toNat ≤ s.olderStalls t n.toNat s.clock → exec (.evwait n) s = .next
         (State.stall { s with clock := s.clock + 1 } t (.event n.toNat s.clock))))) ∧
  ((∀ (s : State) (t : Task) (x : Arrival) (a : GReg) (sc : Scope), s.current = some t → t.arrival = some x →
     (x.done = true → ∃ (u : State) (w : Task), w.Alike { t with arrival := none } ∧
       exec (.bar a sc) s = .next (u.putTask w.past) ∧ (s.requests = [] → s.queued = [] → u.Alike s)) ∧
     (x.done = false → exec (.bar a sc) s = .next (s.stall t .barrier))) ∧
   (∀ (s : State) (t : Task) (sc : Scope) (told : Bool), s.task? t.uid = some t → (∀ x ∈ s.tasks, x.uid = t.uid → x = t) →
     t.arrival = some ⟨sc, none, told⟩ → t.status = .running → s.halted t.ci = false → beyondPackage sc = false →
     let left := s.leftInUnit t sc fun ph b => ph == t.phase && b + 1 == t.bar
     (told = true ∨ left = false → s.flips = [] → ∃ u w, exec (.barrierComplete t.uid) s = .next u ∧
       u.task? t.uid = some w ∧
       w.Alike { (if t.follows = true then t.advance.dropWord else t.advance) with wait := .none, arrival := none } ∧
       (u.core t.ci).stalled = false ∧ (s.requests = [] → s.queued = [] → u.mem = s.mem)) ∧
     (told = false → left = true → ∃ u, exec (.barrierComplete t.uid) s = .next u ∧ u.task? t.uid = some t ∧
       u.cores = s.cores ∧ u.mem = s.mem)) ∧
   (∀ (s : State) (t : Task) (sc : Scope) (n : Nat), s.task? t.uid = some t → (∀ x ∈ s.tasks, x.uid = t.uid → x = t) →
     t.wait = .phase sc n → t.arrival = none → t.gang = none → t.spilled = false → s.unitFaults t = false →
     s.halted t.ci = false → beyondPackage sc = false →
     (s.leftInUnit t sc (fun ph _ => ph == n) = false → s.phaseLeft t sc n = false → s.flips = [] →
       ∃ u w, exec (.phaseProbeComplete t.uid) s = .next u ∧ u.task? t.uid = some w ∧
         w.Alike { t with wait := .none, status := .ready } ∧
         (s.requests = [] → (u.core t.ci).ready = (s.core t.ci).ready ++ [t.uid])) ∧
     (s.leftInUnit t sc (fun ph _ => ph == n) = true ∨ s.phaseLeft t sc n = true →
       ∃ u, exec (.phaseProbeComplete t.uid) s = .next u ∧ u.task? t.uid = some t ∧ u.cores = s.cores ∧ u.mem = s.mem)) ∧
   (∀ (s : State) (src : Nat) (e : BitVec 4) (m : BarrierMsg), e = (s.part m.part).epoch →
     ∃ u, exec (.barrierControlMessage ⟨src, e⟩ m) s = .next u ∧ u.tasks = s.tasks ∧ u.mem = s.mem ∧
       (m.note ≠ .withdraw → (src, m) ∈ u.podArrivals) ∧ (∀ x ∈ u.podArrivals, x = (src, m) ∨ x ∈ s.podArrivals) ∧
       (m.note = .withdraw → (src, m.about .arrive) ∉ u.podArrivals)) ∧
   (∀ (s : State) (src : Nat) (e : BitVec 4) (m : BarrierMsg), e ≠ (s.part m.part).epoch →
     exec (.barrierControlMessage ⟨src, e⟩ m) s = .next s))

/-- The channel instructions: ownership codes of `CHOPEN`, what `CHSTAT` reads, `CHCLOSE`, and the counted store and
flag with the stamps, counts and epochs of their pair; a reserved operand, or a channel not open for sending, raises
ILLEGAL (13_fabric.md R331, R339 to R342). Arriving counted traffic: a write is performed and counted in its epoch, or
as pending for a later one, and not counted in another generation; a flag is applied when its epoch and count are
reached, or held; a flag of another generation, and traffic on a channel of another partition, is discarded. STALL
replays the smallest domain that contains every contributor from the stalled epoch and from its own base on, or fails
the launch with HWERR where there is none; one of another generation, of a pair that is being resynchronised, or while
the replay that answers it is under way, replays nothing; where the log holds no contributor of the epoch every launch
of the log fails with HWERR; of another reset epoch a control message changes nothing. RESYNC resets a pair to its
base and is acknowledged, and the acknowledgement releases the sender (13_fabric.md R332, R335 to R338, R345, R346;
14_containment.md R365). -/
def Obligations.ChannelsAndCountedMessages : Prop :=
  (∀ (s : State) (t : Task) (a b c : GReg) (z : Size), s.current = some t →
     let ch := (t.greg a).toNat
     let cfg := (t.greg b).toNat
     let role := cfg % 4
     let tmo := cfg / 2 ^ 16 % 2 ^ 20
     let bad := cfg / 2 ^ 36 ≠ 0 ∨ cfg / 2 ^ 2 % 2 ^ 14 ≠ 0 ∨ role = 0 ∨ (tmo ≠ 0 ∧ tmo < 64) ∨ 1000000 < tmo
     let owner := (s.fab.opened.find? (·.1 == ch)).map fun x => x.2.ctxid
     let opens := fun code : Word => (t.isShadow = true → Completes (.chopen a b c) s (t.setG c code)) ∧
       (t.isShadow = false → ∃ u, exec (.chopen a b c) s = .next u ∧ u.tasks = (s.putTask (t.setG c code).past).tasks ∧
       u.fab.opened.find? (·.1 == ch) = some (ch, ⟨t.ctxid, BitVec.ofNat 2 role, if tmo = 0 then 1000 else tmo⟩) ∧
       (∀ k, k ≠ ch → u.fab.opened.find? (·.1 == k) = s.fab.opened.find? (·.1 == k)) ∧ u.mem = s.mem)
     (0xFFE ≤ ch → Traps (.chopen a b c) s t 0x01 ∧ Traps (.chclose a) s t 0x01 ∧ Traps (.chstat a b c) s t 0x01) ∧
     (ch < 0xFFE → bad → Traps (.chopen a b c) s t 0x01) ∧
     (ch < 0xFFE → ¬ bad →
       (s.allotted ch ≠ some t.part → Completes (.chopen a b c) s (t.setG c 1)) ∧
       (s.allotted ch = some t.part → owner = none → opens 0) ∧
       (s.allotted ch = some t.part → owner = some t.ctxid → opens 3) ∧
       (∀ k, s.allotted ch = some t.part → owner = some k → k ≠ t.ctxid → Completes (.chopen a b c) s (t.setG c 2))) ∧
     (ch < 0xFFE → (∀ m ∈ s.fab.out, m.who.ctxid ≠ t.ctxid) → (∀ x ∈ s.cores, x.2.vq = []) →
       ∃ u, exec (.chclose a) s = .next u ∧ u.tasks = (s.putTask t.past).tasks ∧ u.mem = s.mem ∧
         (owner = some t.ctxid → t.isShadow = false → u.fab.opened.find? (·.1 == ch) = none) ∧
         (owner ≠ some t.ctxid ∨ t.isShadow = true → u.fab.opened = s.fab.opened)) ∧
     (ch < 0xFFE → (∃ m ∈ s.fab.out, messageChannel m.msg = some ch ∧ m.who.ctxid = t.ctxid) →
       exec (.chclose a) s = .next (s.stall t .none)) ∧
     (ch < 0xFFE → cfg / 2 ^ 10 % 2 ^ 53 ≠ 0 → Traps (.chstat a b c) s t 0x01) ∧
     (ch < 0xFFE → cfg / 2 ^ 10 % 2 ^ 53 = 0 →
       let held := match s.fab.opened.find? (·.1 == ch) with
         | some x => if x.2.ctxid = t.ctxid then x.2.role.toNat else 0
         | none => 0
       let opened := held % 2 * 2 ^ 62 + held / 2 * 2 ^ 61
       let out := s.sender ch (cfg % 1024)
       let into := s.receiver ch (cfg % 1024)
       (s.allotted ch ≠ some t.part → Completes (.chstat a b c) s (t.setG c 0)) ∧
       (s.allotted ch = some t.part → cfg / 2 ^ 63 % 2 = 1 → Completes (.chstat a b c) s (t.setG c (BitVec.ofNat 64 (opened +
         min (((s.unsent ch (some (cfg % 1024))).map fun m => match m.msg with
           | .counted w _ => w.writes.length
           | _ => 1).sum) 255 * 2 ^ 48 + out.ep.toNat * 2 ^ 40 + out.gen.toNat * 2 ^ 32 +
         out.sent.toNat)))) ∧
       (s.allotted ch = some t.part → cfg / 2 ^ 63 % 2 = 0 → Completes (.chstat a b c) s (t.setG c (BitVec.ofNat 64 (opened +
         (if into.stalled then 2 ^ 60 else 0) + min (s.heldOf ch (cfg % 1024)).length 255 * 2 ^ 48 + into.ep.toNat * 2 ^ 40 +
         into.gen.toNat * 2 ^ 32 + into.d.toNat))))) ∧
     (s.mayCount t (t.greg c) false = false → Traps (.stc a b c z) s t 0x01) ∧
     (s.mayCount t (t.greg c) true = false → Traps (.flagw a b c) s t 0x01) ∧
     (let k := (t.greg c).toNat
      let n := sizeBytes z
      let bs := leBytes n (t.greg b).toNat
      ∀ (v : State) (l : Loc), t.fb < 14 → s.fabQueued t = false → t.dual = .single → l.scratch = false →
       (s.mayCount t (t.greg c) false = true → s.checked t .other .store (t.greg a) n n = (v, .ok l) →
         v.watermarked t.ci (t.greg a) n = false →
         (k = 0xFFF → exec (.stc a b c z) s =
           .next ((v.send l.pkg (v.who t) (.store ⟨v.who t, [(l.pa, bs)]⟩) .fb).putTask { t.past with fb := t.fb + 1 })) ∧
         (k ≠ 0xFFF → ∃ u, exec (.stc a b c z) s = .next u ∧
           (u.sender k l.pkg).sent = (v.sender k l.pkg).sent + 1 ∧ (u.sender k l.pkg).ep = (v.sender k l.pkg).ep ∧
           (u.sender k l.pkg).gen = (v.sender k l.pkg).gen ∧ u.tasks = (v.putTask { t.past with fb := t.fb + 1 }).tasks ∧
           u.mem = v.mem ∧ u.requests = v.requests ∧ u.fab.out = v.fab.out ++ [(⟨l.pkg, v.who t,
             .counted ⟨v.who t, [(l.pa, bs)]⟩ ⟨k, (v.sender k l.pkg).gen, (v.sender k l.pkg).ep⟩, .fb, 0⟩ : OutMsg)])) ∧
       (s.mayCount t (t.greg c) true = true → s.released t = true →
         s.checked t .other .store (t.greg a) 8 8 = (v, .ok l) → ∃ u, exec (.flagw a b c) s = .next u ∧
           (u.sender k l.pkg).ep = (v.sender k l.pkg).ep + 1 ∧ (u.sender k l.pkg).sent = (v.sender k l.pkg).sent ∧
           (u.sender k l.pkg).gen = (v.sender k l.pkg).gen ∧ u.tasks = (v.putTask { t.past with fb := t.fb + 1 }).tasks ∧
           u.mem = v.mem ∧ u.fab.out = v.fab.out ++ [(⟨l.pkg, v.who t, .flag ⟨v.who t, ⟨k, (v.sender k l.pkg).gen,
             (v.sender k l.pkg).ep⟩, (v.sender k l.pkg).sent, l.pa, t.greg b⟩, .fb, 0⟩ : OutMsg)]))) ∧
  ((∀ (s : State) (src : Nat) (w : Who) (a : Nat) (bs : List Byte) (c : Count), w.epoch = (s.part w.part).epoch →
     (s.allotted c.ch ≠ some w.part → exec (.storeCounted src ⟨w, [(a, bs)]⟩ c) s = .next s.countMisuse) ∧
     (s.allotted c.ch = some w.part → s.fab.hold = [] → s.fab.spill = [] → s.Receives a →
       let x := s.receiver c.ch src
       let k := (c.ep - x.ep).toNat
       ∃ u, exec (.storeCounted src ⟨w, [(a, bs)]⟩ c) s = .next u ∧ Arrives s u src w a bs ∧ u.tasks = s.tasks ∧
         (c.gen ≠ x.gen → u.receiver c.ch src = x) ∧
         (c.gen = x.gen → (k = 0 ∨ 128 ≤ k) → u.receiver c.ch src = { x with d := x.d + 1 }) ∧
         (c.gen = x.gen → 0 < k → k < 128 → (u.receiver c.ch src).d = x.d ∧
           (u.receiver c.ch src).pending c.ep = x.pending c.ep + 1))) ∧
   (∀ (s : State) (src : Nat) (f : FlagMsg), f.who.epoch = (s.part f.who.part).epoch →
     s.allotted f.stamp.ch = some f.who.part → s.fab.hold = [] → s.fab.spill = [] →
     let x := s.receiver f.stamp.ch src
     (f.stamp.gen ≠ x.gen → exec (.flag src f) s = .next s) ∧
     (f.stamp.gen = x.gen → (f.stamp.ep ≠ x.ep ∨ f.count ≠ x.d) → exec (.flag src f) s =
       .next { s with clock := s.clock + 1, fab := { s.fab with hold := [⟨src, f, s.clock, false⟩] } }) ∧
     (f.stamp.gen = x.gen → f.stamp.ep = x.ep → f.count = x.d → s.Receives f.pa → ∃ u, exec (.flag src f) s = .next u ∧
       Arrives s u src f.who f.pa (leBytes 8 f.value.toNat) ∧ u.fab.hold = [] ∧ u.tasks = s.tasks ∧
       (u.receiver f.stamp.ch src).ep = x.ep + 1 ∧ (u.receiver f.stamp.ch src).d = x.d + x.pending (x.ep + 1))) ∧
   (∀ (s : State) (ch src : Nat) (h : HeldFlag), s.heldOf ch src = [h] → (s.receiver ch src).stalled = false →
     ∃ u, exec (.holdTimeout ch src) s = .next u ∧ (u.receiver ch src).stalled = true ∧ u.tasks = s.tasks ∧ u.mem = s.mem ∧
       (∃ m ∈ u.fab.out, m.dst = src ∧ m.msg = .stall ⟨⟨ch, (s.receiver ch src).gen, h.flag.stamp.ep⟩, h.flag.count,
         (s.receiver ch src).d⟩)) ∧
   (∀ (s : State) (src : Nat) (e : BitVec 4) (m : StallMsg),
     let ch := m.stamp.ch
     let x := s.sender ch src
     (e ≠ (s.chanWho ch).epoch → exec (.stall ⟨src, e⟩ m) s = .next s) ∧
     (e = (s.chanWho ch).epoch → m.stamp.gen ≠ x.gen →
       (x.resync = false → exec (.stall ⟨src, e⟩ m) s = .next s) ∧
       (x.resync = true → exec (.stall ⟨src, e⟩ m) s =
         .next (s.send src (s.chanWho ch) (.resync ⟨ch, x.gen, x.base.1, x.base.2⟩)))) ∧
     (e = (s.chanWho ch).epoch → m.stamp.gen = x.gen →
       let n := x.flags - (x.ep - m.stamp.ep).toNat
       let holds := fun (d : Dom) (k : Contribution) =>
         k.ctxid = d.ctxid ∧ k.dom ≠ 0 ∧ s.within k.ctxid k.dom d.id = true
       let covers := fun (d : Dom) => (∀ k ∈ x.log, n ≤ k.flags → holds d k) ∧
         ∃ b, (x.bases.find? fun b => b.ctxid == d.ctxid && b.dom == d.id) = some b ∧
           (b.wrote = true → ∀ k ∈ x.log, b.flags ≤ k.flags → holds d k)
       (x.resync = true → exec (.stall ⟨src, e⟩ m) s = .next s) ∧
       (x.resync = false → (∀ k ∈ x.log, k.flags ≠ n) → exec (.stall ⟨src, e⟩ m) s =
         .next ((x.log.eraseDups.foldl (fun u k => u.hwerr (k.ctxid / 4) k.launch) s).resyncPair ch src x.sent x.flags
           fun _ _ => false)) ∧
       (∀ c later, x.resync = false → x.log = c :: later → c.flags = n →
         ((∀ d ∈ s.ancestors c.ctxid c.dom, ¬ covers d) → exec (.stall ⟨src, e⟩ m) s = .next (s.hwerr (c.ctxid / 4) c.launch)) ∧
         (∀ inner d outer, s.ancestors c.ctxid c.dom = inner ++ d :: outer → covers d → (∀ y ∈ inner, ¬ covers y) →
           s.dom? d.ctxid d.id = some d → d.state = .provisional → s.escOf d = d.id →
           (s.replaying d.ctxid d.id = false → d.replays = 0 → d.parent = 0 → exec (.stall ⟨src, e⟩ m) s =
             .next (s.failLaunch (d.ctxid / 4) d.launch 3 0 0)) ∧
           (s.replaying d.ctxid d.id = true → exec (.stall ⟨src, e⟩ m) s = .next s) ∧
           (d.replays ≠ 0 → s.replaying d.ctxid d.id = false → ∃ u, exec (.stall ⟨src, e⟩ m) s = .next u ∧ u = s.replay d.ctxid d.id .check false ∧
             ∀ t ∈ u.tasks, t.ctxid = d.ctxid → ∀ y ∈ s.doms, s.inTree d.ctxid d.id y = true → t.domain ≠ y.id))))) ∧
   (∀ (s : State) (src : Nat) (e : BitVec 4) (m : ResyncMsg),
     (e ≠ (s.chanWho m.ch).epoch → exec (.resync ⟨src, e⟩ m) s = .next s) ∧
     (e = (s.chanWho m.ch).epoch → (s.receiver m.ch src).gen ≠ m.gen → ∃ u, exec (.resync ⟨src, e⟩ m) s = .next u ∧
       (u.receiver m.ch src).d = m.sent ∧ (u.receiver m.ch src).gen = m.gen ∧ (u.receiver m.ch src).ep = m.ep ∧
       (u.receiver m.ch src).stalled = false ∧ u.heldOf m.ch src = [] ∧ u.mem = s.mem ∧ u.tasks = s.tasks ∧
       ∃ x ∈ u.fab.out, x.dst = src ∧ x.msg = .resyncAck m.ch m.gen) ∧
     (e = (s.chanWho m.ch).epoch → (s.receiver m.ch src).gen = m.gen →
       exec (.resync ⟨src, e⟩ m) s = .next (s.send src (s.chanWho m.ch) (.resyncAck m.ch m.gen)))) ∧
   (∀ (s : State) (src ch : Nat) (e : BitVec 4) (g : BitVec 8),
     (e ≠ (s.chanWho ch).epoch → exec (.resyncAck ⟨src, e⟩ ch g) s = .next s) ∧
     (e = (s.chanWho ch).epoch → (s.sender ch src).resync = true → (s.sender ch src).gen = g →
       exec (.resyncAck ⟨src, e⟩ ch g) s = .next (s.setSender ch src { s.sender ch src with resync := false })) ∧
     (e = (s.chanWho ch).epoch → (s.sender ch src).gen ≠ g → exec (.resyncAck ⟨src, e⟩ ch g) s = .next s) ∧
     ((s.sender ch src).resync = true → exec (.resyncResend ch src) s = .next (s.send src (s.chanWho ch)
       (.resync ⟨ch, (s.sender ch src).gen, (s.sender ch src).base.1, (s.sender ch src).base.2⟩))) ∧
     ((s.sender ch src).resync = false → exec (.resyncResend ch src) s = .next s)))

/-- Messages of other packages: a load request is answered with the bytes at its place, a store writes exactly its
bytes, a reduction joins the home's write queue, an atomic executes and is answered, a chain packet runs a step;
replies write the parked task's registers and make it READY; a message of another reset epoch changes nothing
(09_memory.md R253; 10_atomics.md R271, R275, R277; 13_fabric.md R324, R345; 05_tasks.md R132). -/
def Obligations.RemoteMessages : Prop :=
  (∀ (s : State) (src : Nat) (m : LoadReq),
    (m.who.epoch ≠ (s.part m.who.part).epoch → exec (.loadRequest src m) s = .next s) ∧
    (m.who.epoch = (s.part m.who.part).epoch → s.queued = [] → s.flips = [] → s.poison = [] → s.svc.hotbase = 0 →
      exec (.loadRequest src m) s = .next (s.send src m.who (.loadReply m.dest (s.bytes m.pa m.bytes))))) ∧
  (∀ (s : State) (src : Nat) (w : Who) (a : Nat) (bs : List Byte),
    (w.epoch ≠ (s.part w.part).epoch → exec (.storeUncounted src ⟨w, [(a, bs)]⟩) s = .next s) ∧
    (w.epoch = (s.part w.part).epoch → s.Receives a →
      ∃ u, exec (.storeUncounted src ⟨w, [(a, bs)]⟩) s = .next u ∧ u.tasks = s.tasks ∧ Arrives s u src w a bs)) ∧
  (∀ (s : State) (src : Nat) (m : RedMsg),
    (m.who.epoch ≠ (s.part m.who.part).epoch → exec (.reductionMessage src m) s = .next s) ∧
    (m.who.epoch = (s.part m.who.part).epoch → s.Receives m.pa → s.flips = [] → m.pa < 2 ^ 41 →
      exec (.reductionMessage src m) s = .next
        { s with queued := s.queued ++ [(⟨m.who, packageIndex src, m.pa, m.op, .none, some (whoTag m.who), 0, [], 0⟩ : Request)] })) ∧
  (∀ (s : State) (src : Nat) (m : AtomicReq),
    (m.who.epoch ≠ (s.part m.who.part).epoch → exec (.atomicRequest src m) s = .next s) ∧
    (m.who.epoch = (s.part m.who.part).epoch → s.queued = [] → s.flips = [] → s.poison = [] → s.svc.hotbase = 0 →
      m.op ≠ .cas → (m.op ∈ [AmoOp.fadd, .fmin, .fmax] → m.z = .w) →
      let n := amoBytes m.z
      let v := m.v.toNat % 2 ^ (8 * n)
      ∃ u, exec (.atomicRequest src m) s = .next u ∧ u.tasks = s.tasks ∧
        u.word m.pa n = combined m.op (8 * n) (s.word m.pa n) v ∧ u.tag m.pa = whoTag m.who ∧
        (∀ y, y < m.pa ∨ m.pa + n ≤ y → u.byte y = s.byte y) ∧
        u.fab.out = s.fab.out ++ [(⟨src, m.who, .atomicReply m.who.task (BitVec.ofNat 64 (s.word m.pa n))
          (combinedFlags m.op (s.word m.pa n) v), .none, 0⟩ : OutMsg)])) ∧
  (∀ (s : State) (t : Task), s.task? t.uid = some t → t.gang = none → t.spilled = false → s.halted t.ci = false →
    s.unitFaults t = false →
    let ready := fun (u : State) (x : Task) => (u.putTask { x with wait := .none, status := .ready }).modCore t.ci fun c =>
      { c with ready := c.ready ++ [t.uid] }
    (∀ (d : GReg) (key n : Nat) (acq : Option Scope) (bs : List Byte), t.wait = .load d key n acq → t.overlay = [] →
      bs.length = n → s.flips = [] → ∃ (u : State) (w : Task), w.Alike (t.setG d (BitVec.ofNat 64 (leNat bs))) ∧
        exec (.loadReply (.scalar t.uid) bs) s = .next (ready u w) ∧
        (s.queued = [] → acq = none ∨ s.requests = [] → u.Alike s)) ∧
    (∀ (d : GReg) (op : AmoOp) (z : AmoSize) (x c a old : Word) (acq : Option Scope) (target : Option Nat) (fl : Flags),
      t.wait = .atomic d op z x c a acq target → t.dual = .single → old.toNat < 2 ^ (8 * amoBytes z) → s.flips = [] →
      ∃ (u : State) (w : Task), exec (.atomicReply t.uid old fl) s = .next (ready u w) ∧
        w.Alike { t.setG d (widened op z old.toNat) with fsr := t.fsr ||| fl } ∧
        (s.queued = [] → acq = none ∨ s.requests = [] → u.mem = s.mem ∧ u.cores = s.cores ∧ u.tasks = s.tasks)) ∧
    (∀ page (e : Word), t.wait = .capFetch page → ∃ u, exec (.capabilityEntryFetch t.uid page e) s = .next u ∧
      u.task? t.uid = some { t with wait := .none, status := .ready } ∧ (t.ctxid, page, e) ∈ (u.quad (quadOf t.ci)).caps) ∧
    (∀ id : BitVec 32, t.uid < 2 ^ 64 → t.wait = .idDraw → exec (.domainIdDrawReply t.uid id) s =
      .next (ready s { t with drawn := some id.toNat })) ∧
    (∀ (x : Exchange) (n : Nat), t.wait = .capChange → s.exchanges = [x] → x.kind = .made →
      x.key = some (tokenTask t.uid, n) → x.origin = none →
      (s.drained (x.ctxid / 4) = true → exec (.capabilityChangeComplete t.uid) s =
        .next (ready { s with exchanges := [], answers := s.answers ++ [((tokenTask t.uid, n), x.result)] } t)) ∧
      (s.drained (x.ctxid / 4) = false → exec (.capabilityChangeComplete t.uid) s =
        .next { s with exchanges := [{ x with left := [] }] }))) ∧
  (∀ (s : State) (p : Packet) (w : Word), p.who.epoch = (s.part p.who.part).epoch → s.queued = [] → s.flips = [] →
    s.poison = [] → s.svc.hotbase = 0 → BitVec.ofNat 64 (s.word p.pa 8) = w →
    (p.origin ≠ s.svc.packageId →
      (p.final = true → exec (.chainPacket p) s =
        .next (s.send p.origin p.who (.chainEnd ⟨p.who.task, p.lane, w, 1, p.k + 1, false⟩))) ∧
      (p.final = false → exec (.chainPacket p) s = .next (s.afterWord p w))) ∧
    (∀ t, p.origin = s.svc.packageId → s.task? p.who.task = some t → t.overlay = [] →
      ∃ (u : State) (x : Task), u.Alike s ∧ x.Alike t ∧
        (p.final = true → exec (.chainPacket p) s =
          .next ((u.putTask x).takeChainEnd ⟨p.who.task, p.lane, w, 1, p.k + 1, false⟩)) ∧
        (p.final = false → exec (.chainPacket p) s = .next ((u.putTask x).afterWord p w)))) ∧
  (∀ (s : State) (p : Packet), p.who.epoch ≠ (s.part p.who.part).epoch → exec (.chainPacket p) s = .next s) ∧
  (∀ (s : State) (t : Task) (c : ChainRec) (l : Lane) (m : ChainFault), s.task? t.uid = some t → m.task = t.uid →
    t.chain = some c → c.lanes = [l] → l.lane = m.lane → s.halted t.ci = false → (s.die t.die).entries = [] → (s.die t.die).unreported = [] →
    let y : Lane := { l with k := m.k, x := m.x, final := m.final, nfault := l.nfault + 1, fv := true, fstep := m.k }
    ∃ (u : State) (w : Task) (i : Nat) (e : FaultEntry), exec (.chainFaultReply m) s = .next u ∧ u.task? t.uid = some w ∧
      w.status = .parked .fault ∧ w.chain = some { c with lanes := [y] } ∧
      (i, e) ∈ (u.die t.die).entries ∧ e.cause = 0x0A ∧ e.vaddr = m.x ∧ e.final = m.final ∧ e.why = m.why)

/-- Flits: one that passes its check is taken once and its messages arrive, or are held for another destination; one
that fails waits for its supplements; an acknowledgement frees the sender's copy, which a relay has until it has
forwarded it; after three supplements the whole flit goes again; a slot sends queued messages to the peer that the
slot table gives and the slot number goes round; a lost port sends its flits again by another (13_fabric.md R322 to
R326; 15_faults.md R399). -/
def Obligations.FlitsAndSlots : Prop :=
  (∀ (s : State) (src dst : Nat) (n : BitVec 32) (ps : List Parcel),
    let kept := s.fab.damaged.filter fun d => !(d.1.peer == src && d.1.seq == n)
    let seen := (s.fab.seen.filter fun x => x.1 != src || (n - x.2).toNat < 2 ^ 31) ++ [(src, n)]
    let acked := s.fab.links ++ [⟨src, n, some .ack⟩]
    let asked := s.fab.links ++ [⟨src, n, some .supplement⟩]
    (s.fab.seen.contains (src, n) = true → exec (.flitArrival src dst n true ps) s =
      .next { s with fab := { s.fab with damaged := kept, links := acked } }) ∧
    (s.fab.seen.contains (src, n) = false → dst ≠ s.svc.packageId → exec (.flitArrival src dst n true ps) s =
      .next { s with fab := { s.fab with damaged := kept, links := acked, seen := seen,
                                         relay := s.fab.relay ++ [⟨dst, src, n, ps⟩] } }) ∧
    (s.fab.seen.contains (src, n) = false → dst = s.svc.packageId → exec (.flitArrival src dst n true ps) s =
      .next (ps.foldl (fun u p => u.receive p.src p.who p.msg)
        { s with fab := { s.fab with damaged := kept, links := acked, seen := seen } })) ∧
    exec (.flitArrival src dst n false ps) s = .next { s with fab := { s.fab with
      damaged := kept ++ [(⟨0, src, dst, n, ps, 0⟩, 0)], links := asked } } ∧
    (∀ (f : Flit) (k : Nat), s.fab.damaged = [(f, k)] → f.peer = src → f.seq = n →
      (k < 2 → exec (.paritySupplement src n false ps) s =
        .next { s with fab := { s.fab with damaged := [(f, k + 1)], links := asked } }) ∧
      (k = 2 → exec (.paritySupplement src n false ps) s =
        .next { s with fab := { s.fab with damaged := [], links := asked } }) ∧
      (exec (.paritySupplement src n true ps) s =
        exec (.flitArrival src f.dst n true ps) { s with fab := { s.fab with damaged := [] } })) ∧
    (∃ u, exec (.flitAck src ⟨n, .ack⟩) s = .next u ∧ (∀ f ∈ u.fab.unacked, ¬ (f.peer = src ∧ f.seq = n)) ∧
      (∀ f ∈ s.fab.unacked, ¬ (f.peer = src ∧ f.seq = n) → f ∈ u.fab.unacked) ∧
      (∀ f ∈ s.fab.unacked, f.peer = src → f.seq = n → f.dst ≠ src → f ∈ u.fab.handed) ∧
      u.mem = s.mem ∧ u.tasks = s.tasks) ∧
    exec (.flitAck src ⟨n, .forwarded⟩) s = .next { s with fab := { s.fab with
      handed := s.fab.handed.filter fun f => !(f.peer == src && f.seq == n) } } ∧
    (∀ f : Flit, s.fab.unacked = [f] → f.peer = src → f.seq = n → exec (.flitAck src ⟨n, .supplement⟩) s =
      .next { s with fab := if f.sups < 3 then
          { s.fab with unacked := [{ f with sups := f.sups + 1 }], links := s.fab.links ++ [⟨src, n, none⟩] }
        else { s.fab with unacked := [], resend := s.fab.resend ++ [{ f with sups := 0 }] } })) ∧
  (∀ (s : State) (port : Nat),
    (∃ u, exec (.portLoss port) s = .next u ∧ port ∈ u.fab.portsLost ∧ (∀ sl, u.meets port sl = none) ∧
      (∀ f ∈ s.fab.unacked, f.port = port → f ∈ u.fab.resend) ∧ (∀ f ∈ u.fab.unacked, f.port ≠ port) ∧ u.mem = s.mem) ∧
    (∃ u, exec (.rotorLoss port) s = .next u ∧ port ∈ u.fab.rotorsLost ∧ port ∈ u.fab.portsLost)) ∧
  (∀ (s : State) (j sl p : Nat), s.fab.portsLost = [] → j < 32 → sl < 32 → ∃ u, 
   exec (.slotTableLoad [(s.svc.packageId * 1024 + j * 32 + sl, p)]) s =
    .next u ∧ u.meets j sl = some p ∧ ∀ k m, k < 32 → m < 32 → (k, m) ≠ (j, sl) → u.meets k m = none) ∧
  (∀ s : State, s.fab.out = [] → s.fab.resend = [] → s.fab.relay = [] → s.fab.links = [] → exec .rotorSlot s =
    .next { s with fab := { s.fab with slotNow := (s.fab.slotNow + 1) % 32 } }) ∧
  (∀ (s : State) (j : Nat) (m : OutMsg), s.fab.out = [m] → s.fab.resend = [] → s.fab.relay = [] → s.fab.links = [] →
    j < 32 → s.meets j s.fab.slotNow = some m.dst → (∀ k, k ≠ j → s.meets k s.fab.slotNow = none) → m.cls = .none →
    messageChannel m.msg = none → m.bytes ≤ 240 → m.who.part < 16 → s.underWay m = false →
    ∃ u, exec .rotorSlot s = .next u ∧ u.fab.out = [] ∧ u.fab.slotNow = (s.fab.slotNow + 1) % 32 ∧ u.tasks = s.tasks ∧
      u.mem = s.mem ∧ u.fab.unacked = s.fab.unacked ++
        [⟨j, m.dst, m.dst, Sparse.read 0 s.fab.nextSeq m.dst, [⟨s.svc.packageId, m.who, m.msg⟩], 0⟩])

/-- `CAPGIVE`, `CAPTAKE` and `CAPQ`: who may ask, the codes of the ends, the entry's new HOLDER with FRZ kept, the
logged move, and what `CAPQ` reads (14_containment.md R349, R353 to R355). `ALLOCG` and `GENPASS`: the slice of the
task's SEQ and generation, the claim made once, RANGE for another's claim, 0 when the slice is exhausted; the next
generation, and the wait for the reclamation of the one four before (14_containment.md R373 to R375). -/
def Obligations.CapabilitiesAndArenas : Prop :=
  (∀ (s : State) (t : Task) (a b c : GReg), s.current = some t → t.dual = .single → s.capLocal t.ctxid = true →
     (∀ x ∈ s.answers, x.1 ≠ (tokenTask t.uid, forChange)) → (∀ x ∈ s.exchanges, x.key ≠ some (tokenTask t.uid, forChange)) →
     let va := t.greg a
     let page := pageOf va
     let h := t.greg b
     let view := s.capView (quadOf t.ci) t.ctxid page
     let named := ∃ d, s.dom? t.ctxid h.toNat = some d ∧ h.toNat < 2 ^ 32 ∧ d.state = .provisional
     let free := t.quiet = true ∧ t.fb = 0 ∧ s.drained t.part = true ∧ s.spans t.part = false ∧ s.queued = []
     let writes := fun (i : Instr) (holder f : Nat) => ∃ (u : State) (pa : Nat), exec i s = .next u ∧
       s.capAddr t.ctxid page = some pa ∧ u.word pa 8 = (holder * 2 ^ 32 + f * 2 ^ 24 + 1) % 2 ^ 64 ∧
       (∀ y, y < pa ∨ pa + 8 ≤ y → u.byte y = s.byte y) ∧ u.tasks = (s.putTask t.past).tasks ∧
       ∀ d, s.dom? t.ctxid t.domain = some d → ∃ e, u.dom? t.ctxid t.domain = some e ∧
         ∃ old, e.moves = d.moves ++ [⟨s.clock + 1, page, old, holder⟩]
     (t.domain = 0 → Traps (.capgive a b) s t 0x01 ∧ Traps (.captake a) s t 0x01) ∧
     (t.domain ≠ 0 → h ≠ 0 → ¬ named → s.spans t.part = false → Traps (.capgive a b) s t 0x01) ∧
     (t.domain ≠ 0 → (h = 0 ∨ named) →
       (view = .absent → exec (.capgive a b) s = .next (s.softwareError t 0x06)) ∧
       (∀ k f, view = .entry k f → k ≠ t.domain → exec (.capgive a b) s = .next (s.softwareError t 0x06)) ∧
       (∀ f, view = .entry t.domain f → free → h.toNat ≠ t.domain → writes (.capgive a b) h.toNat f)) ∧
     (t.domain ≠ 0 →
       (view = .absent → exec (.captake a) s = .next (s.softwareError t 0x06)) ∧
       (∀ k f, view = .entry k f → (f ≠ 0 ∨ (k ≠ 0 ∧ k ≠ t.domain)) →
         exec (.captake a) s = .next (s.softwareError t 0x06)) ∧
       (view = .entry t.domain 0 → Completes (.captake a) s t) ∧
       (view = .entry 0 0 → free → writes (.captake a) t.domain 0)) ∧
     ((canonical va = false ∨ (scratchOf t.ci va).isSome = true ∨ view = .absent) →
       Completes (.capq a c) s (t.setG c 0)) ∧
     (∀ k f, canonical va = true → scratchOf t.ci va = none → reservedWindow va = false → view = .entry k f →
       let rel := if k = 0 then 1 else if k = 0xFFFFFFFF then 5 else if k = t.domain then 2
         else if ∃ d ∈ s.ancestors t.ctxid t.domain, d.id = k then 3 else 4
       Completes (.capq a c) s (t.setG c (BitVec.ofNat 64 (k * 2 ^ 32 + f * 2 ^ 24 + rel))))) ∧
  ((∀ (s : State) (t : Task) (d a : GReg), s.current = some t →
     let c := s.ctx t.ctxid
     let ss := 2 ^ (c.alloccfg.toNat % 32)
     let ns := c.arlen.toNat / (4 * ss)
     let slice := c.arbase + BitVec.ofNat 64 (t.ag % 4 * (c.arlen.toNat / 4) + t.seq.toNat % ns * ss)
     let n := ((t.greg a).toNat + 63) / 64 * 64
     let given := { t.setG d (slice + BitVec.ofNat 64 t.aoff) with aoff := t.aoff + n }
     (ns = 0 → Traps (.allocg d a) s t 0x01) ∧
     (ns ≠ 0 → t.claimed = true → ss - t.aoff < n → Completes (.allocg d a) s (t.setG d 0)) ∧
     (ns ≠ 0 → t.claimed = true → n ≤ ss - t.aoff → Completes (.allocg d a) s given) ∧
     (∀ (v : State) (l : Loc), ns ≠ 0 → t.claimed = false → t.dual = .single →
       s.translate t.ctxid .other slice = (v, .ok l) → l.pkg = v.svc.packageId → v.queued = [] → v.flips = [] → v.poison = [] →
       let claim := v.word l.pa 16
       let claimed := (claim / 2 ^ 64) % 2 = 1
       (claimed → claim % 2 ^ 64 ≠ t.seq.toNat → exec (.allocg d a) s = .next (v.softwareError t 0x05)) ∧
       (claimed → claim % 2 ^ 64 = t.seq.toNat → n ≤ ss - t.aoff →
         exec (.allocg d a) s = .next (v.putTask { given with claimed := true }.past)) ∧
       (¬ claimed → n ≤ ss - t.aoff → ∃ u, exec (.allocg d a) s = .next u ∧
         u.tasks = (v.putTask { given with claimed := true }.past).tasks ∧ u.word l.pa 8 = t.seq.toNat ∧
         u.word (l.pa + 8) 8 % 2 = 1 ∧ (∀ y, y < l.pa ∨ l.pa + 16 ≤ y → u.byte y = v.byte y)))) ∧
   (∀ (s : State) (t : Task) (a : GReg), s.current = some t →
     let next := (t.ag + 1) % 2 ^ 32
     let passed := { t with ag := next, aoff := 64, claimed := false }
     ((t.greg a).toNat ≠ next → Traps (.genpass a) s t 0x01) ∧
     ((t.greg a).toNat = next → t.ag < 3 → Completes (.genpass a) s passed) ∧
     ((t.greg a).toNat = next → 3 ≤ t.ag → s.generationOver t (t.ag - 3) = false →
       exec (.genpass a) s = .next (s.stall t (.generation (t.ag - 3)))) ∧
     ((t.greg a).toNat = next → 3 ≤ t.ag → s.generationOver t (t.ag - 3) = true → s.launch? t.part t.launchid = none →
       Completes (.genpass a) s passed) ∧
     (∀ l, (t.greg a).toNat = next → 3 ≤ t.ag → s.generationOver t (t.ag - 3) = true → s.launch? t.part t.launchid = some l →
       ∃ u, exec (.genpass a) s = .next u ∧ u.tasks = (s.putTask passed.past).tasks ∧
         u.launch? t.part t.launchid = some { l with reclaimed := max l.reclaimed (t.ag - 2) })))

/-- `DOMOPEN`, `DOMCLOSE` and `DOMFAIL`: refusals and their codes, the domain that opens with its root queued, the
waits and the commit, the replay asked for and the end of a launch whose budget is spent (14_containment.md R358 to
R366). A domain's snapshot completes, a closing domain commits and the tasks that wait for it go on, and an
invalidation made in every package lets its issuer go on (14_containment.md R361, R363; 15_faults.md R391). -/
def Obligations.Domains : Prop :=
  ((∀ (s v w : State) (t : Task) (a c : GReg) (bs tb : List Byte) (r : DomRecord) (root : TaskRecord) (p : Nat),
     s.current = some t → t.dual = .single → t.plan = none → t.drawn = none → t.quiet = true → s.domAreaThere t.part = true →
     let depth := (((s.dom? t.ctxid p).map (·.depth)).getD 0) + 1
     let record := t.greg a
     (record.toNat % 64 ≠ 0 → Traps (.domopen a c) s t 0x02) ∧
     (record.toNat % 64 = 0 → s.taskRead t .record record 32 = (v, .bytes bs) → v.watermarked t.ci record 256 = false →
       parseDomain bs false = none → exec (.domopen a c) s = .next (trapState v t 0x01)) ∧
     (record.toNat % 64 = 0 → s.taskRead t .record record 32 = (v, .bytes bs) → v.watermarked t.ci record 256 = false →
       parseDomain bs false = some r → r.root.toNat % 64 = 0 → v.parentOf t r.parent = some p →
       v.taskRead t .record r.root 8 = (w, .bytes tb) → w.watermarked t.ci r.root 64 = false →
       parseTask tb true = some root → root.table = 0 → w.doms = s.doms → w.capLocal t.ctxid = true →
       let refused := fun n : Nat => exec (.domopen a c) s = .next (w.putTask (t.setG c (BitVec.ofNat 64 (2 ^ 63 + n))).past)
       let checks := w.checkPages (w.capView (quadOf t.ci) t.ctxid) t.ctxid p r
       (8 < depth → refused 1) ∧
       (depth ≤ 8 → 16384 ≤ w.domCount t.part → refused 2) ∧
       (depth ≤ 8 → w.domCount t.part < 16384 → checks = .noentry → refused 4) ∧
       (depth ≤ 8 → w.domCount t.part < 16384 → checks = .conflict → refused 3) ∧
       (∀ (y z : State) (l : Loc) (q : CapResult), depth ≤ 8 → w.domCount t.part < 16384 → checks = .ok →
         w.checked t .other .store (r.root + 56) 8 8 = (y, .ok l) → let x : State := { y with doms := w.doms }
         l.pkg = s.svc.packageId → x.released t = true → (x.core t.ci).mq = [] →
         x.drained t.part = true → x.capLocal t.ctxid = true → x.svc = s.svc → x.queueRoom t.die t.part = true →
         (∀ y ∈ x.answers, y.1 ≠ (tokenTask t.uid, forChange)) →
         (∀ y ∈ x.exchanges, y.key ≠ some (tokenTask t.uid, forChange)) →
         let id := (x.drawId t.ctxid).2
         State.beginChange (x.drawId t.ctxid).1 (some (tokenTask t.uid, forChange)) t.ctxid t.domain
           (State.openSteps (x.drawId t.ctxid).1 t.ctxid id p r) = (z, some q) →
         (q.verdict = .conflict → ∃ u, exec (.domopen a c) s = .next u ∧
           u.tasks = (x.putTask (t.setG c (BitVec.ofNat 64 (2 ^ 63 + 3))).past).tasks) ∧
         (q.verdict = .done →
         ∃ u, exec (.domopen a c) s = .next u ∧
           u.tasks = (x.putTask { (t.setG c (BitVec.ofNat 64 id)).past with ordinal := t.ordinal + 1 }).tasks ∧
           (∃ d ∈ u.doms, d.ctxid = t.ctxid ∧ d.id = id ∧ d.state = .provisional ∧ d.record = record ∧ d.parent = p ∧
             d.depth = depth ∧ d.root = r.root ∧ d.ranges = r.ranges ∧ d.replays = r.budget ∧ d.esc = id) ∧
           (∃ e ∈ (u.die t.die).queue, e.record = r.root ∧ e.domain = id ∧ e.seq = t.childSeq ∧ e.pc = root.pc ∧
             e.ctxid = t.ctxid ∧ e.launch = t.launchid))))) ∧
   (∀ (s : State) (t : Task) (a : GReg), s.current = some t → t.dual = .single →
     let h := t.greg a
     let d? := if h.toNat < 2 ^ 32 then s.dom? t.ctxid h.toNat else none
     (d? = none → Traps (.domclose a) s t 0x01 ∧ Traps (.domfail a) s t 0x01) ∧
     (∀ d, d? = some d →
       ((d.state ≠ .provisional ∨ d.parent ≠ t.domain) → Traps (.domclose a) s t 0x01) ∧
       (d.state = .provisional → d.parent = t.domain →
         (s.workDone d = false → s.task? t.uid = some t → exec (.domclose a) s = .next (s.stall t (.domain d.id))) ∧
         (s.workDone d = true → d.dual = false → d.parent ≠ 0 → d.pages = [] → ∃ u : State,
           exec (.domclose a) s = .next (u.putTask t.past) ∧ (s.requests = [] → s.queued = [] →
             u.Alike (s.modDom t.ctxid d.id ({ · with state := .committed, pages := [], closed := true })))) ∧
         (∀ pa page f, s.workDone d = true → d.dual = false → d.parent ≠ 0 → d.parent ≠ d.id → d.pages = [page] →
           s.queued = [] → s.requests = [] → s.spans t.part = false → s.drained t.part = true →
           (∀ x ∈ s.answers, x.1 ≠ (tokenDom d, forCommit)) → (∀ x ∈ s.exchanges, x.key ≠ some (tokenDom d, forCommit)) →
           s.capLocal t.ctxid = true → s.capAddr t.ctxid page = some pa → s.capView 0 t.ctxid page = .entry d.id f →
           ∃ u : State, exec (.domclose a) s = .next u ∧ u.tasks = (s.putTask t.past).tasks ∧
             u.word pa 8 = (d.parent * 2 ^ 32 + f * 2 ^ 24 + 1) % 2 ^ 64 ∧
             ∀ x ∈ u.doms, x.ctxid = t.ctxid → x.id = d.id → x.state = .committed)) ∧
       (let mine := if t.domain = 0 then d.launch = t.launchid else s.within t.ctxid d.id t.domain = true
        ((¬ mine ∨ (d.state ≠ .provisional ∧ d.state ≠ .committed)) → Traps (.domfail a) s t 0x01) ∧
        (mine → d.state = .provisional → s.escOf d = d.id →
         (d.replays = 0 → d.parent = 0 → exec (.domfail a) s =
           .next ((s.putTask t.past).failLaunch (d.ctxid / 4) d.launch 3 0 0)) ∧
         (d.replays ≠ 0 → ∃ u, exec (.domfail a) s = .next u ∧
           (∀ x ∈ u.tasks, ¬ (x.ctxid = t.ctxid ∧ x.domain = d.id)) ∧
           ∀ y, y ∈ u.tasks → ∃ z ∈ (s.putTask t.past).tasks, z.uid = y.uid)))))) ∧
  ((∀ (s : State) (n : Nat) (d : Dom), s.namedDom n = some d →
     (d.snapshot = true → exec (.domainSnapshotComplete n) s = .next s) ∧
     (d.snapshot = false → d.lines = [] → ∃ u, exec (.domainSnapshotComplete n) s = .next u ∧ u.mem = s.mem ∧
       u.tasks = s.tasks ∧ ∀ x ∈ u.doms, x.ctxid = d.ctxid → x.id = d.id → x.snapshot = true) ∧
     (s.workDone d = false → exec (.domainCommit n) s = .next s) ∧
     (s.workDone d = true → d.state = .provisional → d.dual = false → d.parent ≠ 0 → d.pages = [] →
       (∃ t ∈ s.tasks, t.ctxid = d.ctxid ∧ t.domain = d.parent ∧ t.wait = .domain d.id) →
       ∃ u, exec (.domainCommit n) s = .next u ∧
         (∀ x ∈ u.doms, x.ctxid = d.ctxid → x.id = d.id → x.state = .committed) ∧
         ∀ x ∈ u.tasks, ¬ (x.ctxid = d.ctxid ∧ x.domain = d.parent ∧ x.wait = .domain d.id))) ∧
   (∀ (s : State) (t : Task), s.task? t.uid = some t →
     (∀ (x : Exchange) (n : Nat), t.wait = .tlbinv → s.exchanges = [x] → x.kind = .made →
       x.key = some (tokenTask t.uid, n) → x.origin = none →
       (s.drained (x.ctxid / 4) = true → exec (.tlbinvComplete t.uid) s = .next (State.wake
         { s with exchanges := [], answers := s.answers ++ [((tokenTask t.uid, n), x.result)] } t)) ∧
       (s.drained (x.ctxid / 4) = false → exec (.tlbinvComplete t.uid) s =
         .next { s with exchanges := [{ x with left := [] }] })) ∧
     (t.wait ≠ .tlbinv → exec (.tlbinvComplete t.uid) s = .next s)))

/-- `VLSP` on a host core: illegal counts, register numbers and zero fields, a misaligned address, a core without a
partition and segments that are not the partition's raise, and otherwise each register gets 64 bytes of the
scratchpad, `vstart` becomes 0 and the pc goes on; nothing else changes (16_system.md R424). Accesses of host cores: a
store reaches the homes of its lines under the host tag and its core's requester index, which then read as exactly its
bytes, and clears the poison of a line it covers; a load of a sound line changes nothing; a poisoned line raises an
access fault on a load and an AMO, and a hole of the address space on every access (16_system.md R423; 10_atomics.md
R280; 15_faults.md R397). -/
def Obligations.HostCores : Prop :=
  (∀ (s : State) (f : BitVec 15) (rs d : BitVec 5),
     let c := s.turn % 32
     let h := s.hostCore c
     let n := f.toNat / 2 ^ 8 + 1
     let l : Word := if rs = 0 then 0 else h.x[rs.toNat]
     let o := l.toNat % 2 ^ 18
     let ci := l.toNat / 2 ^ 18 % 2 ^ 11
     let formed := f.toNat % 2 ^ 8 = 0 ∧ (n = 1 ∨ n = 2 ∨ n = 4 ∨ n = 8) ∧ d.toNat % n = 0
     let raises := fun cause : Nat => ∃ (u : State) (v : Word), exec (.vlsp f rs d) s = .next u ∧
       u.hostCore c = { h with mcause := some cause, mtval := v } ∧ u.mem = s.mem ∧ u.tasks = s.tasks ∧
       ∀ k, k ≠ c → u.hostCore k = s.hostCore k
     let held := fun p : Nat => l.toNat < 2 ^ 29 ∧ o + 64 * n ≤ 0x40000 ∧ ∀ i, i < n → s.segmentPart ci (o + 64 * i) = p
     (¬ formed → raises 2) ∧
     (formed → l.toNat % 64 ≠ 0 → raises 4) ∧
     (formed → l.toNat % 64 = 0 → s.hostPart c = none → raises 5) ∧
     (∀ p, formed → l.toNat % 64 = 0 → s.hostPart c = some p → ¬ held p → raises 5) ∧
     (∀ p, formed → l.toNat % 64 = 0 → s.hostPart c = some p → held p → s.flips = [] →
       (∃ i, i < n ∧ s.poisoned (scratchKey ci o + 64 * i) = true) → raises 5) ∧
     (∀ p, formed → l.toNat % 64 = 0 → s.hostPart c = some p → held p → s.flips = [] → s.poison = [] → ∃ u,
       exec (.vlsp f rs d) s = .next u ∧ u.mem = s.mem ∧ u.tasks = s.tasks ∧ (u.hostCore c).pc = h.pc + 4 ∧
       (u.hostCore c).vstart = 0 ∧ (u.hostCore c).x = h.x ∧ (∀ k, k ≠ c → u.hostCore k = s.hostCore k) ∧
       (∀ i, i < n → (u.hostCore c).v.toList.getD (d.toNat + i) 0 =
         BitVec.ofNat 512 (s.word (scratchKey ci o + 64 * i) 64)) ∧
       ∀ i, (i < d.toNat ∨ d.toNat + n ≤ i) → (u.hostCore c).v.toList.getD i 0 = h.v.toList.getD i 0)) ∧
  (∀ (s : State) (c pa : Nat), inDevice pa = false →
     let raises := fun (m : HostAccess) (cause : Nat) => exec (.hostChipletMemoryAccess c m) s =
       .next (s.setHostCore c { s.hostCore c with mcause := some cause, mtval := BitVec.ofNat 64 pa })
     (∀ (bs : List Byte) (op : AmoOp) (z : AmoSize) (n : Nat) (v : Word), populated pa = false →
       raises (.load pa n) 5 ∧ raises (.store pa bs) 7 ∧ raises (.amo pa op z v) 7) ∧
     (∀ (op : AmoOp) (z : AmoSize) (n : Nat) (v : Word), pa < 2 ^ 41 → populated pa = true → s.poisoned pa = true →
       raises (.load pa n) 5 ∧ raises (.amo pa op z v) 7) ∧
     (∀ n, pa < 2 ^ 41 → populated pa = true → s.poisoned pa = false → s.flips = [] → s.queued = [] →
       s.svc.hotbase = 0 → exec (.hostChipletMemoryAccess c (.load pa n)) s = .next s) ∧
     (∀ bs : List Byte, pa < 2 ^ 41 → populated pa = true → s.svc.hotbase = 0 → s.requests = [] → pa + bs.length < 2 ^ 48 → ∃ u,
       exec (.hostChipletMemoryAccess c (.store pa bs)) s = .next u ∧ u.tasks = s.tasks ∧ u.mem = s.mem ∧ u.requests = [] ∧
       u.queued = s.queued ++ (cutLines pa bs).map (fun x =>
         ⟨s.deviceWho 0, 0xC000 + c, x.1, .store x.2, .none, some .host, 0, [], 0⟩) ∧
       (pa % 64 = 0 → bs.length = 64 → u.poisoned pa = false) ∧
       (pa % 64 + bs.length ≤ 64 → bs ≠ [] → s.queued = [] → (u.serve pa).tag pa = .host ∧
         ∀ y, (u.serve pa).byte y = if pa ≤ y ∧ y < pa + bs.length then bs.getD (y - pa) 0 else s.byte y)) ∧
     (∀ (op : AmoOp) (z : AmoSize) (v : Word), pa < 2 ^ 41 → populated pa = true → s.poisoned pa = false → s.flips = [] →
       s.svc.hotbase = 0 → s.queued = [] → op ≠ .cas → (op ∈ [AmoOp.fadd, .fmin, .fmax] → z = .w) → ∃ u,
       exec (.hostChipletMemoryAccess c (.amo pa op z v)) s = .next u ∧ u.tasks = s.tasks ∧
       (let n := amoBytes z
        u.word pa n = combined op (8 * n) (s.word pa n) (v.toNat % 2 ^ (8 * n)) ∧ u.tag pa = .host ∧
          ∀ y, y < pa ∨ pa + n ≤ y → u.byte y = s.byte y)))

/-- A launch from its queue to its completion record: the host's writes of LQTAIL and CQHEAD, admission or rejection
of the oldest record, DONE when the work has ended, and the 16 bytes of a completion record with CQTAIL and vector 0;
posting waits while the queue is full (01_machine.md R24 to R28; 16_system.md R418, R420). -/
def Obligations.LaunchFlow : Prop :=
  (∀ (s : State) (p n : Nat) (v : Word),
    let k := 4 * p + n
    let x := s.ctx k
    let put := fun y : Ctx => s.setCtx k y
    (v.toNat < 2 ^ 32 → exec (.cqheadWrite p n v) s = .next (put { x with cqhead := v })) ∧
    (v.toNat < 2 ^ 32 → (x.lqsize = 0 ∨ (v.toNat + 2 ^ 32 - x.lqhead.toNat) % 2 ^ 32 ≤ 2 ^ x.lqsize.toNat) →
      exec (.lqtailWrite p n v) s = .next (put { x with lqtail := v })) ∧
    (v.toNat < 2 ^ 32 → x.lqsize ≠ 0 → 2 ^ x.lqsize.toNat < (v.toNat + 2 ^ 32 - x.lqhead.toNat) % 2 ^ 32 →
      exec (.lqtailWrite p n v) s = .next (put { x with lqtail := v }).countMisuse) ∧
    (2 ^ 32 ≤ v.toNat → exec (.lqtailWrite p n v) s = .next s.countMisuse ∧
      exec (.cqheadWrite p n v) s = .next s.countMisuse)) ∧
  (∀ (s : State) (p n : Nat),
    let c := s.ctx (4 * p + n)
    let r := parseLaunch (s.queueBytes c.lqbase (64 * (c.lqhead.toNat % 2 ^ c.lqsize.toNat)) 64)
    (((s.part p).en = false ∨ (s.part p).resetting = true ∨ 64 ≤ s.launchCount p ∨ s.nextContext p = none) →
      exec (.launchAdmission p) s = .next s) ∧
    ((s.part p).en = true → (s.part p).resetting = false → s.launchCount p < 64 → s.nextContext p = some n → ∃ u,
      exec (.launchAdmission p) s = .next u ∧ u.mem = s.mem ∧ u.tasks = s.tasks ∧
      (u.ctx (4 * p + n)).lqhead.toNat = (c.lqhead.toNat + 1) % 2 ^ 32 ∧ (u.part p).rotation = (n + 1) % 4 ∧
      ((r.2 = false ∨ c.ptroot = 0) → u.posts = s.posts ++ [⟨p, n, 0, 0, 1, 4, r.1.tag, 0⟩] ∧
        u.launches = s.launches) ∧
      (r.2 = true → c.ptroot ≠ 0 → u.posts = s.posts ∧ ∃ l, u.launches = s.launches ++ [l] ∧ l.part = p ∧ l.ctx = n ∧
        l.id = (s.part p).launchNext ∧ l.root = r.1.root ∧ l.domrec = r.1.domrec ∧ l.key = r.1.key ∧
        l.tag = r.1.tag ∧ l.stage = .opening ∧ (r.1.rootDie ≠ 15 → l.rootDie = r.1.rootDie)))) ∧
  (∀ (s : State) (l : Launch), s.launch? l.part l.id = some l → l.stage = .running →
    (s.launchIdle l = false → exec (.launchCommit l.part l.id) s = .next s) ∧
    (s.launchIdle l = true → l.outer = 0 → ∃ u, exec (.launchCommit l.part l.id) s = .next u ∧
      u.posts = s.posts ++ [⟨l.part, l.ctx, 0, 0, 0, 1, l.tag, l.id⟩] ∧ u.tasks = s.tasks ∧ u.mem = s.mem ∧
      u.launch? l.part l.id = some { l with stage := .done })) ∧
  (∀ (s : State) (x : Post) (rest : List Post), s.posts = x :: rest →
    let c := s.ctx (4 * x.part + x.ctx)
    let a := c.cqbase.toNat + 16 * (c.cqtail.toNat % 2 ^ c.cqsize.toNat)
    let used := (c.cqtail.toNat + 2 ^ 32 - c.cqhead.toNat) % 2 ^ 32
    c.cqsize ≠ 0 → c.cqbase.toNat < 2 ^ 63 →
    (2 ^ c.cqsize.toNat ≤ used → exec (.completionPost x.part x.ctx) s = .next s) ∧
    (s.writesMade x = false → exec (.completionPost x.part x.ctx) s = .next s) ∧
    (used < 2 ^ c.cqsize.toNat → s.writesMade x = true → s.queued = [] → ∃ u,
      exec (.completionPost x.part x.ctx) s = .next u ∧ u.posts = rest ∧
      u.word a 4 = x.launch.toNat ∧ u.word (a + 4) 4 = x.tag.toNat ∧ u.byte (a + 8) = x.event ∧
      u.byte (a + 9) = x.status ∧ u.byte (a + 10) = x.cause ∧ u.byte (a + 11) = 0 ∧
      u.word (a + 12) 4 = 4 * x.eslot % 2 ^ 32 ∧ (∀ y, y < a ∨ a + 16 ≤ y → u.byte y = s.byte y) ∧
      (u.ctx (4 * x.part + x.ctx)).cqtail.toNat = (c.cqtail.toNat + 1) % 2 ^ 32 ∧ u.tasks = s.tasks ∧
      ((s.part x.part).masked.getLsbD 0 = false → (s.svc.hostLost = false ∨ s.svc.self = true) →
        Sparse.read 0 (u.part x.part).sent 0 = Sparse.read 0 (s.part x.part).sent 0 + 1) ∧
      ((s.part x.part).masked.getLsbD 0 = true → (u.part x.part).pending.getLsbD 0 = true)))

/-- The scheduler: an entry whose DEPCNT is 0 and whose ranges need no lease binds its task, with the fields of its
record and `g1` to `g4`, and one whose DEPCNT is not 0 is set aside; the longest parked task of a full core of parked
tasks is spilled when work waits; a quantum's end takes the running task to the tail of the ready list; a stall that
lasts parks its task as DEP (05_tasks.md R122, R127, R130, R131, R145). -/
def Obligations.Scheduling : Prop :=
  (∀ (s v : State) (d sid : Nat) (e : QEntry) (l : Loc),
    let r := s.activate d
    let p := e.ctxid / 4
    s.runs d = true → (s.die d).inReset = false → (s.die d).queue = [e] → e.state = .queued → e.unread = false →
    e.ranges = [] → s.doms = [] → (∀ t ∈ s.tasks, t.spilled = false) → p < 16 → areaAbsent (s.part p).qarea = false →
    r.chooseSlots d e = some (.one sid) → v.chooseSlots d e = some (.one sid) →
    r.translate e.ctxid .record (e.record + 48) = (v, .ok l) → l.pkg = s.svc.packageId → v.queued = [] → v.requests = [] →
    v.svc.hotbase = 0 →
    (v.word l.pa 4 = 0 → ∃ (u : State) (t : Task), exec (.dispatch d) s = .next u ∧ (u.die d).queue = [] ∧ t ∈ u.tasks ∧
      t.uid = v.nextUid ∧ t.sid = sid ∧ t.pc = e.pc ∧ t.taskrec = e.record ∧ t.ctxid = e.ctxid ∧ t.seq = e.seq ∧
      t.launchid = e.launch ∧ t.domain = e.domain ∧ (t.status = .ready ∨ t.status = .running) ∧
      t.greg 1 = e.args.getD 0 0 ∧ t.greg 2 = e.args.getD 1 0 ∧ t.greg 3 = e.args.getD 2 0 ∧
      t.greg 4 = e.args.getD 3 0 ∧ ∀ k : GReg, 5 ≤ k → t.greg k = 0) ∧
    (v.word l.pa 4 ≠ 0 → ∃ u, exec (.dispatch d) s = .next u ∧ u.tasks = s.tasks ∧
      (u.die d).queue = [{ e with state := .blocked l.pkg (l.pa / 64 * 64) }])) ∧
  (∀ (s : State) (ci : Nat) (t : Task), s.spillable ci = some t →
    (t ∈ s.tasks ∧ t.spilled = false ∧ t.ci = ci ∧ t.ld = 0 ∧ (∃ k, t.status = .parked k) ∧
      ∀ x ∈ s.tasks, x.spilled = false → x.ci = ci → x.ld = 0 → t.order ≤ x.order) ∧
    (s.workFor ci = true → s.parkRoom t.part = true →
      exec (.spill ci) s = .next (s.putTask { t with spilled := true }))) ∧
  (∀ (s : State) (ci : Nat) (t : Task), (s.core ci).running = some t.uid → s.task? t.uid = some t → t.ci = ci →
    (s.halted ci = false → t.gang = none → s.syncEntry t = none → s.awaitsMatrix t = false → ∀ k ks, (s.core ci).ready = k :: ks → ∃ u,
      exec (.quantumExpiry ci) s = .next u ∧ (u.core ci).running = some k ∧ (u.core ci).ready = ks ++ [t.uid] ∧
      (k ≠ t.uid → u.task? t.uid = some { t with status := .ready })) ∧
    ((s.core ci).ready = [] → exec (.quantumExpiry ci) s = .next s) ∧
    (s.syncEntry t ≠ none ∨ s.awaitsMatrix t = true → exec (.quantumExpiry ci) s = .next s) ∧
    ((s.core ci).stalled = false → exec (.issueStallTimeout ci) s = .next s) ∧
    ((s.core ci).stalled = true → s.halted ci = false →
      ((∃ a b c m f, t.wait = .counters a b c m f) ∨ (∃ a n, t.wait = .watermark a n) ∨ (∃ d, t.wait = .domain d) ∨
        (∃ g, t.wait = .generation g)) → exec (.issueStallTimeout ci) s = .next (s.park t .dep t.wait)))

/-- The units beside the cores. A lane group that is granted takes a quarter from the head of a vector queue, and the
last quarter writes its registers, raises its flags and frees the entry; the matrix port executes `MCTX`, `MSCALE` and
`MZERO`; a snapshot crosses the ring; a stream's transfer unit reads ahead or writes behind one vector; requests that
reach a home in one cycle join its queue in the order of their requesters (06_vector.md R158, R162; 08_matrix.md R214
to R222; 07_scratchpad.md R192; 10_atomics.md R280). A grant of up to 16 array cycles to an `MMA`: in integer mode
products are added modulo 2^32; in MAC mode each group of up to sixteen products and the accumulator is one exact sum,
rounded once; in recurrence mode the microprogram runs for each K-step on operands widened to FP32; checksums follow
where they are kept and are cleared where not, and the flags are raised when the instruction completes (08_matrix.md
R213, R214, R221, R225 to R228; 02_numbers.md R48, R56 to R58). A grant to an `MCHK`: 0 where the checksums are not
valid; otherwise the residues of rows and columns against the checksums, those beyond the tolerance, the status word,
and with FIX and one row and one column the corrected element; with RAISE a mismatch that stays ends its task
(08_matrix.md R229). What the checked accesses of queued instructions do in this package: a read gives the bytes at
each place; a write to the core's own scratchpad is made at once, the last to a byte standing, and any other joins the
requests on their way (07_scratchpad.md R198 to R200; 05_tasks.md R143; 11_order.md R286). -/
def Obligations.UnitsWork : Prop :=
  ((∀ (s : State) (die quad : Nat) (e : VEntry) (t : Task) (r : VResult),
     let qi := 64 * die + quad
     let q := s.quad qi
     let ci := 4 * qi + q.vcycle % 4
     let v := (s.setQuad qi { q with vcycle := (q.vcycle + 1) % 4
                                     busy := (q.busy.map (· - 1)).filter (· != 0) }).settleVector qi
     q.busy.length = 3 → (∀ k ∈ coresOf qi, k ≠ ci → (s.core k).vq = []) → (s.core ci).vq = [e] → s.unitsRun ci = true →
     (s.core ci).streamsReady e.instr = true →
     (∀ d a b k z, e.instr ≠ .vdiv d a b k z) → (∀ d a k z, e.instr ≠ .vsqrt d a k z) →
     (1 < e.quarters → exec (.vectorArbiterCycle die quad) s =
       .next (v.modCore ci fun c => { c with vq := [{ e with quarters := e.quarters - 1, started := true }] })) ∧
     (e.quarters = 1 → e.sync = false → e.dropped = false → e.cls = .none → (s.core ci).compute e = some r → s.task? e.uid = some t →
       ∃ (u : State) (x : Task), exec (.vectorArbiterCycle die quad) s = .next u ∧ (u.core ci).vq = r.1.vq.drop 1 ∧
         (u.core ci).v = r.1.v ∧ (u.core ci).k = r.1.k ∧ u.task? t.uid = some x ∧ x.fsr = t.fsr ||| r.2.1 ∧
         x.pc = t.pc ∧ u.mem = s.mem)) ∧
   (∀ (s : State) (ci : Nat) (e : MEntry), s.unitsRun ci = true → (s.core ci).mq = [e] →
     let m := (s.core ci).mctx
     let done := fun (f : MatCtx → MatCtx) => ∃ u, exec (.matrixMemoryPort ci) s = .next u ∧ (u.core ci).mq = [] ∧
       (u.core ci).mctx = f m ∧ u.mem = s.mem
     (∀ a, e.instr = .mctx a → ctxAcc m.word = ctxAcc e.x → ctxRec m.word = ctxRec e.x →
       done fun m => { m with word := e.x, writer := some e.part }) ∧
     (∀ a b, e.instr = .mscale a b → done fun m => { m with bsa := e.x, ssa := e.y }) ∧
     (∀ t, e.instr = .mzero t → ∃ u, exec (.matrixMemoryPort ci) s = .next u ∧ (u.core ci).mq = [] ∧
       (∀ i, i < 64 → ((u.core ci).mctx.tile t).row i = 0) ∧ ((u.core ci).mctx.tile t).cr = 0 ∧
       ((u.core ci).mctx.tile t).cc = 0 ∧ ((u.core ci).mctx.tile t).cv = ctxChk m.word ∧
       ∀ o, o ≠ t → (u.core ci).mctx.tile o = m.tile o) ∧
     (e.instr = .mring →
       (e.placed = false → (s.core ci).link = none → m.latch.bad = [] → ∃ u,
         exec (.mringLinkTransfer ci) s = .next u ∧
         (u.core ci).link = some m.latch ∧ (u.core ci).mq = [{ e with placed := true }]) ∧
       (∀ x, e.placed = true → (s.core (ringCore ci 7)).link = some x → ringCore ci 7 ≠ ci → ∃ u,
         exec (.mringLinkTransfer ci) s = .next u ∧ (u.core ci).mctx = { m with latch := x } ∧ (u.core ci).mq = [] ∧
         (u.core (ringCore ci 7)).link = none))) ∧
   (∀ (s : State) (ci q : Nat) (x : Stream), q < 8 → (s.core ci).q.toList.getD q none = some x → s.unitsRun ci = true →
     s.streamHeld ci (x.addr x.moved) = false → s.queued = [] → s.flips = [] →
     let a := scratchKey ci (x.addr x.moved)
     (x.output = false → x.moved < x.total → x.buffer.length < 4 → exec (.streamTransfer ci q) s =
       .next (s.modCore ci fun c => { c with q := c.q.set! q (some { x with moved := x.moved + 1
                                                                            buffer := x.buffer ++ [BitVec.ofNat 2048
                                                                              (s.word a 256)] }) })) ∧
     (∀ w ws g gs n ns, x.output = true → x.buffer = w :: ws → x.tags = g :: gs → x.serials = n :: ns →
       s.matrixReads ci n (x.addr x.moved) 256 = false → ∃ u, exec (.streamTransfer ci q) s = .next u ∧
       u.word a 256 = w.toNat ∧ (∀ y, y < a ∨ a + 256 ≤ y → u.byte y = s.byte y) ∧ u.tasks = s.tasks ∧
       (u.core ci).q.toList.getD q none = some { x with moved := x.moved + 1, buffer := ws, tags := gs, serials := ns })) ∧
   (∀ (s : State) (x y : Request), s.requests = [x, y] → s.flips = [] → homePlace x.pa = homePlace y.pa → y.index < x.index →
     x.pa < scratchBase → y.pa < scratchBase → y.cls = .none → x.cls = .none → ∃ u,
     exec (.mergeStep (homePlace x.pa) [x.index, y.index]) s = .next u ∧
       u.requests = [] ∧ u.queued = s.queued ++ [y, x] ∧ u.mem = s.mem ∧ u.tasks = s.tasks)) ∧
  ((∀ (s : State) (die quad : Nat) (e : MEntry) (t : Task) (tr : TReg) (a b c : GReg),
     let qi := 64 * die + quad
     let n := (s.quad qi).mgrant
     let ci := 4 * qi + n / 4
     let m := (s.core ci).mctx
     let kept := ctxChk m.word && (m.tile tr).cv
     let eight := fun f => f = 2 ∨ f = 3 ∨ f = 4
     let rate := if eight (ctxA m.word) ∧ (eight (ctxB m.word) ∨ ctxB m.word = 5) then 2 else 1
     let k := min (if ctxRec m.word then max 1 (16 / max 1 m.prog.length) else 16 * rate) (mmaK e.y - e.steps)
     let p := fun i x => ((s.operandA ci e (ctxA m.word) e.steps k).getD i []).getD x 0
     let q := fun x j => (m.latch.row (ctxB m.word) (mmaKo e.y + e.steps + x)).getD j 0
     let old := fun i j => (elem 32 ((m.tile tr).row i) j).toNat
     n < 16 → n % 4 = 0 → s.matrixEligible ci = true → (s.core ci).mq = [e] → e.instr = .mma tr a b c →
     validContext m.word = true → (m.tile tr).bad = [] → (m.tile tr).badSums = false → m.latch.bad = [] → s.task? e.uid = some t → e.dropped = false →
     ∃ (u : State) (fl : Flags), exec (.matrixGrant die quad) s = .next u ∧ (u.quad qi).mgrant = (n + 1) % 16 ∧
       u.mem = s.mem ∧ (∀ o, o ≠ tr → (u.core ci).mctx.tile o = m.tile o) ∧
       (e.steps + k < mmaK e.y → (u.core ci).mq = [{ e with steps := e.steps + k, flags := e.flags ||| fl }]) ∧
       (mmaK e.y ≤ e.steps + k → (u.core ci).mq = [] ∧ ∃ z, u.task? e.uid = some z ∧ z.fsr = t.fsr ||| (e.flags ||| fl) ∧
         z.pc = t.pc ∧ z.g = t.g) ∧
       (let y := (u.core ci).mctx.tile tr
        let new := fun i j => (elem 32 (y.row i) j).toNat
        y.cv = ((m.tile tr).cv && ctxChk m.word && !ctxRec m.word) ∧
        (ctxRec m.word = false → ctxAcc m.word = true → fl = 0 ∧
         (let x8 := fun v : Nat => (BitVec.ofNat 8 v).toInt
          let sum := fun f : Nat → Int => ((List.range k).map f).sum
          let all := fun f : Nat → Int => ((List.range 64).map f).sum
          (∀ i j, i < 64 → j < 64 → elem 32 (y.row i) j =
            BitVec.ofInt 32 ((old i j : Int) + sum fun x => x8 (p i x) * x8 (q x j))) ∧
          (kept = true → ∀ i, i < 64 →
            elem 32 y.cr i = BitVec.ofInt 32 (((elem 32 (m.tile tr).cr i).toNat : Int) +
              sum fun x => x8 (p i x) * all fun j => x8 (q x j)) ∧
            elem 32 y.cc i = BitVec.ofInt 32 (((elem 32 (m.tile tr).cc i).toNat : Int) +
              sum fun x => (all fun j => x8 (p j x)) * x8 (q x i))))) ∧
        (ctxRec m.word = false → ctxAcc m.word = false →
         let va := fun i x => operandValue (ctxA m.word) (p i x)
         let vb := fun x j => operandValue (ctxB m.word) (q x j)
         let group := fun (g : Nat) (c : Nat) (f h : Nat → Machine.Num) =>
           let ps := ((List.range k).filter fun x => x / 16 = g).map fun x => (f x).mul (h x)
           Format.sum .f32 (Format.value .f32 c :: ps.filterMap id) (ps.any Option.isNone)
         let last := (k + 15) / 16
         (∀ acc : Nat → Nat → Nat → Nat, (∀ i j, acc 0 i j = old i j) →
           (∀ g i j, acc (g + 1) i j = (group g (acc g i j) (va i) (vb · j)).bits % 2 ^ 32) →
           (∀ i j, i < 64 → j < 64 → new i j = acc last i j) ∧
           ∀ f : Nat, fl.getLsbD f = true ↔ ∃ g i j, g < last ∧ i < 64 ∧ j < 64 ∧
             (group g (acc g i j) (va i) (vb · j)).flags.getLsbD f = true) ∧
         (kept = true → ∀ (cr cc : Nat → Nat → Nat) (i : Nat), i < 64 → cr 0 i = (elem 32 (m.tile tr).cr i).toNat →
           cc 0 i = (elem 32 (m.tile tr).cc i).toNat →
           (∀ g, cr (g + 1) i = (group g (cr g i) (va i) fun x => exactSum ((List.range 64).map (vb x))).bits % 2 ^ 32) →
           (∀ g, cc (g + 1) i = (group g (cc g i) (fun x => exactSum ((List.range 64).map (va · x))) (vb · i)).bits %
             2 ^ 32) →
           (elem 32 y.cr i).toNat = cr last i ∧ (elem 32 y.cc i).toNat = cc last i)) ∧
        (ctxRec m.word = true →
         let wa := fun i x => widenOperand (ctxA m.word) (p i x)
         let wb := fun x j => widenOperand (ctxB m.word) (q x j)
         let run := fun (i j x c : Nat) => m.prog.foldl (programOp (wa i x).1 (wb x j).1) ((c, 0, 0), 0)
         ∀ acc : Nat → Nat → Nat → Nat, (∀ i j, acc 0 i j = old i j) →
           (∀ x i j, acc (x + 1) i j = (run i j x (acc x i j)).1.1) →
           (∀ i j, i < 64 → j < 64 → new i j = acc k i j % 2 ^ 32) ∧
           ∀ f : Nat, fl.getLsbD f = true ↔ ∃ x i j, x < k ∧ i < 64 ∧ j < 64 ∧
             ((wa i x).2 ||| (wb x j).2 ||| (run i j x (acc x i j)).2).getLsbD f = true))) ∧
   (∀ (s : State) (ci cj o i k0 n x : Nat) (e : MEntry) (code : Nat), i < 64 → x < n →
     scratchOf ci (e.x + e.z * BitVec.ofNat 64 i) = some (cj, o) →
     ((s.operandA ci e code k0 n).getD i []).getD x 0 =
       s.word (scratchKey cj (o + (k0 + x) * typeBytes code)) (typeBytes code)) ∧
   (∀ (y : Latch) (f k j : Nat), j < 64 → (f ≠ 5 → (y.row f k).getD j 0 =
       leNat ((y.data.drop (typeBytes f * (64 * k + j))).take (typeBytes f))) ∧
     ((y.row 5 k).getD j 0 = gq4Decode (leNat ((y.data.drop (32 * k + j / 2)).take 1) / 16 ^ (j % 2) % 16)
       (y.scales.getD k 0).toNat y.scale.toNat)) ∧
   (∀ (p q : Nat) (r : Nat × Nat × Nat) (fl : Flags) (o : BitVec 32),
     let bits := fun lo n => o.toNat / 2 ^ lo % 2 ^ n
     let source := fun f => match f with | 0 => r.1 | 1 => p | 2 => q | 3 => r.2.1 | _ => r.2.2
     let x := source (bits 7 3)
     let y := source (bits 4 3)
     let vx := Format.value .f32 x
     let vy := Format.value .f32 y
     let put := fun v => match bits 10 3 with
       | 0 => (v, r.2.1, r.2.2)
       | 3 => (r.1, v, r.2.2)
       | _ => (r.1, r.2.1, v)
     let makes := fun (z : Rounded) => programOp p q (r, fl) o = (put z.bits, fl ||| z.flags)
     (bits 13 3 = 0 → makes (Format.sum .f32 [vx, vy] false)) ∧
     (bits 13 3 = 1 → makes (Format.sum .f32 [vx, vy.negate] false)) ∧
     (bits 13 3 = 2 → makes (Format.mul .f32 vx vy)) ∧ (bits 13 3 = 3 → makes (Format.minmax .f32 false x y)) ∧
     (bits 13 3 = 4 → makes (Format.minmax .f32 true x y)) ∧
     (bits 13 3 = 5 → programOp p q (r, fl) o =
       (if (!(vx.isNan || vy.isNan) && vx.lt vy) then put (source (bits 1 3)) else r,
         fl ||| if vx.isNan || vy.isNan then 0x10 else 0)))) ∧
  (∀ (s : State) (die quad : Nat) (e : MEntry) (t : Task) (tr : TReg) (a c : GReg) (raise fix : Bool),
     let qi := 64 * die + quad
     let n := (s.quad qi).mgrant
     let ci := 4 * qi + n / 4
     let m := (s.core ci).mctx
     let tile := m.tile tr
     n < 16 → n % 4 = 0 → s.matrixEligible ci = true → (s.core ci).mq = [e] → e.instr = .mchk tr a c raise fix →
     tile.bad = [] → tile.badSums = false → s.task? e.uid = some t → e.dropped = false →
     let step := exec (.matrixGrant die quad) s
     (tile.cv = false → ∃ u, step = .next u ∧ (u.core ci).mq = [] ∧ (u.core ci).mctx = m ∧
       ∃ z, u.task? e.uid = some z ∧ z.g = (t.setG c 0).g ∧ z.fsr = t.fsr ∧ z.pc = t.pc) ∧
     (tile.cv = true → ∀ (rr rc : Nat → BitVec 32) (bad : BitVec 32 → Bool) (st : Word),
       let el := fun i j => elem 32 (tile.row i) j
       let value := fun (z : BitVec 32) => Format.value .f32 z.toNat
       let residue := fun (xs : List (BitVec 32)) (y : BitVec 32) => if ctxAcc m.word then xs.sum - y
         else BitVec.ofNat 32 (Format.sum .f32 ((value y).negate :: xs.map value) false).bits
       let tau := e.x.setWidth 32
       let size : Machine.Num → Machine.Num := fun z => match z with
         | .nan b => .nan b
         | .inf _ => .inf false
         | .fin _ f k => .fin false f k
       (∀ i, rr i = residue ((List.range 64).map fun j => el i j) (elem 32 tile.cr i)) →
       (∀ j, rc j = residue ((List.range 64).map fun i => el i j) (elem 32 tile.cc j)) →
       (∀ z, bad z = if ctxAcc m.word then decide (tau.toInt < z.toInt.natAbs)
         else (value z).isNan || (value tau).lt (size (value z))) →
       let rows := (List.range 64).filter fun i => bad (rr i)
       let cols := (List.range 64).filter fun j => bad (rc j)
       let i := rows.headD 0
       let j := cols.headD 0
       let wrong := decide (rows ≠ [] ∨ cols ≠ [])
       let fixed := fix && decide (rows.length = 1 ∧ cols.length = 1) &&
         (ctxAcc m.word || (!(value (rr i)).isNan && !(value (rr i)).isInf))
       st = 1#1 ++ BitVec.ofBool wrong ++ BitVec.ofBool fixed ++ 0#3 ++ BitVec.ofNat 7 cols.length ++
         BitVec.ofNat 7 rows.length ++ BitVec.ofNat 6 j ++ BitVec.ofNat 6 i ++ (if rows = [] then 0#32 else rr i) →
       ∃ u, step = .next u ∧
         ((raise && wrong && !fixed) = false → u.mem = s.mem ∧ (u.core ci).mq = [] ∧
           (∃ z, u.task? e.uid = some z ∧ z.g = (t.setG c st).g ∧ z.fsr = t.fsr ∧ z.pc = t.pc) ∧
           ∀ x y, x < 64 → y < 64 → elem 32 (((u.core ci).mctx.tile tr).row x) y =
             if fixed = true ∧ x = i ∧ y = j then (if ctxAcc m.word then el i j - rr i
               else BitVec.ofNat 32 (Format.sum .f32 [value (el i j), (value (rr i)).negate] false).bits)
             else el x y) ∧
         ((raise && wrong && !fixed) = true → ∀ y ∈ u.tasks, y.uid ≠ e.uid))) ∧
  (∀ (s : State) (t : Task) (g : Agent),
     (∀ ls : List (Loc × Nat), s.flips = [] → s.queued = [] → s.requests = [] → s.poison = [] → t.overlay = [] →
       (∀ x ∈ ls, x.1.pkg = s.svc.packageId) → ∃ u,
       s.unitRead t g ls = (u, .bytes (ls.map fun x => s.bytes x.1.pa x.2)) ∧ u.mem = s.mem ∧ u.cores = s.cores) ∧
     (∀ (n : Nat) (ws : List (Word × Loc × List Byte)), s.queued = [] → t.isShadow = false → 0 < n →
       (∀ x ∈ ws, x.2.1.pkg = s.svc.packageId ∧ x.2.2.length = n) →
       ((∀ x ∈ ws, x.2.1.scratch = true ∧ scratchCore x.2.1.pa = t.ci) → (s.unitStore t g ws).requests = s.requests ∧
         ∀ y, (s.unitStore t g ws).byte y = ws.foldl (fun b x =>
           if x.2.1.pa ≤ y ∧ y < x.2.1.pa + n then x.2.2.getD (y - x.2.1.pa) 0 else b) (s.byte y)) ∧
       ((∀ x ∈ ws, x.2.1.scratch = false) → (ws.map (·.2.1.pa)).Nodup → (s.unitStore t g ws).mem = s.mem ∧
         (s.unitStore t g ws).requests = s.requests ++ ws.map fun x => ⟨s.who t, t.index, x.2.1.pa, .store x.2.2,
           if g.cls = .fb then .none else g.cls, some t.tag, g.op, [], 0⟩)))

/-- Pre-emption, resumption and scans: issue stops, a drained core is saved with notice 1 to the partitions on it, and
resumes; a quad is drained for its scan, a pass ends the doubt about its work and lets a released quad go, a failure
quarantines it and fails work in no domain; a hung core loses its tasks and is reset, and takes work again after it
(05_tasks.md R154, R155; 14_containment.md R368, R369; 15_faults.md R398, R399, R407). -/
def Obligations.PreemptionAndScans : Prop :=
  (∀ (s : State) (ci : Nat),
    let c := s.core ci
    ((c.preempted = true ∨ c.stopping = true) → exec (.preemptRequest ci) s = .next s) ∧
    (c.preempted = false → c.stopping = false → (∀ t ∈ s.tasks, t.gang = none) →
      exec (.preemptRequest ci) s =
        .next (s.setCore ci { c with stopping := true, notices := [], quiet := false })) ∧
    (c.stopping = false → exec (.preemptSave ci) s = .next s) ∧
    (∀ t : Task, c.stopping = true → (s.quad (quadOf ci)).drained = false → s.tasks = [t] → t.ci = ci → t.spilled = false →
      s.requests = [] → c.vq = [] → c.mq = [] → c.chans = Vector.replicate 8 {} → c.mctx = {} → c.quiet = false →
      (s.part t.part).resetting = false →
      c.q = Vector.replicate 8 none → s.fab.out = [] → c.notices = [] → (s.die (dieOf ci)).entries = [] →
      (s.die (dieOf ci)).unreported = [] →
      let area := (s.part t.part).savearea.toNat / 2 ^ 16 % 2 ^ 25 * 0x10000
      let shared := s.part (s.segmentPart ci 0)
      (area ≠ 0 → (shared.resetting = true ∨ shared.savearea.toNat / 2 ^ 16 % 2 ^ 25 ≠ 0) → ∃ (u : State) (i : Nat) (e : FaultEntry), exec (.preemptSave ci) s = .next u ∧
        (u.core ci).preempted = true ∧ (u.core ci).stopping = false ∧ u.tasks = s.tasks ∧ u.mem = s.mem ∧
        (u.die (dieOf ci)).entries = [(i, e)] ∧ e.kind = 2 ∧ e.note = 1 ∧ e.cause = 0 ∧ e.part = t.part ∧
        e.vaddr = BitVec.ofNat 64 (area + ci * 393216) ∧ e.record = BitVec.ofNat 64 (16 * ci)) ∧
      (area = 0 → ∃ u, exec (.preemptSave ci) s = .next u ∧ (u.core ci).preempted = c.preempted ∧
        (u.core ci).stopping = true ∧ u.tasks = s.tasks ∧ (0x50, stalledCore ci) ∈ (u.part t.part).noted)) ∧
    (c.preempted = false → exec (.resumeRequest ci) s = .next s) ∧
    (c.preempted = true → c.diverted = [] → c.ready = [] → s.queued = [] → ∃ u, exec (.resumeRequest ci) s = .next u ∧
      u.core ci = { c with preempted := false, quiet := false } ∧ u.mem = s.mem ∧ u.requests = s.requests ∧
      u.tasks = (s.modTasks ((s.tasks.filter fun t => t.ci == ci).map (·.uid)) (·.upToDate s)).tasks) ∧
    (c.resetting = true → c.diverted = [] → c.ready = [] →
      exec (.coreResetEnd ci) s = .next (s.setCore ci { c with resetting := false })) ∧
    (s.halted ci = true → exec (.watchdogExpiry ci) s = .next s) ∧
    ((∀ t ∈ s.tasks, t.ci = ci → t.status ≠ .ready ∧ t.status ≠ .running) → exec (.watchdogExpiry ci) s = .next s) ∧
    (s.gatedStall ci = true → exec (.watchdogExpiry ci) s = .next s) ∧
    (s.halted ci = false → s.gatedStall ci = false → (∃ t ∈ s.tasks, t.spilled = false ∧ t.ci = ci ∧ t.status = .running) → ∃ u,
      exec (.watchdogExpiry ci) s = .next u ∧ (u.core ci).resetting = true ∧ (u.core ci).running = none ∧
      (u.core ci).cycle = 0 ∧ ∀ x ∈ u.tasks, x.spilled = true ∨ x.ci ≠ ci)) ∧
  (∀ (s : State) (die quad pattern : Nat),
    let qi := 64 * die + quad
    let q := s.quad qi
    exec (.scanSlotStart die quad) s = .next (s.setQuad qi { q with drained := true }) ∧
    exec (.quarantineRelease die quad) s = .next (s.setQuad qi { q with release := q.quarantined }) ∧
    (q.drained = false → exec (.scanPass die quad) s = .next s ∧ exec (.scanFail die quad pattern) s = .next s) ∧
    (q.drained = true → (∀ k ∈ coresOf qi, (s.core k).diverted = []) → ∃ u, exec (.scanPass die quad) s = .next u ∧ (u.quad qi).ran = [] ∧
      (u.quad qi).drained = false ∧ (u.quad qi).quarantined = (q.quarantined && !q.release)) ∧
    (q.drained = true → (∀ k ∈ coresOf qi, (s.core k).diverted = []) → ∃ u, exec (.scanFail die quad pattern) s = .next u ∧ (u.quad qi).drained = false ∧
      (u.quad qi).quarantined = true ∧
      ∀ w l, q.ran = [w] → w.dom = 0 → (s.part (w.ctxid / 4)).resetting = false →
        s.launch? (w.ctxid / 4) w.launch = some l →
        (∃ x ∈ u.posts, x.launch = w.launch ∧ x.event = 4 ∧ x.status = 4) ∧ u.launch? (w.ctxid / 4) w.launch = none))

/-- Device space: which windows and registers an access reaches, that others count MISUSE, the weights, enables,
areas, allotments and mode that a write leaves, the interrupt that an unmasked vector sends, and the link of the host
(16_system.md R411 to R420, R423; 13_fabric.md R329; 15_faults.md R395, R408). A partition reset, by PCTL, a
function-level reset or the management port: the partition is disabled at once and its queue entries are gone, and the
cores with its tasks begin to be pre-empted; once none holds one, and its stores in class `fb` have left, its tasks,
domains and fault entries are gone, its launches end FAILED with RESET, its segments of scratchpads are zero, its
launch ids start again under a new epoch, and nothing of another partition's memory changes; the reset ends with
vector 3 once its records are posted and its messages have left. A conventional reset resets all sixteen and zeroes
the allotments; a device write to PCTL starts it (16_system.md R412, R414; 05_tasks.md R156). -/
def Obligations.DeviceRegistersAndResets : Prop :=
  ((∀ (s : State) (writer pa : Nat) (v : Word), reachable ⟨writer, false⟩ pa = none →
     exec (.registerWrite writer pa v) s = .next s.countMisuse) ∧
   (∀ (s : State) (writer p o : Nat) (v : Word), o < 0x40000000 → p < 16 → writer ≠ 0 → writer ≠ p →
     exec (.registerWrite writer (0x1E000000000 + p * 0x40000000 + o) v) s = .next s.countMisuse) ∧
   (∀ (s : State) (writer p : Nat) (v : Word), p < 16 → (writer = 0 ∨ writer = p) →
     let window := 0x1E000000000 + p * 0x40000000
     let x := s.part p
     let put := fun y : Part => s.setPart p y
     let areaOk := fun lo hi : Nat => v.toNat < 2 ^ 41 ∧ v.toNat / 2 ^ 5 % 2 ^ 11 = 0 ∧ lo ≤ v.toNat % 32 ∧ v.toNat % 32 ≤ hi
     (x.en = true → exec (.registerWrite writer (window + 0x40) v) s = .next s.countMisuse ∧
       exec (.registerWrite writer (window + 0x50) v) s = .next s.countMisuse) ∧
     (x.en = false → areaOk 10 20 →
       exec (.registerWrite writer (window + 0x40) v) s = .next (put { x with qarea := v, noted := [] })) ∧
     (x.en = false → areaOk 8 20 →
       exec (.registerWrite writer (window + 0x48) v) s = .next (put { x with pqarea := v, noted := [] })) ∧
     (x.en = false → areaOk 0 0 →
       exec (.registerWrite writer (window + 0x50) v) s = .next (put { x with savearea := v, noted := [] }) ∧
       exec (.registerWrite writer (window + 0x60) v) s = .next (put { x with domarea := v, noted := [] })) ∧
     (x.en = false → (¬ areaOk 10 20 → exec (.registerWrite writer (window + 0x40) v) s = .next s.countMisuse) ∧
       (¬ areaOk 0 0 → exec (.registerWrite writer (window + 0x50) v) s = .next s.countMisuse)) ∧
     (x.en = false → areaOk 6 20 →
       exec (.registerWrite writer (window + 0x58) v) s = .next (put { x with spillarea := v, noted := [] })) ∧
     (x.en = false → v.toNat % 0x10000 = 0 → v.toNat < 2 ^ 41 → ∀ n, n < 4 →
       exec (.registerWrite writer (window + 0x1000 + 0x100 * n + 0x40) v) s =
         .next (s.setCtx (4 * p + n) { s.ctx (4 * p + n) with ptroot := v })) ∧
     (∀ n, n < 4 → let c := s.ctx (4 * p + n)
       let full := fun size tail : Word => size ≠ 0 ∧ 2 ^ size.toNat < (tail.toNat + 2 ^ 32 - c.lqhead.toNat) % 2 ^ 32
       let tailed := s.setCtx (4 * p + n) { c with lqtail := v }
       let sized := s.setCtx (4 * p + n) { c with lqsize := v }
       (v.toNat < 2 ^ 32 → exec (.registerWrite writer (window + 0x1000 + 0x100 * n + 0x10) v) s =
         .next (if full c.lqsize v then tailed.countMisuse else tailed)) ∧
       (x.en = false → v = 0 ∨ 4 ≤ v.toNat ∧ v.toNat ≤ 15 →
         exec (.registerWrite writer (window + 0x1000 + 0x100 * n + 0x08) v) s =
           .next (if full v c.lqtail ∧ ¬ full c.lqsize c.lqtail then sized.countMisuse else sized))) ∧
     exec (.registerWrite writer (window + 0x1018) v) s = .next s) ∧
   (∀ (s : State) (p pa n : Nat) (v : Word),
     exec (.windowServiceOperation p (.store pa 8 v)) s = exec (.registerWrite p pa v) s ∧
     (n ≠ 8 → exec (.windowServiceOperation p (.store pa n v)) s = .next s.countMisuse) ∧
     ((n ≠ 8 ∨ reachable ⟨p, false⟩ pa = none) → exec (.windowServiceOperation p (.load pa n)) s =
       .next (s.countMisuse.setPart p { s.part p with lastRead := 0 })) ∧
     (p < 16 → exec (.windowServiceOperation p (.load (0x1E000000000 + p * 0x40000000 + 0x40) 8)) s =
       .next (s.setPart p { s.part p with lastRead := (s.part p).qarea })) ∧
     (∃ u, exec (.registerWrite 0 0x1F000050018 v) s = .next u ∧ u.svc.selfNext = s.svc.selfNext)) ∧
   (∀ (s : State) (writer p : Nat) (v : Word),
     (writer ≠ 0 → exec (.pqosWrite writer p v) s = .next s.countMisuse) ∧
     (writer = 0 → v.toNat < 2 ^ 32 → exec (.pqosWrite writer p v) s = .next (s.setPart p { s.part p with pqos := v })) ∧
     exec (.pctlEnable p false) s = .next (s.setPart p { s.part p with en := false }) ∧
     ((∀ n, n < 4 → (s.ctx (4 * p + n)).ptroot = 0) →
       exec (.pctlEnable p true) s = .next (s.setPart p { s.part p with en := true })) ∧
     (∀ n, n < 4 → (s.ctx (4 * p + n)).ptroot ≠ 0 → (s.ctx (4 * p + n)).arlen ≠ 0 →
       (s.ctx (4 * p + n)).alloccfg.toNat < 12 → exec (.pctlEnable p true) s = .next s.countMisuse)) ∧
   (∀ (s : State) (p k : Nat), k < 5 →
     let x := s.part p
     ∃ u, exec (.msixUnmask p k) s = .next u ∧ (u.part p).masked.getLsbD k = false ∧
       (u.part p).pending.getLsbD k = false ∧ (∀ j, j ≠ k → (u.part p).masked.getLsbD j = x.masked.getLsbD j) ∧
       (s.svc.hostLost = false ∨ s.svc.self = true ∨ x.pending.getLsbD k = false →
         Sparse.read 0 (u.part p).sent k = Sparse.read 0 x.sent k + (if x.pending.getLsbD k then 1 else 0) ∧
         u.svc = s.svc) ∧
       (s.svc.hostLost = true → s.svc.self = false → x.pending.getLsbD k = true →
         Sparse.read 0 (u.part p).sent k = Sparse.read 0 x.sent k ∧ u.svc.dropped = s.svc.dropped + 1) ∧
       u.tasks = s.tasks ∧ u.mem = s.mem) ∧
   (∀ (s : State) (id : Nat) (v : Byte),
     (id < 0xFFE → ∃ u, exec (.channelAllotmentWrite id v) s = .next u ∧ Sparse.read 0 u.fab.allot id = v ∧
       (∀ k, k ≠ id → Sparse.read 0 u.fab.allot k = Sparse.read 0 s.fab.allot k) ∧
       (∀ d, d < 1024 → u.sender id d = SendPair.idle ∧ u.receiver id d = RecvPair.idle) ∧
       (u.fab.opened.find? (·.1 == id)) = none ∧ u.mem = s.mem ∧ u.tasks = s.tasks) ∧
     (0xFFE ≤ id → exec (.channelAllotmentWrite id v) s = .next s)) ∧
   (∀ s : State,
     exec .pcieLinkDown s = .next { s with svc := { s.svc with pcieUp := false } } ∧
     exec .pcieLinkUp s = .next { s with svc := { s.svc with pcieUp := true, hostLost := false } } ∧
     ∃ u, exec .pcieCompletionTimeout s = .next u ∧ (∀ x ∈ u.posts, x ∈ s.posts ∧ s.postsAfar x = false) ∧
       u.svc.dropped = s.svc.dropped + 2 * (s.posts.length - u.posts.length) ∧ u.tasks = s.tasks ∧ u.mem = s.mem)) ∧
  ((∀ (s : State) (p : Nat),
     exec (.pcieFlr p) s = exec (.pctlReset p) s ∧
     ((s.part p).resetting = true → exec (.pctlReset p) s = .next s) ∧
     ((s.part p).resetting = false → ∃ u, exec (.pctlReset p) s = .next u ∧
       (u.part p).en = false ∧ (u.part p).resetting = true ∧ (u.part p).pqos = (s.part p).pqos ∧
       (u.part p).qarea = (s.part p).qarea ∧ u.svc = s.svc ∧
       (∀ t ∈ u.tasks, t.part = p → t.spilled = false) ∧ (∀ d, ∀ e ∈ (u.die d).queue, e.ctxid / 4 ≠ p) ∧
       (∀ t ∈ u.tasks, t.part = p → (u.core t.ci).preempted = true ∨ (u.core t.ci).stopping = true) ∧
       (s.coresWith p = [] → s.fbLeft p = true → (u.part p).launchNext = 1 ∧ (u.part p).epoch = (s.part p).epoch + 1 ∧
         (∀ t ∈ u.tasks, t.part ≠ p) ∧ (∀ d, ∀ e ∈ (u.die d).entries, e.2.part ≠ p) ∧ (∀ d ∈ u.doms, d.ctxid / 4 ≠ p) ∧
         (∀ l ∈ u.launches, l.part ≠ p) ∧
         (∀ l ∈ s.launches, l.part = p → ∃ x ∈ u.posts, x.part = p ∧ x.launch = l.id ∧ x.event = 4 ∧ x.status = 5) ∧
         (∀ a, s.inSegment p a = true → u.byte a = 0) ∧
         (s.queued = [] → (∀ r ∈ s.requests, r.who.part ≠ p) → s.doms = [] → s.launches = [] → ∀ a, s.inSegment p a = false → u.byte a = s.byte a)))) ∧
   (∀ (s : State) (p : Nat), (s.part p).resetting = true → (s.part p).resetStep = 2 →
     (((∃ x ∈ s.posts, x.part = p) ∨ (∃ m ∈ s.fab.out, m.who.part = p) ∨ ∃ r ∈ s.requests, r.who.part = p) →
       s.settleReset p = s) ∧
     ((∀ x ∈ s.posts, x.part ≠ p) → (∀ m ∈ s.fab.out, m.who.part ≠ p) → (∀ r ∈ s.requests, r.who.part ≠ p) →
       ((s.settleReset p).part p).resetting = false ∧ ((s.settleReset p).part p).en = (s.part p).en ∧
       ((s.part p).masked.getLsbD 3 = false → (s.svc.hostLost = false ∨ s.svc.self = true) →
         Sparse.read 0 ((s.settleReset p).part p).sent 3 = Sparse.read 0 (s.part p).sent 3 + 1) ∧
       ((s.part p).masked.getLsbD 3 = true → ((s.settleReset p).part p).pending.getLsbD 3 = true))) ∧
   (∀ s : State, (∀ p, (s.part p).resetting = false) → ∃ u, exec .pcieConventionalReset s = .next u ∧
     (∀ p, p < 16 → (u.part p).en = false ∧ (u.part p).resetting = true) ∧
     ((∀ p, s.coresWith p = []) → (∀ p, s.fbLeft p = true) → (∀ t ∈ u.tasks, 16 ≤ t.part) ∧
       u.svc.self = s.svc.selfNext ∧ u.svc.hostAllot = [] ∧ (∀ ci, (u.core ci).spallot = 0) ∧
       (∀ d, (u.die d).mrallot = 0) ∧ (∀ q, (u.quad q).evallot = 0) ∧
       ∀ ch, ch < 0xFFE → Sparse.read 0 u.fab.allot ch = 0)) ∧
   (∀ (s : State) (p : Nat) (v : Word), p < 16 → v.toNat < 4 → v.getLsbD 0 = true →
     exec (.registerWrite p (0x1E000000000 + p * 0x40000000) v) s = exec (.pctlReset p) s))

/-- The fault buffer: the load of FBNEXT doubleword 0 takes the oldest unread entry and latches it, or latches zeros;
a serviced entry is freed, RETRY wakes the task whose access faulted, KILL ends it as a software error with the
entry's cause, a VOID entry does nothing more, and an entry that is not held counts MISUSE; a waiting fault is written
with UNREP set (15_faults.md R385 to R388, R395). A fetch that meets no present page writes a fault entry at the
fetched address and parks its task; a reserved encoding raises ILLEGAL; the operations of a partition window act as
the instructions do (05_tasks.md R138; 03_encoding.md R86; 15_faults.md R390 to R394). -/
def Obligations.FaultsAndWindow : Prop :=
  ((∀ (s : State) (p d i : Nat) (e : FaultEntry) (rest : Table FaultEntry), (s.die d).entries = (i, e) :: rest →
     e.part = p → i < 4096 →
     let freed := s.setDie d { s.die d with entries := Sparse.erase (s.die d).entries i }
     (e.read = false → (∀ x ∈ rest, x.1 ≠ i ∧ e.age < x.2.age) → ∃ u, exec (.fbnextRead p d) s = .next u ∧
       Sparse.read [] (u.die d).latch p = leBytes 32 (e.bits i) ∧
       (u.part p).lastRead = BitVec.ofNat 64 (e.bits i) ∧
       (u.die d).entries = (i, { e with read := true }) :: rest ∧ u.tasks = s.tasks ∧ u.mem = s.mem) ∧
     (e.void = true → exec (.fbsvcRetry p d i) s = .next freed ∧ exec (.fbsvcKill p d i) s = .next freed) ∧
     (e.void = false → e.kind = 2 → exec (.fbsvcRetry p d i) s = .next freed ∧
       exec (.fbsvcKill p d i) s = .next freed) ∧
     (∀ t, e.void = false → e.kind = 0 → e.target = .task t.uid → s.task? t.uid = some t →
       (t.wait = .service → exec (.fbsvcRetry p d i) s =
         .next ((freed.forget (· == e.ctxid) (some (e.vaddr.toNat / 0x10000))).wake t)) ∧
       exec (.fbsvcKill p d i) s = .next (freed.softwareError t e.cause)) ∧
     (∀ a q, e.void = false → e.kind = 1 → e.target = .lease d a → (s.die d).queue = [q] → q.age = a →
       q.state = .waiting 1 →
       (∃ u, exec (.fbsvcRetry p d i) s = .next u ∧ (u.die d).queue = [{ q with state := .queued }] ∧
         u.tasks = s.tasks) ∧
       (∀ l, s.launch? p q.launch = some l → (s.part p).resetting = false → ∃ u, exec (.fbsvcKill p d i) s = .next u ∧
         (∃ x ∈ u.posts, x.launch = q.launch ∧ x.event = 4 ∧ x.status = 6) ∧ u.launch? p q.launch = none)) ∧
     (∀ t l, e.void = false → e.kind = 1 → e.target = .task t.uid → s.task? t.uid = some t →
       s.launch? t.part t.launchid = some l → (s.part t.part).resetting = false → ∃ u,
         exec (.fbsvcKill p d i) s = .next u ∧ (∃ x ∈ u.posts, x.launch = t.launchid ∧ x.event = 4 ∧ x.status = 6) ∧
         u.launch? t.part t.launchid = none)) ∧
   (∀ (s : State) (p d : Nat), (∀ x ∈ (s.die d).entries, x.2.part = p → x.2.read = true) →
     ∃ u, exec (.fbnextRead p d) s = .next u ∧ Sparse.read [] (u.die d).latch p = [] ∧ (u.part p).lastRead = 0 ∧
       (u.die d).entries = (s.die d).entries ∧ u.tasks = s.tasks) ∧
   (∀ (s : State) (p d i : Nat), (∀ x ∈ (s.die d).entries, x.1 = i → x.2.part ≠ p) →
     exec (.fbsvcRetry p d i) s = .next s.countMisuse ∧ exec (.fbsvcKill p d i) s = .next s.countMisuse) ∧
   (∀ (s : State) (d : Nat) (e : FaultEntry),
     ((s.die d).unreported = [] → exec (.unreportedFaultWrite d) s = .next s) ∧
     ((s.die d).unreported = [e] → (s.die d).mayWrite e.part = true → ∃ (u : State) (i : Nat),
       exec (.unreportedFaultWrite d) s = .next u ∧ (u.die d).unreported = [] ∧
       (i, { e with unrep := true, age := s.clock }) ∈ (u.die d).entries ∧
       ∀ t, e.target = .task t.uid → s.task? t.uid = some t → u.task? t.uid = some { t with unreported := false }))) ∧
  ((∀ (s : State) (t : Task) (w : IWord), s.current = some t → Traps (.reservedEncoding w) s t 0x01) ∧
   (∀ (s : State) (t : Task), s.task? t.uid = some t →
     (t.status ≠ .running → exec (.instructionFetchFault t.uid) s = .next s) ∧
     (∀ (v : State) (a : Word) (f : PageFault), t.status = .running → s.fetchWord t t.pc = (v, .denied a (.page f)) →
       exec (.instructionFetchFault t.uid) s = .next (v.faultPark t .fetch a f.cause f))) ∧
   (∀ (s : State) (p : Nat) (v : Word) (x : State),
     (∀ d, s.diagnose d v = none → exec (.windowServiceOperation p (.diagr d v)) s = .next s) ∧
     (∀ d y, s.diagnose d v = some y → exec (.windowServiceOperation p (.diagr d v)) s =
       .next (s.setPart p { s.part p with lastRead := y })) ∧
     (invalidation v = none → exec (.windowServiceOperation p (.tlbinv v)) s = .next s) ∧
     (invalidation v = some true → ∃ u, exec (.windowServiceOperation p (.tlbinv v)) s = .next u ∧ u.tasks = s.tasks ∧
       u.mem = s.mem ∧ ∀ q, (∀ e ∈ (u.quad q).caps, e.1 / 4 ≠ p) ∧ ∀ c ∈ (u.quad q).tlb, c.ctxid / 4 ≠ p) ∧
     (meshInterrupt v = none → exec (.windowServiceOperation p (.mirq v)) s = .next s) ∧
     (∀ ci, meshInterrupt v = some (ci, true) →
       exec (.windowServiceOperation p (.mirq v)) s = exec (.resumeRequest ci) s) ∧
     (∀ ci, meshInterrupt v = some (ci, false) → (s.core ci).preempted = false → (s.core ci).stopping = false →
       exec (.preemptRequest ci) s = .next x → exec (.windowServiceOperation p (.mirq v)) s =
         .next (x.modCore ci ({ · with notices := [p] }))) ∧
     (∀ (m a : Word) (ci o : Nat), injection v a = some (.scratch m a) → a.toNat % 8 = 0 →
       a.toNat = scratchKey ci o → ci < 2048 → o < 0x40000 → s.segmentPart ci o = p → ∀ c n,
       exec (.windowServiceOperation p (.diagw c n v a)) s = .next (s.flip (scratchKey ci o) m)) ∧
     (∀ (a : Word) (c n row column k : Nat) (tr : TReg) (parity : Bool),
       injection v a = some (.tile tr row column k parity) → (s.core c).mq = [] →
       ((s.core c).mctx.tile tr).belongs row p = true → ∃ u,
         exec (.windowServiceOperation p (.diagw c n v a)) s = .next u ∧ u.mem = s.mem ∧ u.tasks = s.tasks ∧
         let y := (u.core c).mctx.tile tr
         y.row row = ((s.core c).mctx.tile tr).row row ^^^ (1#2048 <<< (32 * column + k)) ∧
         (∀ r, r ≠ row → y.row r = ((s.core c).mctx.tile tr).row r) ∧
         (y.bad.contains row ↔ (parity = true ∧ ((s.core c).mctx.tile tr).bad.contains row = false))) ∧
     (∀ (m a : Word) (c n : Nat) (l : Loc), injection v a = some (.line m a) → a.toNat % 8 = 0 →
       s.translate (4 * p + n % 4) .load a = (x, .ok l) → l.pkg = x.svc.packageId → leafMT l.leaf = 0 →
       exec (.windowServiceOperation p (.diagw c n v a)) s = .next (x.flip l.pa m)) ∧
     (∀ k, k < 5 → ∃ u, exec (.windowServiceOperation p (.mask k)) s = .next u ∧ ∀ j, j < 5 →
       (u.part p).masked.getLsbD j = ((s.part p).masked.getLsbD j || j == k))))

/-- The management port: the commands that need no session answer, those that change state are refused with 0x02
outside a session and otherwise take their effect, and a session opens when its challenge verifies (16_system.md R425,
R426, R428). Power-on and boot: a package that is off starts with everything reset but flash and package id, in the
stage that its seed and its banks give; a target takes a chunk only under a term not below its own and advances VCOUNT
only on a match (16_system.md R427 to R429). -/
def Obligations.ManagementAndBoot : Prop :=
  (∀ s : State,
     let answers := fun (i : Instr) (r : Reply) => exec i s = .next { s with svc := { s.svc with reply := some r } }
     let acts := fun (i : Instr) (u : State) => exec i s = .next { u with svc := { u.svc with reply := some .done } }
     let commands := fun i : Instr => (∃ p, i = .preset p) ∨ (∃ d, i = .dreset d) ∨ (∃ b, i = .hostmode b) ∨
       (∃ w, i = .setcap w) ∨ ∃ b, i = .fwstage b
     (s.svc.stage ≠ .idfail → answers .getid (.identity Config.identity)) ∧
     (s.svc.stage = .idfail → answers .getid (.refused none)) ∧
     (∃ x : Stat, answers .getstat (.stat x) ∧ x.stage = s.svc.stage ∧ x.term = s.svc.term ∧
       x.dieMap = s.svc.dieMap.toList ∧ x.misuse = s.svc.misuse ∧
       ∀ d q, d < 8 → q < 64 → (x.quarantined.getD d 0).getLsbD q = (s.quad (64 * d + q)).quarantined) ∧
     (∃ u, exec .gettherm s = .next u ∧ u.tasks = s.tasks ∧ u.mem = s.mem ∧ ∃ y, u.svc.reply = some (.therm y
       ((List.range 16).map fun i => ((s.island i).steps, (s.island i).tripped)))) ∧
     (∀ sig, (Config.challengeVerifies sig = false → answers (.mgmtSessionOpen sig) (.refused none)) ∧
       (Config.challengeVerifies sig = true → exec (.mgmtSessionOpen sig) s =
         .next { s with svc := { s.svc with session := true, reply := some .done } })) ∧
     (∀ i, commands i → s.svc.session = false → answers i (.refused (some 0x02))) ∧
     (∀ c : Byte, exec (.windowServiceOperation 0 (.command c)) s = if c ∈ [0x01, 0x02, 0x03, 0x10, 0x11, 0x12, 0x13, 0x14] then .next s
       else .next { s with svc := { s.svc with reply := some (.refused (some 0x01)) } }) ∧
     (∀ i, commands i → s.svc.session = true → s.svc.leader.any s.pairLive = false → answers i (.refused none)) ∧
     (s.svc.session = true → s.svc.leader.any s.pairLive = true →
       (∀ p, acts (.preset p) (s.resetPartition p)) ∧
       (∀ d, ((s.pair d).stopped = false → acts (.dreset d) (s.warmReset d)) ∧
         ((s.pair d).stopped = true → acts (.dreset d) { s with svc := { s.svc with resent := s.svc.resent ++ [d] } })) ∧
       (∀ b, acts (.hostmode b) (State.conventionalReset { s with svc := { s.svc with selfNext := b } })) ∧
       (∀ w, 1800 ≤ w → w ≤ 3600 → w % 10 = 0 → acts (.setcap w) { s with svc := { s.svc with powerCap := w } }) ∧
       (∀ b, (s.svc.bootB = true → acts (.fwstage b) { s with svc := { s.svc with bankA := withBlob s.svc.bankA b } }) ∧
         (s.svc.bootB = false → acts (.fwstage b) { s with svc := { s.svc with bankB := withBlob s.svc.bankB b } })))) ∧
  ((∀ s : State,
     (s.svc.powered = true → s.svc.stage ≠ .off → exec .powerOn s = .next s) ∧
     (s.svc.powered = false → ∃ u, exec .powerOn s = .next u ∧ u.mem = [] ∧ u.tasks = [] ∧ u.launches = [] ∧ u.cores = [] ∧
       u.svc.packageId = s.svc.packageId ∧ u.svc.bankA = s.svc.bankA ∧ u.svc.bankB = s.svc.bankB ∧
       u.svc.powered = true ∧ u.svc.leader = some 15 ∧ u.svc.term = 1 ∧
       (Config.seedPasses = false → u.svc.stage = .idfail) ∧
       (Config.seedPasses = true → s.bankBoots s.svc.bankA = true → u.svc.stage = .booting ∧ u.svc.bootB = false) ∧
       (Config.seedPasses = true → s.bankBoots s.svc.bankA = false → s.bankBoots s.svc.bankB = false →
         u.svc.stage = .noblob))) ∧
   (∀ (s : State) (n k : Nat) (term : BitVec 32) (chunk b : List Byte), s.imageOf n = some b →
     let x := s.pair n
     (term < x.loadTerm ∨ term < x.term → exec (.bootChunk n term k chunk) s = .next s) ∧
     (s.svc.stage ≠ .booting → exec (.bootChunk n term k chunk) s = .next s) ∧
     (s.svc.stage = .booting → x.stopped = false → x.loadTerm ≤ term → x.term ≤ term → k < blobChunks b → ∃ u,
       exec (.bootChunk n term k chunk) s = .next u ∧ (u.pair n).loadTerm = term ∧ u.tasks = s.tasks ∧ u.mem = s.mem ∧
       (Config.sm3 chunk ≠ blobHash b k → (u.pair n).vcount = x.vcount ∧ (u.pair n).image = x.image) ∧
       (Config.sm3 chunk = blobHash b k → k = x.vcount.toNat → (u.pair n).vcount = x.vcount + 1 ∧
         (u.pair n).image = x.image ++ [chunk]) ∧
       (k ≠ x.vcount.toNat → (u.pair n).vcount = x.vcount))))

/-- Lantern pairs, maps and votes: a lapse of the heartbeat elects the live pair with the lowest position at the next
term; a mismatch stops its pair until it has reloaded; a map write with a lower term than the map's is rejected; the
loss of a die or package opens a vote, in which each voter counts once and more than half carry; a vote that runs out
without them amputates nothing (15_faults.md R400, R401, R403 to R405). -/
def Obligations.TermsAndVotes : Prop :=
  (∀ s : State,
    (∀ n, s.svc.leader = some n → ∃ u, exec .lanternHeartbeatLapse s = .next u ∧ u.svc.term = s.svc.term + 1 ∧
      u.svc.leader = ((List.range 16).filter fun k => k != n && s.pairLive k).head? ∧ (u.pair n).dead = true ∧
      u.tasks = s.tasks ∧ u.mem = s.mem) ∧
    (∀ n, ∃ u, exec (.lanternMismatch n) s = .next u ∧ (u.pair n).stopped = true ∧ 1 ≤ (u.pair n).mismatches ∧
      (u.pair n).mismatches ≤ (s.pair n).mismatches + 1 ∧
      (u.pair n).reported = ((s.pair n).reported || 3 ≤ (u.pair n).mismatches) ∧ (∀ k, k ≠ n → u.pair k = s.pair k) ∧
      u.tasks = s.tasks ∧ u.mem = s.mem) ∧
    (∀ n, let back := s.modPair n fun x => { x with stopped := false, dead := false, term := s.svc.term }
      (n ∉ s.svc.resent → exec (.lanternReloadComplete n) s = .next back) ∧
      (n ∈ s.svc.resent → exec (.lanternReloadComplete n) s = exec (.dieWarmReset n)
        { back with svc := { back.svc with resent := s.svc.resent.filter (· != n) } })) ∧
    (∀ (t : BitVec 32) (es : List (BitVec 16)),
      (t < s.svc.dieTerm → exec (.dieMapWrite t es) s = .next s) ∧
      (s.svc.dieTerm ≤ t → es.length = 8 → ∃ u, exec (.dieMapWrite t es) s = .next u ∧ u.svc.dieTerm = t ∧
        u.svc.dieMap.toList = es ∧ u.tasks = s.tasks ∧ u.mem = s.mem)) ∧
    (∀ (t : BitVec 32) (id m : Nat), id < 1024 →
      (t < s.svc.pkgTerm → exec (.packageMapWrite t id m) s = .next s) ∧
      (s.svc.pkgTerm ≤ t → ∃ u, exec (.packageMapWrite t id m) s = .next u ∧ u.svc.pkgTerm = t ∧ u.moduleOf id = m ∧
        (∀ k, k ≠ id → u.moduleOf k = s.moduleOf k) ∧ u.tasks = s.tasks ∧ u.mem = s.mem)) ∧
    (∀ p, s.svc.ballot = none → p < 9 → p ∉ s.svc.lostDies → Suspect.die p ∉ s.svc.suspects →
      exec (.dieLossDetected p) s = .next { s with svc := { s.svc with
        ballot := some ⟨.die p, [], s.voters (.die p), false⟩ } }) ∧
    (∀ k, s.svc.ballot = none → k ≠ s.svc.packageId → Suspect.package k ∉ s.svc.suspects →
      exec (.packageLoss k) s = .next { s with svc := { s.svc with
        ballot := some ⟨.package k, [], s.voters (.package k), false⟩ } }) ∧
    (∀ (b : Ballot) (v : Nat) (yes : Bool), s.svc.ballot = some b →
      let pass := b.passed = true ∨ b.voters.length < 2 * ((b.votes.filter (·.2)).length + if yes then 1 else 0)
      let spare := ∃ p, b.suspect = .die p ∧ s.identityOf p = none
      ((∃ x ∈ b.votes, x.1 = v) ∨ v ∉ b.voters → exec (.amputationVote v yes) s = .next s) ∧
      ((∀ x ∈ b.votes, x.1 ≠ v) → v ∈ b.voters →
        (¬ (pass ∧ spare) → ∃ u c, exec (.amputationVote v yes) s = .next u ∧ u.svc.ballot = some c ∧
          c.suspect = b.suspect ∧ c.votes = b.votes ++ [(v, yes)] ∧ c.voters = b.voters ∧ (c.passed = true ↔ pass)) ∧
        (∀ p, pass → b.suspect = .die p → s.identityOf p = none → ∃ u, exec (.amputationVote v yes) s = .next u ∧
          p ∈ u.svc.lostDies ∧ u.isBlank p = false ∧ (s.svc.suspects = [] → u.svc.ballot = none))) ∧
      (b.passed = true → exec .voteTimeout s = .next s) ∧
      (b.passed = false → s.svc.suspects = [] →
        exec .voteTimeout s = .next { s with svc := { s.svc with ballot := none } }))) ∧
  (∀ s : State, (∀ p, s.livePackages = [] → s.voters (.die p) = [9, 10, 11, 12, 14, 15]) ∧
    ∀ k, (s.voters (.package k)).length ≤ 5 ∧ ∀ v ∈ s.voters (.package k), v ≠ k ∧
      (v = s.svc.packageId ∨ v ∈ s.livePackages))

/-- Losses: no part is amputated before its vote has passed; then a spare takes the die's identity in the map under
the term and none of its tasks remain, or a launch that maps unprotected memory of the lost package fails, and its own
loss removes the package's power; a warm reset clears the die's tasks and scratchpads and keeps HBM and map until it
completes, and that of a hub keeps everything (15_faults.md R400 to R403, R406; 16_system.md R431). -/
def Obligations.LossesAndWarmResets : Prop :=
  (∀ (s : State) (d : Nat) (term : BitVec 32),
    let e := s.svc.dieMap.toList.getD d 0
    let p := e.toNat % 16
    (s.condemned (.die p) = false → exec (.spareTakeover d term) s = .next s) ∧
    (term < s.svc.dieTerm → exec (.spareTakeover d term) s = .next s) ∧
    (∀ n : BitVec 16, d < 8 → e.getLsbD 15 = true → e.getLsbD 14 = false → s.condemned (.die p) = true →
      s.svc.dieTerm ≤ term → s.spareEntry = some n → ∃ u, exec (.spareTakeover d term) s = .next u ∧
        u.svc.dieMap.toList.getD d 0 = n ∧ (∀ k, k ≠ d → u.svc.dieMap.toList.getD k 0 = s.svc.dieMap.toList.getD k 0) ∧
        u.svc.dieTerm = term ∧ p ∈ u.svc.lostDies ∧ (∀ t ∈ u.tasks, t.spilled = true ∨ t.die ≠ d)) ∧
    (d < 8 → e.getLsbD 15 = true → e.getLsbD 14 = false → s.condemned (.die p) = true → s.svc.dieTerm ≤ term →
      s.spareEntry = none → ∃ u, exec (.spareTakeover d term) s = .next u ∧ u.svc.powered = false)) ∧
  (∀ (s : State) (k : Nat),
    (k = s.svc.packageId → exec (.packageLoss k) s =
      .next { s with svc := { s.svc with powered := false, stage := .off } }) ∧
    (k ≠ s.svc.packageId → s.condemned (.package k) = true → s.svc.group = [] → s.svc.suspects = [] → s.fab.handed = [] →
      (s.launches = [] → ∃ u, exec (.packageLoss k) s = .next u ∧ u.svc.ballot = none ∧ u.tasks = s.tasks ∧ u.mem = s.mem) ∧
      (∀ l, s.launches = [l] → l.stage = .running → (s.part l.part).resetting = false → s.mapsUnprotected l.ctxid k = true → ∃ u,
        exec (.packageLoss k) s = .next u ∧ u.svc.ballot = none ∧ u.launches = [] ∧
        ∃ x ∈ u.posts, x.launch = l.id ∧ x.event = 4 ∧ x.status = 4))) ∧
  (∀ (s : State) (p : Nat),
    (s.identityOf p = none → exec (.dieWarmReset p) s = .next s) ∧
    (∀ d, s.identityOf p = some d → ∃ u, exec (.dieWarmReset p) s = .next u ∧ (u.die d).inReset = true ∧
      (∀ t ∈ u.tasks, t.spilled = true ∨ t.die ≠ d) ∧
      (∀ a, scratchBase ≤ a → dieOf (scratchCore a) = d → u.byte a = 0) ∧
      (s.requests = [] → s.queued = [] → u.svc = s.svc ∧
        ∀ a, (a < scratchBase ∨ dieOf (scratchCore a) ≠ d) → u.byte a = s.byte a)) ∧
    (∀ d, s.identityOf p = some d → (s.die d).inReset = false → exec (.dieResetComplete p) s = .next s) ∧
    (∀ d, s.identityOf p = some d → (s.die d).inReset = true → (∀ ci, (s.core ci).diverted = []) → ∃ u,
      exec (.dieResetComplete p) s = .next u ∧ (u.die d).inReset = false ∧ u.mem = s.mem)) ∧
  (∀ (s : State) (h : Nat), exec (.hubWarmReset h) s = .next s)

/-- Errors of stored bits: the rasp corrects single-bit errors in place and counts them; an uncorrectable error of a
line that no work owns poisons the line; a protected clean line is rebuilt and its readers go on; an error of a slot
is charged to its task's work (15_faults.md R396, R397, R399, R402). Temperature and power: a clock step down or up
changes one island's step count and raises vector 4 of partition 0; a trip of a compute die resets it warm and opens a
vote, one of another island and a loss of coolant end the package's power (16_system.md R430, R431). -/
def Obligations.ErrorsAndTemperature : Prop :=
  ((∀ (s : State) (line : Nat) (m : Word), 64 * line < scratchBase →
     (s.flips = [] → exec (.raspScrub line) s = .next s) ∧
     (∀ k, s.flips = [(8 * line + k, m)] → k < 8 → countBits 64 m.toNat = 1 →
       let d := homePlace (64 * line) / 64 % 8
       ∃ u, exec (.raspScrub line) s = .next u ∧ u.flips = [] ∧ (u.die d).corrected = (s.die d).corrected + 1 ∧
         u.mem = s.mem ∧ u.tasks = s.tasks ∧ u.poison = s.poison) ∧
     (s.inProtected (64 * line) = false → s.tag (64 * line) = .clean → ∃ u,
       exec (.hardwareError (.line (64 * line))) s = .next u ∧ u.poisoned (64 * line) = true ∧ u.mem = s.mem ∧
       u.tasks = s.tasks ∧ ∀ x ∈ u.flips, lineOf (8 * x.1) ≠ line) ∧
     (∀ k, s.flips = [(8 * line + k, m)] → k < 8 → 2 ≤ countBits 64 m.toNat → s.inProtected (64 * line) = false →
       s.tag (64 * line) = .clean → exec (.raspScrub line) s = exec (.hardwareError (.line (64 * line))) s) ∧
     (s.inProtected (64 * line) = true → s.tag (64 * line) = .clean →
       exec (.hardwareError (.line (64 * line))) s = exec (.lineRebuild line) s) ∧
     (s.svc.group = [] → ∃ u, exec (.lineRebuild line) s = .next u ∧ (∀ a, u.byte a = s.byte a) ∧
       (∀ x ∈ u.flips, lineOf (8 * x.1) ≠ line) ∧ (∀ x ∈ u.tasks, x.wait ≠ .rebuild line)) ∧
     (∀ (m base j : Nat) (give : Nat → List Byte), let off := 64 * line - base
       let places := fun i : Nat => s.svc.group.getD i (0, 0)
       s.svc.group.length = 10 → s.ownMember = some (m, none) → s.protectedBase = some base →
       s.inProtected (64 * line) = true → roleOf (off / 0x10000) m = .data j →
       (∀ i, i < 10 → i ≠ m → (places i).1 ≠ s.svc.packageId ∧ (places i).2 % 64 = 0 ∧ (give i).length = 64 ∧
         ∃ r, s.read? (tokenRebuild line) (places i).1 ((places i).2 + off) = some r ∧ r.value = some (give i)) →
       base % 64 = 0 → ∃ u, exec (.lineRebuild line) s = .next u ∧ (∀ i, i < 64 → u.byte (64 * line + i) =
         (((List.range 10).filter fun k => k != m && roleOf (off / 0x10000) k != .q).map fun k =>
           (give k).getD i 0).foldl (· ^^^ ·) 0) ∧
         (∀ a, (a < 64 * line ∨ 64 * line + 64 ≤ a) → u.byte a = s.byte a) ∧
         ∀ x ∈ u.tasks, x.wait ≠ .rebuild line)) ∧
   (∀ (s : State) (t : Task) (l : Launch), s.task? t.uid = some t → t.domain = 0 →
     (s.part t.part).resetting = false → s.launch? t.part t.launchid = some l → ∃ u,
       exec (.hardwareError (.slot t.uid)) s = .next u ∧
       (∃ x ∈ u.posts, x.launch = t.launchid ∧ x.event = 4 ∧ x.status = 4) ∧ u.launch? t.part t.launchid = none)) ∧
  (∀ (s : State) (i : Nat),
     let steps := (s.island i).steps
     let told := fun u : State => ((s.part 0).masked.getLsbD 4 = false → (s.svc.hostLost = false ∨ s.svc.self = true) →
         Sparse.read 0 (u.part 0).sent 4 = Sparse.read 0 (s.part 0).sent 4 + 1) ∧
       ((s.part 0).masked.getLsbD 4 = true → (u.part 0).pending.getLsbD 4 = true)
     (i = 13 ∨ i < 9 ∧ steps < 8 → ∃ u, exec (.thermalStepDown i) s = .next u ∧ (u.island i).steps = steps + 1 ∧ told u ∧
       u.tasks = s.tasks ∧ u.mem = s.mem ∧ ∀ k, k ≠ i → u.island k = s.island k) ∧
     (i ≠ 13 → (9 ≤ i ∨ 8 ≤ steps) → exec (.thermalStepDown i) s = .next s) ∧
     (0 < steps → ∃ u, exec (.thermalStepUp i) s = .next u ∧ (u.island i).steps = steps - 1 ∧ told u ∧
       u.tasks = s.tasks ∧ u.mem = s.mem ∧ ∀ k, k ≠ i → u.island k = s.island k) ∧
     (steps = 0 → exec (.thermalStepUp i) s = .next s) ∧
     (9 ≤ i → ∃ u, exec (.thermalTrip i) s = .next u ∧ (u.island i).tripped = true ∧ told u ∧ u.svc.powered = false) ∧
     (i < 9 → s.svc.stage = .run → s.svc.ballot = none → i ∉ s.svc.lostDies → Suspect.die i ∉ s.svc.suspects →
       s.identityOf i = none → ∃ u, exec (.thermalTrip i) s = .next u ∧ (u.island i).tripped = true ∧ told u ∧
         (∃ b, u.svc.ballot = some b ∧ b.suspect = .die i ∧ b.passed = false) ∧ u.tasks = s.tasks) ∧
     exec .coolantLoss s = .next { s with svc := { s.svc with powered := false, stage := .off } })

/-- The operations of memory keep its canonical form: a byte or bytes written, bytes of a request applied, a served
line; a byte written reads back and leaves every other byte alone. -/
def Obligations.MemoryOpsKeepForm : Prop :=
  (∀ (m : List Host.Cell) (a : Nat) (bs : List Byte), Memory.wf m = true →
    Memory.wf (Memory.setBytes m a bs) = true ∧
    ∀ y, Memory.byte (Memory.setBytes m a bs) y = if a ≤ y ∧ y < a + bs.length then bs.getD (y - a) 0
      else Memory.byte m y) ∧
  (∀ (m n : List Host.Cell), Memory.wf m = true → Memory.wf n = true → (∀ y, Memory.byte m y = Memory.byte n y) → m = n) ∧
  (∀ (s : State) (r : Request) (a n : Nat), Memory.wf s.mem = true →
    Memory.wf (s.applyRequest r).mem = true ∧ Memory.wf (s.serveAll a n).mem = true ∧
    Memory.wf s.serveEverything.mem = true)

/-- A step keeps the canonical form of package and host memory, from every state that has it: addresses strictly rise
and no listed byte is 0. -/
def Obligations.StepKeepsMemoryForm : Prop := ∀ s u : State, s.MemoryOk → step s = .next u → u.MemoryOk

/-- The state after reset has the canonical form of memory, in the package and in host memory. -/
def Obligations.ResetHasMemoryForm : Prop := State.reset.MemoryOk

/-- The machine stops nowhere: a step from any state with nothing on its agenda answers a next state, whatever the
words that its tasks fetch. -/
def Obligations.StepGoesOn : Prop := ∀ s : State, s.agenda = [] → ∃ u, step s = .next u
end

