-- ==== Sys2Proof/Laws/Store.lean ====
section
/-! SUPPORT. Sparse tables and memory: what a read gives after a write, and that every memory operation keeps the
canonical form. -/

namespace Sys2Proof.Machine

variable {α : Type}

theorem Sparse.read_erase_same (d : α) (t : Table α) (k : Nat) : Sparse.read d (Sparse.erase t k) k = d := by
  induction t with
  | nil => rfl
  | cons e t ih =>
    by_cases h : e.1 = k
    · simpa [Sparse.erase, h] using ih
    · simpa [Sparse.erase, Sparse.read, h] using ih

theorem Sparse.read_erase_other (d : α) (t : Table α) {k j : Nat} (h : j ≠ k) :
    Sparse.read d (Sparse.erase t k) j = Sparse.read d t j := by
  induction t with
  | nil => rfl
  | cons e t ih =>
    by_cases hk : e.1 = k
    · have : ¬ e.1 = j := fun hj => h (hj ▸ hk)
      simpa [Sparse.erase, hk, Sparse.read, show ¬ k = j from fun x => h x.symm] using ih
    · by_cases hj : e.1 = j
      · simp [Sparse.erase, Sparse.read, hj, h]
      · simpa [Sparse.erase, Sparse.read, hk, hj] using ih

theorem Sparse.read_insert_other (d : α) (t : Table α) {k j : Nat} (v : α) (h : j ≠ k) :
    Sparse.read d (Sparse.insert k v t) j = Sparse.read d t j := by
  induction t with
  | nil => simp [Sparse.insert, Sparse.read, Ne.symm h]
  | cons e t ih =>
    by_cases hk : k < e.1
    · simp [Sparse.insert, Sparse.read, hk, Ne.symm h]
    · simp [Sparse.insert, Sparse.read, hk, ih]

theorem Sparse.read_insert_same (d : α) (t : Table α) (k : Nat) (v : α) (h : ∀ e ∈ t, e.1 ≠ k) :
    Sparse.read d (Sparse.insert k v t) k = v := by
  induction t with
  | nil => simp [Sparse.insert, Sparse.read]
  | cons e t ih =>
    have he : e.1 ≠ k := h e (by simp)
    by_cases hk : k < e.1
    · simp [Sparse.insert, Sparse.read, hk]
    · simpa [Sparse.insert, Sparse.read, hk, he] using ih fun x hx => h x (by simp [hx])

theorem Sparse.erase_ne (t : Table α) (k : Nat) : ∀ e ∈ Sparse.erase t k, e.1 ≠ k := by
  intro e he
  simpa using (List.mem_filter.1 he).2

/-- A table reads back what was written at a key. -/
@[simp] theorem Sparse.read_write_same [DecidableEq α] (d : α) (t : Table α) (k : Nat) (v : α) :
    Sparse.read d (Sparse.write d t k v) k = v := by
  unfold Sparse.write
  split
  · next h => rw [Sparse.read_erase_same, h]
  · exact Sparse.read_insert_same d _ k v (Sparse.erase_ne t k)

/-- A write leaves every other key alone. -/
@[simp] theorem Sparse.read_write_other [DecidableEq α] (d : α) (t : Table α) {k j : Nat} (v : α) (h : j ≠ k) :
    Sparse.read d (Sparse.write d t k v) j = Sparse.read d t j := by
  unfold Sparse.write
  split
  · exact Sparse.read_erase_other d t h
  · rw [Sparse.read_insert_other d _ v h, Sparse.read_erase_other d t h]

theorem Sparse.wfFrom_mono [DecidableEq α] (d : α) {lo hi : Nat} (t : Table α) (h : lo ≤ hi)
    (hw : Sparse.wfFrom d hi t = true) : Sparse.wfFrom d lo t = true := by
  cases t with
  | nil => rfl
  | cons e t =>
    simp only [Sparse.wfFrom, Bool.and_eq_true, decide_eq_true_eq] at hw ⊢
    exact ⟨⟨Nat.le_trans h hw.1.1, hw.1.2⟩, hw.2⟩

theorem Sparse.wfFrom_filter [DecidableEq α] (d : α) (p : Nat × α → Bool) (t : Table α) (lo : Nat)
    (hw : Sparse.wfFrom d lo t = true) : Sparse.wfFrom d lo (t.filter p) = true := by
  induction t generalizing lo with
  | nil => rfl
  | cons e t ih =>
    simp only [Sparse.wfFrom, Bool.and_eq_true, decide_eq_true_eq] at hw
    have ht := ih (e.1 + 1) hw.2
    by_cases hp : p e
    · simp only [List.filter_cons, hp, if_true, Sparse.wfFrom, Bool.and_eq_true, decide_eq_true_eq]
      exact ⟨hw.1, ht⟩
    · simp only [List.filter_cons, hp]
      exact Sparse.wfFrom_mono d _ (by omega) ht

theorem Sparse.wfFrom_insert [DecidableEq α] (d : α) (t : Table α) {lo k : Nat} {v : α} (hk : lo ≤ k) (hv : v ≠ d)
    (hn : ∀ e ∈ t, e.1 ≠ k) (hw : Sparse.wfFrom d lo t = true) : Sparse.wfFrom d lo (Sparse.insert k v t) = true := by
  induction t generalizing lo with
  | nil => simp [Sparse.insert, Sparse.wfFrom, hk, hv]
  | cons e t ih =>
    simp only [Sparse.wfFrom, Bool.and_eq_true, decide_eq_true_eq] at hw
    have he : e.1 ≠ k := hn e (by simp)
    by_cases h : k < e.1
    · simp only [Sparse.insert, h, if_true, Sparse.wfFrom, Bool.and_eq_true, decide_eq_true_eq]
      exact ⟨⟨hk, by simpa using hv⟩, ⟨⟨by omega, hw.1.2⟩, hw.2⟩⟩
    · simp only [Sparse.insert, h, if_false, Sparse.wfFrom, Bool.and_eq_true, decide_eq_true_eq]
      exact ⟨hw.1, ih (by omega) (fun x hx => hn x (by simp [hx])) hw.2⟩

/-- A write keeps the canonical form of a table. -/
theorem Sparse.wf_write [DecidableEq α] (d : α) (t : Table α) (k : Nat) (v : α) (hw : Sparse.wf d t = true) :
    Sparse.wf d (Sparse.write d t k v) = true := by
  unfold Sparse.wf Sparse.write at *
  split
  · exact Sparse.wfFrom_filter d _ t 0 hw
  · next h => exact Sparse.wfFrom_insert d _ (Nat.zero_le k) h (Sparse.erase_ne t k) (Sparse.wfFrom_filter d _ t 0 hw)

/-- Writing bytes keeps the canonical form of memory. -/
theorem Memory.wf_setBytes (m : List Host.Cell) (a : Nat) (bs : List Byte) (hw : Memory.wf m = true) :
    Memory.wf (Memory.setBytes m a bs) = true := by
  induction bs generalizing m a with
  | nil => exact hw
  | cons b bs ih => exact ih _ _ (Sparse.wf_write 0 m a b hw)

/-- Dropping cells keeps the canonical form of memory. -/
theorem Memory.wf_filter (m : List Host.Cell) (p : Host.Cell → Bool) (hw : Memory.wf m = true) :
    Memory.wf (m.filter p) = true := Sparse.wfFrom_filter 0 p m 0 hw

/-- Writing bytes leaves every byte outside them as it was. -/
theorem Memory.byte_setBytes_outside (m : List Host.Cell) (a : Nat) (bs : List Byte) (x : Nat)
    (h : x < a ∨ a + bs.length ≤ x) : Memory.byte (Memory.setBytes m a bs) x = Memory.byte m x := by
  induction bs generalizing m a with
  | nil => rfl
  | cons b bs ih =>
    simp only [List.length_cons] at h
    rw [Memory.setBytes, ih _ _ (by omega)]
    exact Sparse.read_write_other 0 m b (by omega)

/-- Writing bytes stores each of them at its address. -/
theorem Memory.byte_setBytes_inside (m : List Host.Cell) (a : Nat) (bs : List Byte) (i : Nat) (h : i < bs.length) :
    Memory.byte (Memory.setBytes m a bs) (a + i) = bs[i] := by
  induction bs generalizing m a i with
  | nil => simp at h
  | cons b bs ih =>
    cases i with
    | zero =>
      rw [Memory.setBytes, Memory.byte_setBytes_outside _ _ _ _ (by omega)]
      exact Sparse.read_write_same 0 m a b
    | succ i =>
      have := ih (Sparse.write 0 m a b) (a + 1) i (by simpa using h)
      simpa [Memory.setBytes, Nat.add_comm, Nat.add_left_comm, Nat.add_assoc] using this

/-- The bytes written are the bytes read back. -/
theorem Memory.bytes_setBytes (m : List Host.Cell) (a : Nat) (bs : List Byte) :
    Memory.bytes (Memory.setBytes m a bs) a bs.length = bs := by
  induction bs generalizing m a with
  | nil => rfl
  | cons b bs ih =>
    rw [Memory.setBytes, List.length_cons, Memory.bytes, ih, Memory.byte_setBytes_outside _ _ _ _ (by omega)]
    simp [Memory.byte]

theorem leBytes_length (n v : Nat) : (leBytes n v).length = n := by
  induction n generalizing v with
  | zero => rfl
  | succ n ih => simp [leBytes, ih]

/-- Little-endian bytes give back the number they came from. -/
theorem leNat_leBytes (n v : Nat) : leNat (leBytes n v) = v % 256 ^ n := by
  induction n generalizing v with
  | zero => simp [leBytes, leNat, Nat.mod_one]
  | succ n ih =>
    rw [leBytes, leNat, ih, Nat.pow_succ, Nat.mul_comm (256 ^ n), Nat.mod_mul]
    simp

/-- What a poke does: the memory of `setBytes`, and nothing else but its ECC and poison. -/
@[simp] theorem State.poke_mem (s : State) (a : Nat) (bs : List Byte) : (s.poke a bs).mem = Memory.setBytes s.mem a bs := rfl

/-- A poke keeps the canonical form of memory. -/
theorem State.wf_poke (s : State) (a : Nat) (bs : List Byte) (hw : Memory.wf s.mem = true) :
    Memory.wf (s.poke a bs).mem = true := Memory.wf_setBytes _ _ _ hw

/-- A poke leaves every byte outside its own as it was. -/
theorem State.byte_poke_outside (s : State) (a : Nat) (bs : List Byte) (x : Nat) (h : x < a ∨ a + bs.length ≤ x) :
    (s.poke a bs).byte x = s.byte x := Memory.byte_setBytes_outside _ _ _ _ h

/-- A number reads back as it was poked. -/
theorem State.word_pokeNat (s : State) (a n v : Nat) : (s.pokeNat a n v).word a n = v % 256 ^ n := by
  have h : Memory.bytes (Memory.setBytes s.mem a (leBytes n v)) a (leBytes n v).length = leBytes n v :=
    Memory.bytes_setBytes _ _ _
  rw [leBytes_length] at h
  rw [← leNat_leBytes]
  exact congrArg leNat h

@[simp] theorem State.setTag_mem (s : State) (a : Nat) (t : Tag) : (s.setTag a t).mem = s.mem := rfl
@[simp] theorem State.unblock_mem (s : State) (k pa : Nat) : (s.unblock k pa).mem = s.mem := rfl
@[simp] theorem State.write_mem (s : State) (w : Writer) (a : Nat) (bs : List Byte) :
    (s.write w a bs).mem = Memory.setBytes s.mem a bs := rfl

/-- A write keeps the canonical form of memory. -/
theorem State.wf_write (s : State) (w : Writer) (a : Nat) (bs : List Byte) (hw : Memory.wf s.mem = true) :
    Memory.wf (s.write w a bs).mem = true := Memory.wf_setBytes _ _ _ hw

/-- Sending messages leaves memory as it is. -/
theorem State.foldl_send_mem (ks : List Nat) (s : State) (w : Who) (m : Msg) :
    (ks.foldl (fun s k => s.send k w m) s).mem = s.mem := by
  induction ks generalizing s with
  | nil => rfl
  | cons k ks ih => rw [List.foldl_cons, ih]; rfl

/-- A record whose DEPCNT is 0 changes no memory by being announced. -/
@[simp] theorem State.releaseRecord_mem (s : State) (w : Who) (pa : Nat) : (s.releaseRecord w pa).mem = s.mem := by
  unfold State.releaseRecord
  rw [State.foldl_send_mem]
  rfl

/-- A request that takes effect keeps the canonical form of memory. -/
theorem State.wf_applyRequest (s : State) (r : Request) (hw : Memory.wf s.mem = true) :
    Memory.wf (s.applyRequest r).mem = true := by
  have key : ∀ s' : State, Memory.wf s'.mem = true →
      Memory.wf (match r.tag with | some t => s'.setTag r.pa t | none => s').mem = true := by
    intro s' h
    cases r.tag <;> simpa using h
  unfold State.applyRequest
  split
  · exact hw
  · apply key
    cases r.op with
    | store bs => exact s.wf_write _ _ _ hw
    | patch xs => exact s.wf_write _ _ _ hw
    | combine op z v => exact s.wf_write _ _ _ hw
    | xor bs => exact s.wf_write _ _ _ hw
    | dec =>
      have h : Memory.wf (if s.word r.pa 4 = 0 then s
          else s.write r.writer r.pa (leBytes 4 (s.word r.pa 4 - 1))).mem = true := by
        split
        · exact hw
        · exact s.wf_write _ _ _ hw
      simp only
      split
      · simpa using h
      · exact h

theorem State.wf_applyAll (s : State) (rs : List Request) (hw : Memory.wf s.mem = true) :
    Memory.wf (s.applyAll rs).mem = true := by
  induction rs generalizing s with
  | nil => exact hw
  | cons r rs ih => exact ih _ (s.wf_applyRequest r hw)

/-- Serving everything keeps the canonical form of memory. -/
theorem State.wf_serveEverything (s : State) (hw : Memory.wf s.mem = true) :
    Memory.wf s.serveEverything.mem = true := s.wf_applyAll _ hw

/-- Serving a line keeps the canonical form of memory. -/
theorem State.wf_serve (s : State) (a : Nat) (hw : Memory.wf s.mem = true) : Memory.wf (s.serve a).mem = true := by
  unfold State.serve
  split
  · exact s.wf_serveEverything hw
  · exact hw

theorem State.wf_foldl_serve (ls : List Nat) (s : State) (hw : Memory.wf s.mem = true) :
    Memory.wf (ls.foldl (fun s l => s.serve (64 * l)) s).mem = true := by
  induction ls generalizing s with
  | nil => exact hw
  | cons l ls ih => exact ih _ (s.wf_serve _ hw)

/-- Serving several lines keeps the canonical form of memory. -/
theorem State.wf_serveAll (s : State) (a n : Nat) (hw : Memory.wf s.mem = true) : Memory.wf (s.serveAll a n).mem = true :=
  State.wf_foldl_serve _ s hw

/-- With nothing in the home write queues, serving changes nothing. -/
theorem State.serve_empty (s : State) (a : Nat) (h : s.queued = []) : s.serve a = s := by
  simp [State.serve, h]

theorem State.serveAll_empty (s : State) (a n : Nat) (h : s.queued = []) : s.serveAll a n = s := by
  unfold State.serveAll
  generalize ((List.range (lineOf (a + n - 1) - lineOf a + 1)).map (· + lineOf a)) = ls
  induction ls with
  | nil => rfl
  | cons l ls ih => rw [List.foldl_cons, s.serve_empty _ h]; exact ih

end Sys2Proof.Machine
end

