-- ==== Sys2Proof/Laws/State.lean ====
section
/-! SUPPORT. What each plain update of the state does to each of its fields. -/

namespace Sys2Proof.Machine

/-! `setCore` changes `cores` alone. -/
@[simp] theorem State.setCore_agenda (s : State) (ci : Nat) (c : Core) : (s.setCore ci c).agenda = s.agenda := rfl
@[simp] theorem State.setCore_turn (s : State) (ci : Nat) (c : Core) : (s.setCore ci c).turn = s.turn := rfl
@[simp] theorem State.setCore_fresh (s : State) (ci : Nat) (c : Core) : (s.setCore ci c).fresh = s.fresh := rfl
@[simp] theorem State.setCore_clock (s : State) (ci : Nat) (c : Core) : (s.setCore ci c).clock = s.clock := rfl
@[simp] theorem State.setCore_mem (s : State) (ci : Nat) (c : Core) : (s.setCore ci c).mem = s.mem := rfl
@[simp] theorem State.setCore_past (s : State) (ci : Nat) (c : Core) : (s.setCore ci c).past = s.past := rfl
@[simp] theorem State.setCore_hostMem (s : State) (ci : Nat) (c : Core) : (s.setCore ci c).hostMem = s.hostMem := rfl
@[simp] theorem State.setCore_tags (s : State) (ci : Nat) (c : Core) : (s.setCore ci c).tags = s.tags := rfl
@[simp] theorem State.setCore_flips (s : State) (ci : Nat) (c : Core) : (s.setCore ci c).flips = s.flips := rfl
@[simp] theorem State.setCore_poison (s : State) (ci : Nat) (c : Core) : (s.setCore ci c).poison = s.poison := rfl
@[simp] theorem State.setCore_requests (s : State) (ci : Nat) (c : Core) : (s.setCore ci c).requests = s.requests := rfl
@[simp] theorem State.setCore_queued (s : State) (ci : Nat) (c : Core) : (s.setCore ci c).queued = s.queued := rfl
@[simp] theorem State.setCore_reads (s : State) (ci : Nat) (c : Core) : (s.setCore ci c).reads = s.reads := rfl
@[simp] theorem State.setCore_packets (s : State) (ci : Nat) (c : Core) : (s.setCore ci c).packets = s.packets := rfl
@[simp] theorem State.setCore_podArrivals (s : State) (ci : Nat) (c : Core) :
    (s.setCore ci c).podArrivals = s.podArrivals := rfl
@[simp] theorem State.setCore_podSent (s : State) (ci : Nat) (c : Core) : (s.setCore ci c).podSent = s.podSent := rfl
@[simp] theorem State.setCore_tasks (s : State) (ci : Nat) (c : Core) : (s.setCore ci c).tasks = s.tasks := rfl
@[simp] theorem State.setCore_nextUid (s : State) (ci : Nat) (c : Core) : (s.setCore ci c).nextUid = s.nextUid := rfl
@[simp] theorem State.setCore_quads (s : State) (ci : Nat) (c : Core) : (s.setCore ci c).quads = s.quads := rfl
@[simp] theorem State.setCore_dies (s : State) (ci : Nat) (c : Core) : (s.setCore ci c).dies = s.dies := rfl
@[simp] theorem State.setCore_parts (s : State) (ci : Nat) (c : Core) : (s.setCore ci c).parts = s.parts := rfl
@[simp] theorem State.setCore_ctxs (s : State) (ci : Nat) (c : Core) : (s.setCore ci c).ctxs = s.ctxs := rfl
@[simp] theorem State.setCore_launches (s : State) (ci : Nat) (c : Core) : (s.setCore ci c).launches = s.launches := rfl
@[simp] theorem State.setCore_posts (s : State) (ci : Nat) (c : Core) : (s.setCore ci c).posts = s.posts := rfl
@[simp] theorem State.setCore_doms (s : State) (ci : Nat) (c : Core) : (s.setCore ci c).doms = s.doms := rfl
@[simp] theorem State.setCore_exchanges (s : State) (ci : Nat) (c : Core) :
    (s.setCore ci c).exchanges = s.exchanges := rfl
@[simp] theorem State.setCore_nextExchange (s : State) (ci : Nat) (c : Core) :
    (s.setCore ci c).nextExchange = s.nextExchange := rfl
@[simp] theorem State.setCore_confirms (s : State) (ci : Nat) (c : Core) : (s.setCore ci c).confirms = s.confirms := rfl
@[simp] theorem State.setCore_answers (s : State) (ci : Nat) (c : Core) : (s.setCore ci c).answers = s.answers := rfl
@[simp] theorem State.setCore_fab (s : State) (ci : Nat) (c : Core) : (s.setCore ci c).fab = s.fab := rfl
@[simp] theorem State.setCore_hosts (s : State) (ci : Nat) (c : Core) : (s.setCore ci c).hosts = s.hosts := rfl
@[simp] theorem State.setCore_svc (s : State) (ci : Nat) (c : Core) : (s.setCore ci c).svc = s.svc := rfl

/-! `setQuad` changes `quads` alone. -/
@[simp] theorem State.setQuad_agenda (s : State) (qi : Nat) (q : Quad) : (s.setQuad qi q).agenda = s.agenda := rfl
@[simp] theorem State.setQuad_turn (s : State) (qi : Nat) (q : Quad) : (s.setQuad qi q).turn = s.turn := rfl
@[simp] theorem State.setQuad_fresh (s : State) (qi : Nat) (q : Quad) : (s.setQuad qi q).fresh = s.fresh := rfl
@[simp] theorem State.setQuad_clock (s : State) (qi : Nat) (q : Quad) : (s.setQuad qi q).clock = s.clock := rfl
@[simp] theorem State.setQuad_mem (s : State) (qi : Nat) (q : Quad) : (s.setQuad qi q).mem = s.mem := rfl
@[simp] theorem State.setQuad_past (s : State) (qi : Nat) (q : Quad) : (s.setQuad qi q).past = s.past := rfl
@[simp] theorem State.setQuad_hostMem (s : State) (qi : Nat) (q : Quad) : (s.setQuad qi q).hostMem = s.hostMem := rfl
@[simp] theorem State.setQuad_tags (s : State) (qi : Nat) (q : Quad) : (s.setQuad qi q).tags = s.tags := rfl
@[simp] theorem State.setQuad_flips (s : State) (qi : Nat) (q : Quad) : (s.setQuad qi q).flips = s.flips := rfl
@[simp] theorem State.setQuad_poison (s : State) (qi : Nat) (q : Quad) : (s.setQuad qi q).poison = s.poison := rfl
@[simp] theorem State.setQuad_requests (s : State) (qi : Nat) (q : Quad) : (s.setQuad qi q).requests = s.requests := rfl
@[simp] theorem State.setQuad_queued (s : State) (qi : Nat) (q : Quad) : (s.setQuad qi q).queued = s.queued := rfl
@[simp] theorem State.setQuad_reads (s : State) (qi : Nat) (q : Quad) : (s.setQuad qi q).reads = s.reads := rfl
@[simp] theorem State.setQuad_packets (s : State) (qi : Nat) (q : Quad) : (s.setQuad qi q).packets = s.packets := rfl
@[simp] theorem State.setQuad_podArrivals (s : State) (qi : Nat) (q : Quad) :
    (s.setQuad qi q).podArrivals = s.podArrivals := rfl
@[simp] theorem State.setQuad_podSent (s : State) (qi : Nat) (q : Quad) : (s.setQuad qi q).podSent = s.podSent := rfl
@[simp] theorem State.setQuad_tasks (s : State) (qi : Nat) (q : Quad) : (s.setQuad qi q).tasks = s.tasks := rfl
@[simp] theorem State.setQuad_nextUid (s : State) (qi : Nat) (q : Quad) : (s.setQuad qi q).nextUid = s.nextUid := rfl
@[simp] theorem State.setQuad_cores (s : State) (qi : Nat) (q : Quad) : (s.setQuad qi q).cores = s.cores := rfl
@[simp] theorem State.setQuad_dies (s : State) (qi : Nat) (q : Quad) : (s.setQuad qi q).dies = s.dies := rfl
@[simp] theorem State.setQuad_parts (s : State) (qi : Nat) (q : Quad) : (s.setQuad qi q).parts = s.parts := rfl
@[simp] theorem State.setQuad_ctxs (s : State) (qi : Nat) (q : Quad) : (s.setQuad qi q).ctxs = s.ctxs := rfl
@[simp] theorem State.setQuad_launches (s : State) (qi : Nat) (q : Quad) : (s.setQuad qi q).launches = s.launches := rfl
@[simp] theorem State.setQuad_posts (s : State) (qi : Nat) (q : Quad) : (s.setQuad qi q).posts = s.posts := rfl
@[simp] theorem State.setQuad_doms (s : State) (qi : Nat) (q : Quad) : (s.setQuad qi q).doms = s.doms := rfl
@[simp] theorem State.setQuad_exchanges (s : State) (qi : Nat) (q : Quad) :
    (s.setQuad qi q).exchanges = s.exchanges := rfl
@[simp] theorem State.setQuad_nextExchange (s : State) (qi : Nat) (q : Quad) :
    (s.setQuad qi q).nextExchange = s.nextExchange := rfl
@[simp] theorem State.setQuad_confirms (s : State) (qi : Nat) (q : Quad) : (s.setQuad qi q).confirms = s.confirms := rfl
@[simp] theorem State.setQuad_answers (s : State) (qi : Nat) (q : Quad) : (s.setQuad qi q).answers = s.answers := rfl
@[simp] theorem State.setQuad_fab (s : State) (qi : Nat) (q : Quad) : (s.setQuad qi q).fab = s.fab := rfl
@[simp] theorem State.setQuad_hosts (s : State) (qi : Nat) (q : Quad) : (s.setQuad qi q).hosts = s.hosts := rfl
@[simp] theorem State.setQuad_svc (s : State) (qi : Nat) (q : Quad) : (s.setQuad qi q).svc = s.svc := rfl

/-! `setDie` changes `dies` alone. -/
@[simp] theorem State.setDie_agenda (s : State) (d : Nat) (x : Die) : (s.setDie d x).agenda = s.agenda := rfl
@[simp] theorem State.setDie_turn (s : State) (d : Nat) (x : Die) : (s.setDie d x).turn = s.turn := rfl
@[simp] theorem State.setDie_fresh (s : State) (d : Nat) (x : Die) : (s.setDie d x).fresh = s.fresh := rfl
@[simp] theorem State.setDie_clock (s : State) (d : Nat) (x : Die) : (s.setDie d x).clock = s.clock := rfl
@[simp] theorem State.setDie_mem (s : State) (d : Nat) (x : Die) : (s.setDie d x).mem = s.mem := rfl
@[simp] theorem State.setDie_past (s : State) (d : Nat) (x : Die) : (s.setDie d x).past = s.past := rfl
@[simp] theorem State.setDie_hostMem (s : State) (d : Nat) (x : Die) : (s.setDie d x).hostMem = s.hostMem := rfl
@[simp] theorem State.setDie_tags (s : State) (d : Nat) (x : Die) : (s.setDie d x).tags = s.tags := rfl
@[simp] theorem State.setDie_flips (s : State) (d : Nat) (x : Die) : (s.setDie d x).flips = s.flips := rfl
@[simp] theorem State.setDie_poison (s : State) (d : Nat) (x : Die) : (s.setDie d x).poison = s.poison := rfl
@[simp] theorem State.setDie_requests (s : State) (d : Nat) (x : Die) : (s.setDie d x).requests = s.requests := rfl
@[simp] theorem State.setDie_queued (s : State) (d : Nat) (x : Die) : (s.setDie d x).queued = s.queued := rfl
@[simp] theorem State.setDie_reads (s : State) (d : Nat) (x : Die) : (s.setDie d x).reads = s.reads := rfl
@[simp] theorem State.setDie_packets (s : State) (d : Nat) (x : Die) : (s.setDie d x).packets = s.packets := rfl
@[simp] theorem State.setDie_podArrivals (s : State) (d : Nat) (x : Die) :
    (s.setDie d x).podArrivals = s.podArrivals := rfl
@[simp] theorem State.setDie_podSent (s : State) (d : Nat) (x : Die) : (s.setDie d x).podSent = s.podSent := rfl
@[simp] theorem State.setDie_tasks (s : State) (d : Nat) (x : Die) : (s.setDie d x).tasks = s.tasks := rfl
@[simp] theorem State.setDie_nextUid (s : State) (d : Nat) (x : Die) : (s.setDie d x).nextUid = s.nextUid := rfl
@[simp] theorem State.setDie_cores (s : State) (d : Nat) (x : Die) : (s.setDie d x).cores = s.cores := rfl
@[simp] theorem State.setDie_quads (s : State) (d : Nat) (x : Die) : (s.setDie d x).quads = s.quads := rfl
@[simp] theorem State.setDie_parts (s : State) (d : Nat) (x : Die) : (s.setDie d x).parts = s.parts := rfl
@[simp] theorem State.setDie_ctxs (s : State) (d : Nat) (x : Die) : (s.setDie d x).ctxs = s.ctxs := rfl
@[simp] theorem State.setDie_launches (s : State) (d : Nat) (x : Die) : (s.setDie d x).launches = s.launches := rfl
@[simp] theorem State.setDie_posts (s : State) (d : Nat) (x : Die) : (s.setDie d x).posts = s.posts := rfl
@[simp] theorem State.setDie_doms (s : State) (d : Nat) (x : Die) : (s.setDie d x).doms = s.doms := rfl
@[simp] theorem State.setDie_exchanges (s : State) (d : Nat) (x : Die) : (s.setDie d x).exchanges = s.exchanges := rfl
@[simp] theorem State.setDie_nextExchange (s : State) (d : Nat) (x : Die) :
    (s.setDie d x).nextExchange = s.nextExchange := rfl
@[simp] theorem State.setDie_confirms (s : State) (d : Nat) (x : Die) : (s.setDie d x).confirms = s.confirms := rfl
@[simp] theorem State.setDie_answers (s : State) (d : Nat) (x : Die) : (s.setDie d x).answers = s.answers := rfl
@[simp] theorem State.setDie_fab (s : State) (d : Nat) (x : Die) : (s.setDie d x).fab = s.fab := rfl
@[simp] theorem State.setDie_hosts (s : State) (d : Nat) (x : Die) : (s.setDie d x).hosts = s.hosts := rfl
@[simp] theorem State.setDie_svc (s : State) (d : Nat) (x : Die) : (s.setDie d x).svc = s.svc := rfl

/-! `setPart` changes `parts` alone. -/
@[simp] theorem State.setPart_agenda (s : State) (p : Nat) (x : Part) : (s.setPart p x).agenda = s.agenda := rfl
@[simp] theorem State.setPart_turn (s : State) (p : Nat) (x : Part) : (s.setPart p x).turn = s.turn := rfl
@[simp] theorem State.setPart_fresh (s : State) (p : Nat) (x : Part) : (s.setPart p x).fresh = s.fresh := rfl
@[simp] theorem State.setPart_clock (s : State) (p : Nat) (x : Part) : (s.setPart p x).clock = s.clock := rfl
@[simp] theorem State.setPart_mem (s : State) (p : Nat) (x : Part) : (s.setPart p x).mem = s.mem := rfl
@[simp] theorem State.setPart_past (s : State) (p : Nat) (x : Part) : (s.setPart p x).past = s.past := rfl
@[simp] theorem State.setPart_hostMem (s : State) (p : Nat) (x : Part) : (s.setPart p x).hostMem = s.hostMem := rfl
@[simp] theorem State.setPart_tags (s : State) (p : Nat) (x : Part) : (s.setPart p x).tags = s.tags := rfl
@[simp] theorem State.setPart_flips (s : State) (p : Nat) (x : Part) : (s.setPart p x).flips = s.flips := rfl
@[simp] theorem State.setPart_poison (s : State) (p : Nat) (x : Part) : (s.setPart p x).poison = s.poison := rfl
@[simp] theorem State.setPart_requests (s : State) (p : Nat) (x : Part) : (s.setPart p x).requests = s.requests := rfl
@[simp] theorem State.setPart_queued (s : State) (p : Nat) (x : Part) : (s.setPart p x).queued = s.queued := rfl
@[simp] theorem State.setPart_reads (s : State) (p : Nat) (x : Part) : (s.setPart p x).reads = s.reads := rfl
@[simp] theorem State.setPart_packets (s : State) (p : Nat) (x : Part) : (s.setPart p x).packets = s.packets := rfl
@[simp] theorem State.setPart_podArrivals (s : State) (p : Nat) (x : Part) :
    (s.setPart p x).podArrivals = s.podArrivals := rfl
@[simp] theorem State.setPart_podSent (s : State) (p : Nat) (x : Part) : (s.setPart p x).podSent = s.podSent := rfl
@[simp] theorem State.setPart_tasks (s : State) (p : Nat) (x : Part) : (s.setPart p x).tasks = s.tasks := rfl
@[simp] theorem State.setPart_nextUid (s : State) (p : Nat) (x : Part) : (s.setPart p x).nextUid = s.nextUid := rfl
@[simp] theorem State.setPart_cores (s : State) (p : Nat) (x : Part) : (s.setPart p x).cores = s.cores := rfl
@[simp] theorem State.setPart_quads (s : State) (p : Nat) (x : Part) : (s.setPart p x).quads = s.quads := rfl
@[simp] theorem State.setPart_dies (s : State) (p : Nat) (x : Part) : (s.setPart p x).dies = s.dies := rfl
@[simp] theorem State.setPart_ctxs (s : State) (p : Nat) (x : Part) : (s.setPart p x).ctxs = s.ctxs := rfl
@[simp] theorem State.setPart_launches (s : State) (p : Nat) (x : Part) : (s.setPart p x).launches = s.launches := rfl
@[simp] theorem State.setPart_posts (s : State) (p : Nat) (x : Part) : (s.setPart p x).posts = s.posts := rfl
@[simp] theorem State.setPart_doms (s : State) (p : Nat) (x : Part) : (s.setPart p x).doms = s.doms := rfl
@[simp] theorem State.setPart_exchanges (s : State) (p : Nat) (x : Part) :
    (s.setPart p x).exchanges = s.exchanges := rfl
@[simp] theorem State.setPart_nextExchange (s : State) (p : Nat) (x : Part) :
    (s.setPart p x).nextExchange = s.nextExchange := rfl
@[simp] theorem State.setPart_confirms (s : State) (p : Nat) (x : Part) : (s.setPart p x).confirms = s.confirms := rfl
@[simp] theorem State.setPart_answers (s : State) (p : Nat) (x : Part) : (s.setPart p x).answers = s.answers := rfl
@[simp] theorem State.setPart_fab (s : State) (p : Nat) (x : Part) : (s.setPart p x).fab = s.fab := rfl
@[simp] theorem State.setPart_hosts (s : State) (p : Nat) (x : Part) : (s.setPart p x).hosts = s.hosts := rfl
@[simp] theorem State.setPart_svc (s : State) (p : Nat) (x : Part) : (s.setPart p x).svc = s.svc := rfl

/-! `setCtx` changes `ctxs` alone. -/
@[simp] theorem State.setCtx_agenda (s : State) (c : Nat) (x : Ctx) : (s.setCtx c x).agenda = s.agenda := rfl
@[simp] theorem State.setCtx_turn (s : State) (c : Nat) (x : Ctx) : (s.setCtx c x).turn = s.turn := rfl
@[simp] theorem State.setCtx_fresh (s : State) (c : Nat) (x : Ctx) : (s.setCtx c x).fresh = s.fresh := rfl
@[simp] theorem State.setCtx_clock (s : State) (c : Nat) (x : Ctx) : (s.setCtx c x).clock = s.clock := rfl
@[simp] theorem State.setCtx_mem (s : State) (c : Nat) (x : Ctx) : (s.setCtx c x).mem = s.mem := rfl
@[simp] theorem State.setCtx_past (s : State) (c : Nat) (x : Ctx) : (s.setCtx c x).past = s.past := rfl
@[simp] theorem State.setCtx_hostMem (s : State) (c : Nat) (x : Ctx) : (s.setCtx c x).hostMem = s.hostMem := rfl
@[simp] theorem State.setCtx_tags (s : State) (c : Nat) (x : Ctx) : (s.setCtx c x).tags = s.tags := rfl
@[simp] theorem State.setCtx_flips (s : State) (c : Nat) (x : Ctx) : (s.setCtx c x).flips = s.flips := rfl
@[simp] theorem State.setCtx_poison (s : State) (c : Nat) (x : Ctx) : (s.setCtx c x).poison = s.poison := rfl
@[simp] theorem State.setCtx_requests (s : State) (c : Nat) (x : Ctx) : (s.setCtx c x).requests = s.requests := rfl
@[simp] theorem State.setCtx_queued (s : State) (c : Nat) (x : Ctx) : (s.setCtx c x).queued = s.queued := rfl
@[simp] theorem State.setCtx_reads (s : State) (c : Nat) (x : Ctx) : (s.setCtx c x).reads = s.reads := rfl
@[simp] theorem State.setCtx_packets (s : State) (c : Nat) (x : Ctx) : (s.setCtx c x).packets = s.packets := rfl
@[simp] theorem State.setCtx_podArrivals (s : State) (c : Nat) (x : Ctx) :
    (s.setCtx c x).podArrivals = s.podArrivals := rfl
@[simp] theorem State.setCtx_podSent (s : State) (c : Nat) (x : Ctx) : (s.setCtx c x).podSent = s.podSent := rfl
@[simp] theorem State.setCtx_tasks (s : State) (c : Nat) (x : Ctx) : (s.setCtx c x).tasks = s.tasks := rfl
@[simp] theorem State.setCtx_nextUid (s : State) (c : Nat) (x : Ctx) : (s.setCtx c x).nextUid = s.nextUid := rfl
@[simp] theorem State.setCtx_cores (s : State) (c : Nat) (x : Ctx) : (s.setCtx c x).cores = s.cores := rfl
@[simp] theorem State.setCtx_quads (s : State) (c : Nat) (x : Ctx) : (s.setCtx c x).quads = s.quads := rfl
@[simp] theorem State.setCtx_dies (s : State) (c : Nat) (x : Ctx) : (s.setCtx c x).dies = s.dies := rfl
@[simp] theorem State.setCtx_parts (s : State) (c : Nat) (x : Ctx) : (s.setCtx c x).parts = s.parts := rfl
@[simp] theorem State.setCtx_launches (s : State) (c : Nat) (x : Ctx) : (s.setCtx c x).launches = s.launches := rfl
@[simp] theorem State.setCtx_posts (s : State) (c : Nat) (x : Ctx) : (s.setCtx c x).posts = s.posts := rfl
@[simp] theorem State.setCtx_doms (s : State) (c : Nat) (x : Ctx) : (s.setCtx c x).doms = s.doms := rfl
@[simp] theorem State.setCtx_exchanges (s : State) (c : Nat) (x : Ctx) : (s.setCtx c x).exchanges = s.exchanges := rfl
@[simp] theorem State.setCtx_nextExchange (s : State) (c : Nat) (x : Ctx) :
    (s.setCtx c x).nextExchange = s.nextExchange := rfl
@[simp] theorem State.setCtx_confirms (s : State) (c : Nat) (x : Ctx) : (s.setCtx c x).confirms = s.confirms := rfl
@[simp] theorem State.setCtx_answers (s : State) (c : Nat) (x : Ctx) : (s.setCtx c x).answers = s.answers := rfl
@[simp] theorem State.setCtx_fab (s : State) (c : Nat) (x : Ctx) : (s.setCtx c x).fab = s.fab := rfl
@[simp] theorem State.setCtx_hosts (s : State) (c : Nat) (x : Ctx) : (s.setCtx c x).hosts = s.hosts := rfl
@[simp] theorem State.setCtx_svc (s : State) (c : Nat) (x : Ctx) : (s.setCtx c x).svc = s.svc := rfl

/-! `setHostCore` changes `hosts` alone. -/
@[simp] theorem State.setHostCore_agenda (s : State) (c : Nat) (h : HostCore) :
    (s.setHostCore c h).agenda = s.agenda := rfl
@[simp] theorem State.setHostCore_turn (s : State) (c : Nat) (h : HostCore) : (s.setHostCore c h).turn = s.turn := rfl
@[simp] theorem State.setHostCore_fresh (s : State) (c : Nat) (h : HostCore) :
    (s.setHostCore c h).fresh = s.fresh := rfl
@[simp] theorem State.setHostCore_clock (s : State) (c : Nat) (h : HostCore) :
    (s.setHostCore c h).clock = s.clock := rfl
@[simp] theorem State.setHostCore_mem (s : State) (c : Nat) (h : HostCore) : (s.setHostCore c h).mem = s.mem := rfl
@[simp] theorem State.setHostCore_past (s : State) (c : Nat) (h : HostCore) : (s.setHostCore c h).past = s.past := rfl
@[simp] theorem State.setHostCore_hostMem (s : State) (c : Nat) (h : HostCore) :
    (s.setHostCore c h).hostMem = s.hostMem := rfl
@[simp] theorem State.setHostCore_tags (s : State) (c : Nat) (h : HostCore) : (s.setHostCore c h).tags = s.tags := rfl
@[simp] theorem State.setHostCore_flips (s : State) (c : Nat) (h : HostCore) :
    (s.setHostCore c h).flips = s.flips := rfl
@[simp] theorem State.setHostCore_poison (s : State) (c : Nat) (h : HostCore) :
    (s.setHostCore c h).poison = s.poison := rfl
@[simp] theorem State.setHostCore_requests (s : State) (c : Nat) (h : HostCore) :
    (s.setHostCore c h).requests = s.requests := rfl
@[simp] theorem State.setHostCore_queued (s : State) (c : Nat) (h : HostCore) :
    (s.setHostCore c h).queued = s.queued := rfl
@[simp] theorem State.setHostCore_reads (s : State) (c : Nat) (h : HostCore) :
    (s.setHostCore c h).reads = s.reads := rfl
@[simp] theorem State.setHostCore_packets (s : State) (c : Nat) (h : HostCore) :
    (s.setHostCore c h).packets = s.packets := rfl
@[simp] theorem State.setHostCore_podArrivals (s : State) (c : Nat) (h : HostCore) :
    (s.setHostCore c h).podArrivals = s.podArrivals := rfl
@[simp] theorem State.setHostCore_podSent (s : State) (c : Nat) (h : HostCore) :
    (s.setHostCore c h).podSent = s.podSent := rfl
@[simp] theorem State.setHostCore_tasks (s : State) (c : Nat) (h : HostCore) :
    (s.setHostCore c h).tasks = s.tasks := rfl
@[simp] theorem State.setHostCore_nextUid (s : State) (c : Nat) (h : HostCore) :
    (s.setHostCore c h).nextUid = s.nextUid := rfl
@[simp] theorem State.setHostCore_cores (s : State) (c : Nat) (h : HostCore) :
    (s.setHostCore c h).cores = s.cores := rfl
@[simp] theorem State.setHostCore_quads (s : State) (c : Nat) (h : HostCore) :
    (s.setHostCore c h).quads = s.quads := rfl
@[simp] theorem State.setHostCore_dies (s : State) (c : Nat) (h : HostCore) : (s.setHostCore c h).dies = s.dies := rfl
@[simp] theorem State.setHostCore_parts (s : State) (c : Nat) (h : HostCore) :
    (s.setHostCore c h).parts = s.parts := rfl
@[simp] theorem State.setHostCore_ctxs (s : State) (c : Nat) (h : HostCore) : (s.setHostCore c h).ctxs = s.ctxs := rfl
@[simp] theorem State.setHostCore_launches (s : State) (c : Nat) (h : HostCore) :
    (s.setHostCore c h).launches = s.launches := rfl
@[simp] theorem State.setHostCore_posts (s : State) (c : Nat) (h : HostCore) :
    (s.setHostCore c h).posts = s.posts := rfl
@[simp] theorem State.setHostCore_doms (s : State) (c : Nat) (h : HostCore) : (s.setHostCore c h).doms = s.doms := rfl
@[simp] theorem State.setHostCore_exchanges (s : State) (c : Nat) (h : HostCore) :
    (s.setHostCore c h).exchanges = s.exchanges := rfl
@[simp] theorem State.setHostCore_nextExchange (s : State) (c : Nat) (h : HostCore) :
    (s.setHostCore c h).nextExchange = s.nextExchange := rfl
@[simp] theorem State.setHostCore_confirms (s : State) (c : Nat) (h : HostCore) :
    (s.setHostCore c h).confirms = s.confirms := rfl
@[simp] theorem State.setHostCore_answers (s : State) (c : Nat) (h : HostCore) :
    (s.setHostCore c h).answers = s.answers := rfl
@[simp] theorem State.setHostCore_fab (s : State) (c : Nat) (h : HostCore) : (s.setHostCore c h).fab = s.fab := rfl
@[simp] theorem State.setHostCore_svc (s : State) (c : Nat) (h : HostCore) : (s.setHostCore c h).svc = s.svc := rfl

/-! `putTask` changes `tasks` alone. -/
@[simp] theorem State.putTask_agenda (s : State) (t : Task) : (s.putTask t).agenda = s.agenda := rfl
@[simp] theorem State.putTask_turn (s : State) (t : Task) : (s.putTask t).turn = s.turn := rfl
@[simp] theorem State.putTask_fresh (s : State) (t : Task) : (s.putTask t).fresh = s.fresh := rfl
@[simp] theorem State.putTask_clock (s : State) (t : Task) : (s.putTask t).clock = s.clock := rfl
@[simp] theorem State.putTask_mem (s : State) (t : Task) : (s.putTask t).mem = s.mem := rfl
@[simp] theorem State.putTask_past (s : State) (t : Task) : (s.putTask t).past = s.past := rfl
@[simp] theorem State.putTask_hostMem (s : State) (t : Task) : (s.putTask t).hostMem = s.hostMem := rfl
@[simp] theorem State.putTask_tags (s : State) (t : Task) : (s.putTask t).tags = s.tags := rfl
@[simp] theorem State.putTask_flips (s : State) (t : Task) : (s.putTask t).flips = s.flips := rfl
@[simp] theorem State.putTask_poison (s : State) (t : Task) : (s.putTask t).poison = s.poison := rfl
@[simp] theorem State.putTask_requests (s : State) (t : Task) : (s.putTask t).requests = s.requests := rfl
@[simp] theorem State.putTask_queued (s : State) (t : Task) : (s.putTask t).queued = s.queued := rfl
@[simp] theorem State.putTask_reads (s : State) (t : Task) : (s.putTask t).reads = s.reads := rfl
@[simp] theorem State.putTask_packets (s : State) (t : Task) : (s.putTask t).packets = s.packets := rfl
@[simp] theorem State.putTask_podArrivals (s : State) (t : Task) : (s.putTask t).podArrivals = s.podArrivals := rfl
@[simp] theorem State.putTask_podSent (s : State) (t : Task) : (s.putTask t).podSent = s.podSent := rfl
@[simp] theorem State.putTask_nextUid (s : State) (t : Task) : (s.putTask t).nextUid = s.nextUid := rfl
@[simp] theorem State.putTask_cores (s : State) (t : Task) : (s.putTask t).cores = s.cores := rfl
@[simp] theorem State.putTask_quads (s : State) (t : Task) : (s.putTask t).quads = s.quads := rfl
@[simp] theorem State.putTask_dies (s : State) (t : Task) : (s.putTask t).dies = s.dies := rfl
@[simp] theorem State.putTask_parts (s : State) (t : Task) : (s.putTask t).parts = s.parts := rfl
@[simp] theorem State.putTask_ctxs (s : State) (t : Task) : (s.putTask t).ctxs = s.ctxs := rfl
@[simp] theorem State.putTask_launches (s : State) (t : Task) : (s.putTask t).launches = s.launches := rfl
@[simp] theorem State.putTask_posts (s : State) (t : Task) : (s.putTask t).posts = s.posts := rfl
@[simp] theorem State.putTask_doms (s : State) (t : Task) : (s.putTask t).doms = s.doms := rfl
@[simp] theorem State.putTask_exchanges (s : State) (t : Task) : (s.putTask t).exchanges = s.exchanges := rfl
@[simp] theorem State.putTask_nextExchange (s : State) (t : Task) : (s.putTask t).nextExchange = s.nextExchange := rfl
@[simp] theorem State.putTask_confirms (s : State) (t : Task) : (s.putTask t).confirms = s.confirms := rfl
@[simp] theorem State.putTask_answers (s : State) (t : Task) : (s.putTask t).answers = s.answers := rfl
@[simp] theorem State.putTask_fab (s : State) (t : Task) : (s.putTask t).fab = s.fab := rfl
@[simp] theorem State.putTask_hosts (s : State) (t : Task) : (s.putTask t).hosts = s.hosts := rfl
@[simp] theorem State.putTask_svc (s : State) (t : Task) : (s.putTask t).svc = s.svc := rfl

/-! `draw` changes `fresh` alone. -/
@[simp] theorem State.draw_agenda (s : State) : (s.draw).agenda = s.agenda := rfl
@[simp] theorem State.draw_turn (s : State) : (s.draw).turn = s.turn := rfl
@[simp] theorem State.draw_clock (s : State) : (s.draw).clock = s.clock := rfl
@[simp] theorem State.draw_mem (s : State) : (s.draw).mem = s.mem := rfl
@[simp] theorem State.draw_past (s : State) : (s.draw).past = s.past := rfl
@[simp] theorem State.draw_hostMem (s : State) : (s.draw).hostMem = s.hostMem := rfl
@[simp] theorem State.draw_tags (s : State) : (s.draw).tags = s.tags := rfl
@[simp] theorem State.draw_flips (s : State) : (s.draw).flips = s.flips := rfl
@[simp] theorem State.draw_poison (s : State) : (s.draw).poison = s.poison := rfl
@[simp] theorem State.draw_requests (s : State) : (s.draw).requests = s.requests := rfl
@[simp] theorem State.draw_queued (s : State) : (s.draw).queued = s.queued := rfl
@[simp] theorem State.draw_reads (s : State) : (s.draw).reads = s.reads := rfl
@[simp] theorem State.draw_packets (s : State) : (s.draw).packets = s.packets := rfl
@[simp] theorem State.draw_podArrivals (s : State) : (s.draw).podArrivals = s.podArrivals := rfl
@[simp] theorem State.draw_podSent (s : State) : (s.draw).podSent = s.podSent := rfl
@[simp] theorem State.draw_tasks (s : State) : (s.draw).tasks = s.tasks := rfl
@[simp] theorem State.draw_nextUid (s : State) : (s.draw).nextUid = s.nextUid := rfl
@[simp] theorem State.draw_cores (s : State) : (s.draw).cores = s.cores := rfl
@[simp] theorem State.draw_quads (s : State) : (s.draw).quads = s.quads := rfl
@[simp] theorem State.draw_dies (s : State) : (s.draw).dies = s.dies := rfl
@[simp] theorem State.draw_parts (s : State) : (s.draw).parts = s.parts := rfl
@[simp] theorem State.draw_ctxs (s : State) : (s.draw).ctxs = s.ctxs := rfl
@[simp] theorem State.draw_launches (s : State) : (s.draw).launches = s.launches := rfl
@[simp] theorem State.draw_posts (s : State) : (s.draw).posts = s.posts := rfl
@[simp] theorem State.draw_doms (s : State) : (s.draw).doms = s.doms := rfl
@[simp] theorem State.draw_exchanges (s : State) : (s.draw).exchanges = s.exchanges := rfl
@[simp] theorem State.draw_nextExchange (s : State) : (s.draw).nextExchange = s.nextExchange := rfl
@[simp] theorem State.draw_confirms (s : State) : (s.draw).confirms = s.confirms := rfl
@[simp] theorem State.draw_answers (s : State) : (s.draw).answers = s.answers := rfl
@[simp] theorem State.draw_fab (s : State) : (s.draw).fab = s.fab := rfl
@[simp] theorem State.draw_hosts (s : State) : (s.draw).hosts = s.hosts := rfl
@[simp] theorem State.draw_svc (s : State) : (s.draw).svc = s.svc := rfl

/-! `tick` changes `clock` alone. -/
@[simp] theorem State.tick_agenda (s : State) : (s.tick).agenda = s.agenda := rfl
@[simp] theorem State.tick_turn (s : State) : (s.tick).turn = s.turn := rfl
@[simp] theorem State.tick_fresh (s : State) : (s.tick).fresh = s.fresh := rfl
@[simp] theorem State.tick_mem (s : State) : (s.tick).mem = s.mem := rfl
@[simp] theorem State.tick_past (s : State) : (s.tick).past = s.past := rfl
@[simp] theorem State.tick_hostMem (s : State) : (s.tick).hostMem = s.hostMem := rfl
@[simp] theorem State.tick_tags (s : State) : (s.tick).tags = s.tags := rfl
@[simp] theorem State.tick_flips (s : State) : (s.tick).flips = s.flips := rfl
@[simp] theorem State.tick_poison (s : State) : (s.tick).poison = s.poison := rfl
@[simp] theorem State.tick_requests (s : State) : (s.tick).requests = s.requests := rfl
@[simp] theorem State.tick_queued (s : State) : (s.tick).queued = s.queued := rfl
@[simp] theorem State.tick_reads (s : State) : (s.tick).reads = s.reads := rfl
@[simp] theorem State.tick_packets (s : State) : (s.tick).packets = s.packets := rfl
@[simp] theorem State.tick_podArrivals (s : State) : (s.tick).podArrivals = s.podArrivals := rfl
@[simp] theorem State.tick_podSent (s : State) : (s.tick).podSent = s.podSent := rfl
@[simp] theorem State.tick_tasks (s : State) : (s.tick).tasks = s.tasks := rfl
@[simp] theorem State.tick_nextUid (s : State) : (s.tick).nextUid = s.nextUid := rfl
@[simp] theorem State.tick_cores (s : State) : (s.tick).cores = s.cores := rfl
@[simp] theorem State.tick_quads (s : State) : (s.tick).quads = s.quads := rfl
@[simp] theorem State.tick_dies (s : State) : (s.tick).dies = s.dies := rfl
@[simp] theorem State.tick_parts (s : State) : (s.tick).parts = s.parts := rfl
@[simp] theorem State.tick_ctxs (s : State) : (s.tick).ctxs = s.ctxs := rfl
@[simp] theorem State.tick_launches (s : State) : (s.tick).launches = s.launches := rfl
@[simp] theorem State.tick_posts (s : State) : (s.tick).posts = s.posts := rfl
@[simp] theorem State.tick_doms (s : State) : (s.tick).doms = s.doms := rfl
@[simp] theorem State.tick_exchanges (s : State) : (s.tick).exchanges = s.exchanges := rfl
@[simp] theorem State.tick_nextExchange (s : State) : (s.tick).nextExchange = s.nextExchange := rfl
@[simp] theorem State.tick_confirms (s : State) : (s.tick).confirms = s.confirms := rfl
@[simp] theorem State.tick_answers (s : State) : (s.tick).answers = s.answers := rfl
@[simp] theorem State.tick_fab (s : State) : (s.tick).fab = s.fab := rfl
@[simp] theorem State.tick_hosts (s : State) : (s.tick).hosts = s.hosts := rfl
@[simp] theorem State.tick_svc (s : State) : (s.tick).svc = s.svc := rfl

/-! `countMisuse` changes `svc` alone. -/
@[simp] theorem State.countMisuse_agenda (s : State) : (s.countMisuse).agenda = s.agenda := rfl
@[simp] theorem State.countMisuse_turn (s : State) : (s.countMisuse).turn = s.turn := rfl
@[simp] theorem State.countMisuse_fresh (s : State) : (s.countMisuse).fresh = s.fresh := rfl
@[simp] theorem State.countMisuse_clock (s : State) : (s.countMisuse).clock = s.clock := rfl
@[simp] theorem State.countMisuse_mem (s : State) : (s.countMisuse).mem = s.mem := rfl
@[simp] theorem State.countMisuse_past (s : State) : (s.countMisuse).past = s.past := rfl
@[simp] theorem State.countMisuse_hostMem (s : State) : (s.countMisuse).hostMem = s.hostMem := rfl
@[simp] theorem State.countMisuse_tags (s : State) : (s.countMisuse).tags = s.tags := rfl
@[simp] theorem State.countMisuse_flips (s : State) : (s.countMisuse).flips = s.flips := rfl
@[simp] theorem State.countMisuse_poison (s : State) : (s.countMisuse).poison = s.poison := rfl
@[simp] theorem State.countMisuse_requests (s : State) : (s.countMisuse).requests = s.requests := rfl
@[simp] theorem State.countMisuse_queued (s : State) : (s.countMisuse).queued = s.queued := rfl
@[simp] theorem State.countMisuse_reads (s : State) : (s.countMisuse).reads = s.reads := rfl
@[simp] theorem State.countMisuse_packets (s : State) : (s.countMisuse).packets = s.packets := rfl
@[simp] theorem State.countMisuse_podArrivals (s : State) : (s.countMisuse).podArrivals = s.podArrivals := rfl
@[simp] theorem State.countMisuse_podSent (s : State) : (s.countMisuse).podSent = s.podSent := rfl
@[simp] theorem State.countMisuse_tasks (s : State) : (s.countMisuse).tasks = s.tasks := rfl
@[simp] theorem State.countMisuse_nextUid (s : State) : (s.countMisuse).nextUid = s.nextUid := rfl
@[simp] theorem State.countMisuse_cores (s : State) : (s.countMisuse).cores = s.cores := rfl
@[simp] theorem State.countMisuse_quads (s : State) : (s.countMisuse).quads = s.quads := rfl
@[simp] theorem State.countMisuse_dies (s : State) : (s.countMisuse).dies = s.dies := rfl
@[simp] theorem State.countMisuse_parts (s : State) : (s.countMisuse).parts = s.parts := rfl
@[simp] theorem State.countMisuse_ctxs (s : State) : (s.countMisuse).ctxs = s.ctxs := rfl
@[simp] theorem State.countMisuse_launches (s : State) : (s.countMisuse).launches = s.launches := rfl
@[simp] theorem State.countMisuse_posts (s : State) : (s.countMisuse).posts = s.posts := rfl
@[simp] theorem State.countMisuse_doms (s : State) : (s.countMisuse).doms = s.doms := rfl
@[simp] theorem State.countMisuse_exchanges (s : State) : (s.countMisuse).exchanges = s.exchanges := rfl
@[simp] theorem State.countMisuse_nextExchange (s : State) : (s.countMisuse).nextExchange = s.nextExchange := rfl
@[simp] theorem State.countMisuse_confirms (s : State) : (s.countMisuse).confirms = s.confirms := rfl
@[simp] theorem State.countMisuse_answers (s : State) : (s.countMisuse).answers = s.answers := rfl
@[simp] theorem State.countMisuse_fab (s : State) : (s.countMisuse).fab = s.fab := rfl
@[simp] theorem State.countMisuse_hosts (s : State) : (s.countMisuse).hosts = s.hosts := rfl

/-! `setTag` changes `tags` alone. -/
@[simp] theorem State.setTag_agenda (s : State) (a : Nat) (t : Tag) : (s.setTag a t).agenda = s.agenda := rfl
@[simp] theorem State.setTag_turn (s : State) (a : Nat) (t : Tag) : (s.setTag a t).turn = s.turn := rfl
@[simp] theorem State.setTag_fresh (s : State) (a : Nat) (t : Tag) : (s.setTag a t).fresh = s.fresh := rfl
@[simp] theorem State.setTag_clock (s : State) (a : Nat) (t : Tag) : (s.setTag a t).clock = s.clock := rfl
@[simp] theorem State.setTag_past (s : State) (a : Nat) (t : Tag) : (s.setTag a t).past = s.past := rfl
@[simp] theorem State.setTag_hostMem (s : State) (a : Nat) (t : Tag) : (s.setTag a t).hostMem = s.hostMem := rfl
@[simp] theorem State.setTag_flips (s : State) (a : Nat) (t : Tag) : (s.setTag a t).flips = s.flips := rfl
@[simp] theorem State.setTag_poison (s : State) (a : Nat) (t : Tag) : (s.setTag a t).poison = s.poison := rfl
@[simp] theorem State.setTag_requests (s : State) (a : Nat) (t : Tag) : (s.setTag a t).requests = s.requests := rfl
@[simp] theorem State.setTag_queued (s : State) (a : Nat) (t : Tag) : (s.setTag a t).queued = s.queued := rfl
@[simp] theorem State.setTag_reads (s : State) (a : Nat) (t : Tag) : (s.setTag a t).reads = s.reads := rfl
@[simp] theorem State.setTag_packets (s : State) (a : Nat) (t : Tag) : (s.setTag a t).packets = s.packets := rfl
@[simp] theorem State.setTag_podArrivals (s : State) (a : Nat) (t : Tag) :
    (s.setTag a t).podArrivals = s.podArrivals := rfl
@[simp] theorem State.setTag_podSent (s : State) (a : Nat) (t : Tag) : (s.setTag a t).podSent = s.podSent := rfl
@[simp] theorem State.setTag_tasks (s : State) (a : Nat) (t : Tag) : (s.setTag a t).tasks = s.tasks := rfl
@[simp] theorem State.setTag_nextUid (s : State) (a : Nat) (t : Tag) : (s.setTag a t).nextUid = s.nextUid := rfl
@[simp] theorem State.setTag_cores (s : State) (a : Nat) (t : Tag) : (s.setTag a t).cores = s.cores := rfl
@[simp] theorem State.setTag_quads (s : State) (a : Nat) (t : Tag) : (s.setTag a t).quads = s.quads := rfl
@[simp] theorem State.setTag_dies (s : State) (a : Nat) (t : Tag) : (s.setTag a t).dies = s.dies := rfl
@[simp] theorem State.setTag_parts (s : State) (a : Nat) (t : Tag) : (s.setTag a t).parts = s.parts := rfl
@[simp] theorem State.setTag_ctxs (s : State) (a : Nat) (t : Tag) : (s.setTag a t).ctxs = s.ctxs := rfl
@[simp] theorem State.setTag_launches (s : State) (a : Nat) (t : Tag) : (s.setTag a t).launches = s.launches := rfl
@[simp] theorem State.setTag_posts (s : State) (a : Nat) (t : Tag) : (s.setTag a t).posts = s.posts := rfl
@[simp] theorem State.setTag_doms (s : State) (a : Nat) (t : Tag) : (s.setTag a t).doms = s.doms := rfl
@[simp] theorem State.setTag_exchanges (s : State) (a : Nat) (t : Tag) : (s.setTag a t).exchanges = s.exchanges := rfl
@[simp] theorem State.setTag_nextExchange (s : State) (a : Nat) (t : Tag) :
    (s.setTag a t).nextExchange = s.nextExchange := rfl
@[simp] theorem State.setTag_confirms (s : State) (a : Nat) (t : Tag) : (s.setTag a t).confirms = s.confirms := rfl
@[simp] theorem State.setTag_answers (s : State) (a : Nat) (t : Tag) : (s.setTag a t).answers = s.answers := rfl
@[simp] theorem State.setTag_fab (s : State) (a : Nat) (t : Tag) : (s.setTag a t).fab = s.fab := rfl
@[simp] theorem State.setTag_hosts (s : State) (a : Nat) (t : Tag) : (s.setTag a t).hosts = s.hosts := rfl
@[simp] theorem State.setTag_svc (s : State) (a : Nat) (t : Tag) : (s.setTag a t).svc = s.svc := rfl

/-! `send` changes `fab` alone. -/
@[simp] theorem State.send_agenda (s : State) (dst : Nat) (w : Who) (m : Msg) (c : Class) (o : Nat) :
    (s.send dst w m c o).agenda = s.agenda := rfl
@[simp] theorem State.send_turn (s : State) (dst : Nat) (w : Who) (m : Msg) (c : Class) (o : Nat) :
    (s.send dst w m c o).turn = s.turn := rfl
@[simp] theorem State.send_fresh (s : State) (dst : Nat) (w : Who) (m : Msg) (c : Class) (o : Nat) :
    (s.send dst w m c o).fresh = s.fresh := rfl
@[simp] theorem State.send_clock (s : State) (dst : Nat) (w : Who) (m : Msg) (c : Class) (o : Nat) :
    (s.send dst w m c o).clock = s.clock := rfl
@[simp] theorem State.send_mem (s : State) (dst : Nat) (w : Who) (m : Msg) (c : Class) (o : Nat) :
    (s.send dst w m c o).mem = s.mem := rfl
@[simp] theorem State.send_past (s : State) (dst : Nat) (w : Who) (m : Msg) (c : Class) (o : Nat) :
    (s.send dst w m c o).past = s.past := rfl
@[simp] theorem State.send_hostMem (s : State) (dst : Nat) (w : Who) (m : Msg) (c : Class) (o : Nat) :
    (s.send dst w m c o).hostMem = s.hostMem := rfl
@[simp] theorem State.send_tags (s : State) (dst : Nat) (w : Who) (m : Msg) (c : Class) (o : Nat) :
    (s.send dst w m c o).tags = s.tags := rfl
@[simp] theorem State.send_flips (s : State) (dst : Nat) (w : Who) (m : Msg) (c : Class) (o : Nat) :
    (s.send dst w m c o).flips = s.flips := rfl
@[simp] theorem State.send_poison (s : State) (dst : Nat) (w : Who) (m : Msg) (c : Class) (o : Nat) :
    (s.send dst w m c o).poison = s.poison := rfl
@[simp] theorem State.send_requests (s : State) (dst : Nat) (w : Who) (m : Msg) (c : Class) (o : Nat) :
    (s.send dst w m c o).requests = s.requests := rfl
@[simp] theorem State.send_queued (s : State) (dst : Nat) (w : Who) (m : Msg) (c : Class) (o : Nat) :
    (s.send dst w m c o).queued = s.queued := rfl
@[simp] theorem State.send_reads (s : State) (dst : Nat) (w : Who) (m : Msg) (c : Class) (o : Nat) :
    (s.send dst w m c o).reads = s.reads := rfl
@[simp] theorem State.send_packets (s : State) (dst : Nat) (w : Who) (m : Msg) (c : Class) (o : Nat) :
    (s.send dst w m c o).packets = s.packets := rfl
@[simp] theorem State.send_podArrivals (s : State) (dst : Nat) (w : Who) (m : Msg) (c : Class) (o : Nat) :
    (s.send dst w m c o).podArrivals = s.podArrivals := rfl
@[simp] theorem State.send_podSent (s : State) (dst : Nat) (w : Who) (m : Msg) (c : Class) (o : Nat) :
    (s.send dst w m c o).podSent = s.podSent := rfl
@[simp] theorem State.send_tasks (s : State) (dst : Nat) (w : Who) (m : Msg) (c : Class) (o : Nat) :
    (s.send dst w m c o).tasks = s.tasks := rfl
@[simp] theorem State.send_nextUid (s : State) (dst : Nat) (w : Who) (m : Msg) (c : Class) (o : Nat) :
    (s.send dst w m c o).nextUid = s.nextUid := rfl
@[simp] theorem State.send_cores (s : State) (dst : Nat) (w : Who) (m : Msg) (c : Class) (o : Nat) :
    (s.send dst w m c o).cores = s.cores := rfl
@[simp] theorem State.send_quads (s : State) (dst : Nat) (w : Who) (m : Msg) (c : Class) (o : Nat) :
    (s.send dst w m c o).quads = s.quads := rfl
@[simp] theorem State.send_dies (s : State) (dst : Nat) (w : Who) (m : Msg) (c : Class) (o : Nat) :
    (s.send dst w m c o).dies = s.dies := rfl
@[simp] theorem State.send_parts (s : State) (dst : Nat) (w : Who) (m : Msg) (c : Class) (o : Nat) :
    (s.send dst w m c o).parts = s.parts := rfl
@[simp] theorem State.send_ctxs (s : State) (dst : Nat) (w : Who) (m : Msg) (c : Class) (o : Nat) :
    (s.send dst w m c o).ctxs = s.ctxs := rfl
@[simp] theorem State.send_launches (s : State) (dst : Nat) (w : Who) (m : Msg) (c : Class) (o : Nat) :
    (s.send dst w m c o).launches = s.launches := rfl
@[simp] theorem State.send_posts (s : State) (dst : Nat) (w : Who) (m : Msg) (c : Class) (o : Nat) :
    (s.send dst w m c o).posts = s.posts := rfl
@[simp] theorem State.send_doms (s : State) (dst : Nat) (w : Who) (m : Msg) (c : Class) (o : Nat) :
    (s.send dst w m c o).doms = s.doms := rfl
@[simp] theorem State.send_exchanges (s : State) (dst : Nat) (w : Who) (m : Msg) (c : Class) (o : Nat) :
    (s.send dst w m c o).exchanges = s.exchanges := rfl
@[simp] theorem State.send_nextExchange (s : State) (dst : Nat) (w : Who) (m : Msg) (c : Class) (o : Nat) :
    (s.send dst w m c o).nextExchange = s.nextExchange := rfl
@[simp] theorem State.send_confirms (s : State) (dst : Nat) (w : Who) (m : Msg) (c : Class) (o : Nat) :
    (s.send dst w m c o).confirms = s.confirms := rfl
@[simp] theorem State.send_answers (s : State) (dst : Nat) (w : Who) (m : Msg) (c : Class) (o : Nat) :
    (s.send dst w m c o).answers = s.answers := rfl
@[simp] theorem State.send_hosts (s : State) (dst : Nat) (w : Who) (m : Msg) (c : Class) (o : Nat) :
    (s.send dst w m c o).hosts = s.hosts := rfl
@[simp] theorem State.send_svc (s : State) (dst : Nat) (w : Who) (m : Msg) (c : Class) (o : Nat) :
    (s.send dst w m c o).svc = s.svc := rfl

/-! `unblock` changes `dies` alone. -/
@[simp] theorem State.unblock_agenda (s : State) (k pa : Nat) : (s.unblock k pa).agenda = s.agenda := rfl
@[simp] theorem State.unblock_turn (s : State) (k pa : Nat) : (s.unblock k pa).turn = s.turn := rfl
@[simp] theorem State.unblock_fresh (s : State) (k pa : Nat) : (s.unblock k pa).fresh = s.fresh := rfl
@[simp] theorem State.unblock_clock (s : State) (k pa : Nat) : (s.unblock k pa).clock = s.clock := rfl
@[simp] theorem State.unblock_past (s : State) (k pa : Nat) : (s.unblock k pa).past = s.past := rfl
@[simp] theorem State.unblock_hostMem (s : State) (k pa : Nat) : (s.unblock k pa).hostMem = s.hostMem := rfl
@[simp] theorem State.unblock_tags (s : State) (k pa : Nat) : (s.unblock k pa).tags = s.tags := rfl
@[simp] theorem State.unblock_flips (s : State) (k pa : Nat) : (s.unblock k pa).flips = s.flips := rfl
@[simp] theorem State.unblock_poison (s : State) (k pa : Nat) : (s.unblock k pa).poison = s.poison := rfl
@[simp] theorem State.unblock_requests (s : State) (k pa : Nat) : (s.unblock k pa).requests = s.requests := rfl
@[simp] theorem State.unblock_queued (s : State) (k pa : Nat) : (s.unblock k pa).queued = s.queued := rfl
@[simp] theorem State.unblock_reads (s : State) (k pa : Nat) : (s.unblock k pa).reads = s.reads := rfl
@[simp] theorem State.unblock_packets (s : State) (k pa : Nat) : (s.unblock k pa).packets = s.packets := rfl
@[simp] theorem State.unblock_podArrivals (s : State) (k pa : Nat) : (s.unblock k pa).podArrivals = s.podArrivals := rfl
@[simp] theorem State.unblock_podSent (s : State) (k pa : Nat) : (s.unblock k pa).podSent = s.podSent := rfl
@[simp] theorem State.unblock_tasks (s : State) (k pa : Nat) : (s.unblock k pa).tasks = s.tasks := rfl
@[simp] theorem State.unblock_nextUid (s : State) (k pa : Nat) : (s.unblock k pa).nextUid = s.nextUid := rfl
@[simp] theorem State.unblock_cores (s : State) (k pa : Nat) : (s.unblock k pa).cores = s.cores := rfl
@[simp] theorem State.unblock_quads (s : State) (k pa : Nat) : (s.unblock k pa).quads = s.quads := rfl
@[simp] theorem State.unblock_parts (s : State) (k pa : Nat) : (s.unblock k pa).parts = s.parts := rfl
@[simp] theorem State.unblock_ctxs (s : State) (k pa : Nat) : (s.unblock k pa).ctxs = s.ctxs := rfl
@[simp] theorem State.unblock_launches (s : State) (k pa : Nat) : (s.unblock k pa).launches = s.launches := rfl
@[simp] theorem State.unblock_posts (s : State) (k pa : Nat) : (s.unblock k pa).posts = s.posts := rfl
@[simp] theorem State.unblock_doms (s : State) (k pa : Nat) : (s.unblock k pa).doms = s.doms := rfl
@[simp] theorem State.unblock_exchanges (s : State) (k pa : Nat) : (s.unblock k pa).exchanges = s.exchanges := rfl
@[simp] theorem State.unblock_nextExchange (s : State) (k pa : Nat) :
    (s.unblock k pa).nextExchange = s.nextExchange := rfl
@[simp] theorem State.unblock_confirms (s : State) (k pa : Nat) : (s.unblock k pa).confirms = s.confirms := rfl
@[simp] theorem State.unblock_answers (s : State) (k pa : Nat) : (s.unblock k pa).answers = s.answers := rfl
@[simp] theorem State.unblock_fab (s : State) (k pa : Nat) : (s.unblock k pa).fab = s.fab := rfl
@[simp] theorem State.unblock_hosts (s : State) (k pa : Nat) : (s.unblock k pa).hosts = s.hosts := rfl
@[simp] theorem State.unblock_svc (s : State) (k pa : Nat) : (s.unblock k pa).svc = s.svc := rfl

/-! `enqueue` changes `dies` alone. -/
@[simp] theorem State.enqueue_agenda (s : State) (d : Nat) (e : QEntry) : (s.enqueue d e).agenda = s.agenda := rfl
@[simp] theorem State.enqueue_turn (s : State) (d : Nat) (e : QEntry) : (s.enqueue d e).turn = s.turn := rfl
@[simp] theorem State.enqueue_fresh (s : State) (d : Nat) (e : QEntry) : (s.enqueue d e).fresh = s.fresh := rfl
@[simp] theorem State.enqueue_clock (s : State) (d : Nat) (e : QEntry) : (s.enqueue d e).clock = s.clock := rfl
@[simp] theorem State.enqueue_mem (s : State) (d : Nat) (e : QEntry) : (s.enqueue d e).mem = s.mem := rfl
@[simp] theorem State.enqueue_past (s : State) (d : Nat) (e : QEntry) : (s.enqueue d e).past = s.past := rfl
@[simp] theorem State.enqueue_hostMem (s : State) (d : Nat) (e : QEntry) : (s.enqueue d e).hostMem = s.hostMem := rfl
@[simp] theorem State.enqueue_tags (s : State) (d : Nat) (e : QEntry) : (s.enqueue d e).tags = s.tags := rfl
@[simp] theorem State.enqueue_flips (s : State) (d : Nat) (e : QEntry) : (s.enqueue d e).flips = s.flips := rfl
@[simp] theorem State.enqueue_poison (s : State) (d : Nat) (e : QEntry) : (s.enqueue d e).poison = s.poison := rfl
@[simp] theorem State.enqueue_requests (s : State) (d : Nat) (e : QEntry) : (s.enqueue d e).requests = s.requests := rfl
@[simp] theorem State.enqueue_queued (s : State) (d : Nat) (e : QEntry) : (s.enqueue d e).queued = s.queued := rfl
@[simp] theorem State.enqueue_reads (s : State) (d : Nat) (e : QEntry) : (s.enqueue d e).reads = s.reads := rfl
@[simp] theorem State.enqueue_packets (s : State) (d : Nat) (e : QEntry) : (s.enqueue d e).packets = s.packets := rfl
@[simp] theorem State.enqueue_podArrivals (s : State) (d : Nat) (e : QEntry) :
    (s.enqueue d e).podArrivals = s.podArrivals := rfl
@[simp] theorem State.enqueue_podSent (s : State) (d : Nat) (e : QEntry) : (s.enqueue d e).podSent = s.podSent := rfl
@[simp] theorem State.enqueue_tasks (s : State) (d : Nat) (e : QEntry) : (s.enqueue d e).tasks = s.tasks := rfl
@[simp] theorem State.enqueue_nextUid (s : State) (d : Nat) (e : QEntry) : (s.enqueue d e).nextUid = s.nextUid := rfl
@[simp] theorem State.enqueue_cores (s : State) (d : Nat) (e : QEntry) : (s.enqueue d e).cores = s.cores := rfl
@[simp] theorem State.enqueue_quads (s : State) (d : Nat) (e : QEntry) : (s.enqueue d e).quads = s.quads := rfl
@[simp] theorem State.enqueue_parts (s : State) (d : Nat) (e : QEntry) : (s.enqueue d e).parts = s.parts := rfl
@[simp] theorem State.enqueue_ctxs (s : State) (d : Nat) (e : QEntry) : (s.enqueue d e).ctxs = s.ctxs := rfl
@[simp] theorem State.enqueue_launches (s : State) (d : Nat) (e : QEntry) : (s.enqueue d e).launches = s.launches := rfl
@[simp] theorem State.enqueue_posts (s : State) (d : Nat) (e : QEntry) : (s.enqueue d e).posts = s.posts := rfl
@[simp] theorem State.enqueue_doms (s : State) (d : Nat) (e : QEntry) : (s.enqueue d e).doms = s.doms := rfl
@[simp] theorem State.enqueue_exchanges (s : State) (d : Nat) (e : QEntry) :
    (s.enqueue d e).exchanges = s.exchanges := rfl
@[simp] theorem State.enqueue_nextExchange (s : State) (d : Nat) (e : QEntry) :
    (s.enqueue d e).nextExchange = s.nextExchange := rfl
@[simp] theorem State.enqueue_confirms (s : State) (d : Nat) (e : QEntry) : (s.enqueue d e).confirms = s.confirms := rfl
@[simp] theorem State.enqueue_answers (s : State) (d : Nat) (e : QEntry) : (s.enqueue d e).answers = s.answers := rfl
@[simp] theorem State.enqueue_fab (s : State) (d : Nat) (e : QEntry) : (s.enqueue d e).fab = s.fab := rfl
@[simp] theorem State.enqueue_hosts (s : State) (d : Nat) (e : QEntry) : (s.enqueue d e).hosts = s.hosts := rfl
@[simp] theorem State.enqueue_svc (s : State) (d : Nat) (e : QEntry) : (s.enqueue d e).svc = s.svc := rfl

/-! `modTask` changes `tasks` alone. -/
@[simp] theorem State.modTask_agenda (s : State) (u : Nat) (f : Task → Task) : (s.modTask u f).agenda = s.agenda := rfl
@[simp] theorem State.modTask_turn (s : State) (u : Nat) (f : Task → Task) : (s.modTask u f).turn = s.turn := rfl
@[simp] theorem State.modTask_fresh (s : State) (u : Nat) (f : Task → Task) : (s.modTask u f).fresh = s.fresh := rfl
@[simp] theorem State.modTask_clock (s : State) (u : Nat) (f : Task → Task) : (s.modTask u f).clock = s.clock := rfl
@[simp] theorem State.modTask_mem (s : State) (u : Nat) (f : Task → Task) : (s.modTask u f).mem = s.mem := rfl
@[simp] theorem State.modTask_past (s : State) (u : Nat) (f : Task → Task) : (s.modTask u f).past = s.past := rfl
@[simp] theorem State.modTask_hostMem (s : State) (u : Nat) (f : Task → Task) :
    (s.modTask u f).hostMem = s.hostMem := rfl
@[simp] theorem State.modTask_tags (s : State) (u : Nat) (f : Task → Task) : (s.modTask u f).tags = s.tags := rfl
@[simp] theorem State.modTask_flips (s : State) (u : Nat) (f : Task → Task) : (s.modTask u f).flips = s.flips := rfl
@[simp] theorem State.modTask_poison (s : State) (u : Nat) (f : Task → Task) : (s.modTask u f).poison = s.poison := rfl
@[simp] theorem State.modTask_requests (s : State) (u : Nat) (f : Task → Task) :
    (s.modTask u f).requests = s.requests := rfl
@[simp] theorem State.modTask_queued (s : State) (u : Nat) (f : Task → Task) : (s.modTask u f).queued = s.queued := rfl
@[simp] theorem State.modTask_reads (s : State) (u : Nat) (f : Task → Task) : (s.modTask u f).reads = s.reads := rfl
@[simp] theorem State.modTask_packets (s : State) (u : Nat) (f : Task → Task) :
    (s.modTask u f).packets = s.packets := rfl
@[simp] theorem State.modTask_podArrivals (s : State) (u : Nat) (f : Task → Task) :
    (s.modTask u f).podArrivals = s.podArrivals := rfl
@[simp] theorem State.modTask_podSent (s : State) (u : Nat) (f : Task → Task) :
    (s.modTask u f).podSent = s.podSent := rfl
@[simp] theorem State.modTask_nextUid (s : State) (u : Nat) (f : Task → Task) :
    (s.modTask u f).nextUid = s.nextUid := rfl
@[simp] theorem State.modTask_cores (s : State) (u : Nat) (f : Task → Task) : (s.modTask u f).cores = s.cores := rfl
@[simp] theorem State.modTask_quads (s : State) (u : Nat) (f : Task → Task) : (s.modTask u f).quads = s.quads := rfl
@[simp] theorem State.modTask_dies (s : State) (u : Nat) (f : Task → Task) : (s.modTask u f).dies = s.dies := rfl
@[simp] theorem State.modTask_parts (s : State) (u : Nat) (f : Task → Task) : (s.modTask u f).parts = s.parts := rfl
@[simp] theorem State.modTask_ctxs (s : State) (u : Nat) (f : Task → Task) : (s.modTask u f).ctxs = s.ctxs := rfl
@[simp] theorem State.modTask_launches (s : State) (u : Nat) (f : Task → Task) :
    (s.modTask u f).launches = s.launches := rfl
@[simp] theorem State.modTask_posts (s : State) (u : Nat) (f : Task → Task) : (s.modTask u f).posts = s.posts := rfl
@[simp] theorem State.modTask_doms (s : State) (u : Nat) (f : Task → Task) : (s.modTask u f).doms = s.doms := rfl
@[simp] theorem State.modTask_exchanges (s : State) (u : Nat) (f : Task → Task) :
    (s.modTask u f).exchanges = s.exchanges := rfl
@[simp] theorem State.modTask_nextExchange (s : State) (u : Nat) (f : Task → Task) :
    (s.modTask u f).nextExchange = s.nextExchange := rfl
@[simp] theorem State.modTask_confirms (s : State) (u : Nat) (f : Task → Task) :
    (s.modTask u f).confirms = s.confirms := rfl
@[simp] theorem State.modTask_answers (s : State) (u : Nat) (f : Task → Task) :
    (s.modTask u f).answers = s.answers := rfl
@[simp] theorem State.modTask_fab (s : State) (u : Nat) (f : Task → Task) : (s.modTask u f).fab = s.fab := rfl
@[simp] theorem State.modTask_hosts (s : State) (u : Nat) (f : Task → Task) : (s.modTask u f).hosts = s.hosts := rfl
@[simp] theorem State.modTask_svc (s : State) (u : Nat) (f : Task → Task) : (s.modTask u f).svc = s.svc := rfl

/-! `poke` changes `mem`, `flips` and `poison` alone. -/
@[simp] theorem State.poke_agenda (s : State) (a : Nat) (bs : List Byte) : (s.poke a bs).agenda = s.agenda := rfl
@[simp] theorem State.poke_turn (s : State) (a : Nat) (bs : List Byte) : (s.poke a bs).turn = s.turn := rfl
@[simp] theorem State.poke_fresh (s : State) (a : Nat) (bs : List Byte) : (s.poke a bs).fresh = s.fresh := rfl
@[simp] theorem State.poke_clock (s : State) (a : Nat) (bs : List Byte) : (s.poke a bs).clock = s.clock := rfl
@[simp] theorem State.poke_past (s : State) (a : Nat) (bs : List Byte) : (s.poke a bs).past = s.past := rfl
@[simp] theorem State.poke_hostMem (s : State) (a : Nat) (bs : List Byte) : (s.poke a bs).hostMem = s.hostMem := rfl
@[simp] theorem State.poke_tags (s : State) (a : Nat) (bs : List Byte) : (s.poke a bs).tags = s.tags := rfl
@[simp] theorem State.poke_requests (s : State) (a : Nat) (bs : List Byte) : (s.poke a bs).requests = s.requests := rfl
@[simp] theorem State.poke_queued (s : State) (a : Nat) (bs : List Byte) : (s.poke a bs).queued = s.queued := rfl
@[simp] theorem State.poke_reads (s : State) (a : Nat) (bs : List Byte) : (s.poke a bs).reads = s.reads := rfl
@[simp] theorem State.poke_packets (s : State) (a : Nat) (bs : List Byte) : (s.poke a bs).packets = s.packets := rfl
@[simp] theorem State.poke_podArrivals (s : State) (a : Nat) (bs : List Byte) :
    (s.poke a bs).podArrivals = s.podArrivals := rfl
@[simp] theorem State.poke_podSent (s : State) (a : Nat) (bs : List Byte) : (s.poke a bs).podSent = s.podSent := rfl
@[simp] theorem State.poke_tasks (s : State) (a : Nat) (bs : List Byte) : (s.poke a bs).tasks = s.tasks := rfl
@[simp] theorem State.poke_nextUid (s : State) (a : Nat) (bs : List Byte) : (s.poke a bs).nextUid = s.nextUid := rfl
@[simp] theorem State.poke_cores (s : State) (a : Nat) (bs : List Byte) : (s.poke a bs).cores = s.cores := rfl
@[simp] theorem State.poke_quads (s : State) (a : Nat) (bs : List Byte) : (s.poke a bs).quads = s.quads := rfl
@[simp] theorem State.poke_dies (s : State) (a : Nat) (bs : List Byte) : (s.poke a bs).dies = s.dies := rfl
@[simp] theorem State.poke_parts (s : State) (a : Nat) (bs : List Byte) : (s.poke a bs).parts = s.parts := rfl
@[simp] theorem State.poke_ctxs (s : State) (a : Nat) (bs : List Byte) : (s.poke a bs).ctxs = s.ctxs := rfl
@[simp] theorem State.poke_launches (s : State) (a : Nat) (bs : List Byte) : (s.poke a bs).launches = s.launches := rfl
@[simp] theorem State.poke_posts (s : State) (a : Nat) (bs : List Byte) : (s.poke a bs).posts = s.posts := rfl
@[simp] theorem State.poke_doms (s : State) (a : Nat) (bs : List Byte) : (s.poke a bs).doms = s.doms := rfl
@[simp] theorem State.poke_exchanges (s : State) (a : Nat) (bs : List Byte) :
    (s.poke a bs).exchanges = s.exchanges := rfl
@[simp] theorem State.poke_nextExchange (s : State) (a : Nat) (bs : List Byte) :
    (s.poke a bs).nextExchange = s.nextExchange := rfl
@[simp] theorem State.poke_confirms (s : State) (a : Nat) (bs : List Byte) : (s.poke a bs).confirms = s.confirms := rfl
@[simp] theorem State.poke_answers (s : State) (a : Nat) (bs : List Byte) : (s.poke a bs).answers = s.answers := rfl
@[simp] theorem State.poke_fab (s : State) (a : Nat) (bs : List Byte) : (s.poke a bs).fab = s.fab := rfl
@[simp] theorem State.poke_hosts (s : State) (a : Nat) (bs : List Byte) : (s.poke a bs).hosts = s.hosts := rfl
@[simp] theorem State.poke_svc (s : State) (a : Nat) (bs : List Byte) : (s.poke a bs).svc = s.svc := rfl

/-! `write` changes `mem`, `flips`, `poison` and `past` alone. -/
@[simp] theorem State.write_agenda (s : State) (w : Writer) (a : Nat) (bs : List Byte) :
    (s.write w a bs).agenda = s.agenda := rfl
@[simp] theorem State.write_turn (s : State) (w : Writer) (a : Nat) (bs : List Byte) :
    (s.write w a bs).turn = s.turn := rfl
@[simp] theorem State.write_fresh (s : State) (w : Writer) (a : Nat) (bs : List Byte) :
    (s.write w a bs).fresh = s.fresh := rfl
@[simp] theorem State.write_clock (s : State) (w : Writer) (a : Nat) (bs : List Byte) :
    (s.write w a bs).clock = s.clock := rfl
@[simp] theorem State.write_hostMem (s : State) (w : Writer) (a : Nat) (bs : List Byte) :
    (s.write w a bs).hostMem = s.hostMem := rfl
@[simp] theorem State.write_tags (s : State) (w : Writer) (a : Nat) (bs : List Byte) :
    (s.write w a bs).tags = s.tags := rfl
@[simp] theorem State.write_requests (s : State) (w : Writer) (a : Nat) (bs : List Byte) :
    (s.write w a bs).requests = s.requests := rfl
@[simp] theorem State.write_queued (s : State) (w : Writer) (a : Nat) (bs : List Byte) :
    (s.write w a bs).queued = s.queued := rfl
@[simp] theorem State.write_reads (s : State) (w : Writer) (a : Nat) (bs : List Byte) :
    (s.write w a bs).reads = s.reads := rfl
@[simp] theorem State.write_packets (s : State) (w : Writer) (a : Nat) (bs : List Byte) :
    (s.write w a bs).packets = s.packets := rfl
@[simp] theorem State.write_podArrivals (s : State) (w : Writer) (a : Nat) (bs : List Byte) :
    (s.write w a bs).podArrivals = s.podArrivals := rfl
@[simp] theorem State.write_podSent (s : State) (w : Writer) (a : Nat) (bs : List Byte) :
    (s.write w a bs).podSent = s.podSent := rfl
@[simp] theorem State.write_tasks (s : State) (w : Writer) (a : Nat) (bs : List Byte) :
    (s.write w a bs).tasks = s.tasks := rfl
@[simp] theorem State.write_nextUid (s : State) (w : Writer) (a : Nat) (bs : List Byte) :
    (s.write w a bs).nextUid = s.nextUid := rfl
@[simp] theorem State.write_cores (s : State) (w : Writer) (a : Nat) (bs : List Byte) :
    (s.write w a bs).cores = s.cores := rfl
@[simp] theorem State.write_quads (s : State) (w : Writer) (a : Nat) (bs : List Byte) :
    (s.write w a bs).quads = s.quads := rfl
@[simp] theorem State.write_dies (s : State) (w : Writer) (a : Nat) (bs : List Byte) :
    (s.write w a bs).dies = s.dies := rfl
@[simp] theorem State.write_parts (s : State) (w : Writer) (a : Nat) (bs : List Byte) :
    (s.write w a bs).parts = s.parts := rfl
@[simp] theorem State.write_ctxs (s : State) (w : Writer) (a : Nat) (bs : List Byte) :
    (s.write w a bs).ctxs = s.ctxs := rfl
@[simp] theorem State.write_launches (s : State) (w : Writer) (a : Nat) (bs : List Byte) :
    (s.write w a bs).launches = s.launches := rfl
@[simp] theorem State.write_posts (s : State) (w : Writer) (a : Nat) (bs : List Byte) :
    (s.write w a bs).posts = s.posts := rfl
@[simp] theorem State.write_doms (s : State) (w : Writer) (a : Nat) (bs : List Byte) :
    (s.write w a bs).doms = s.doms := rfl
@[simp] theorem State.write_exchanges (s : State) (w : Writer) (a : Nat) (bs : List Byte) :
    (s.write w a bs).exchanges = s.exchanges := rfl
@[simp] theorem State.write_nextExchange (s : State) (w : Writer) (a : Nat) (bs : List Byte) :
    (s.write w a bs).nextExchange = s.nextExchange := rfl
@[simp] theorem State.write_confirms (s : State) (w : Writer) (a : Nat) (bs : List Byte) :
    (s.write w a bs).confirms = s.confirms := rfl
@[simp] theorem State.write_answers (s : State) (w : Writer) (a : Nat) (bs : List Byte) :
    (s.write w a bs).answers = s.answers := rfl
@[simp] theorem State.write_fab (s : State) (w : Writer) (a : Nat) (bs : List Byte) :
    (s.write w a bs).fab = s.fab := rfl
@[simp] theorem State.write_hosts (s : State) (w : Writer) (a : Nat) (bs : List Byte) :
    (s.write w a bs).hosts = s.hosts := rfl
@[simp] theorem State.write_svc (s : State) (w : Writer) (a : Nat) (bs : List Byte) :
    (s.write w a bs).svc = s.svc := rfl

/-! `divert` changes `cores` alone. -/
@[simp] theorem State.divert_agenda (s : State) (ci : Nat) (d : Diverted) : (s.divert ci d).agenda = s.agenda := rfl
@[simp] theorem State.divert_turn (s : State) (ci : Nat) (d : Diverted) : (s.divert ci d).turn = s.turn := rfl
@[simp] theorem State.divert_fresh (s : State) (ci : Nat) (d : Diverted) : (s.divert ci d).fresh = s.fresh := rfl
@[simp] theorem State.divert_clock (s : State) (ci : Nat) (d : Diverted) : (s.divert ci d).clock = s.clock := rfl
@[simp] theorem State.divert_mem (s : State) (ci : Nat) (d : Diverted) : (s.divert ci d).mem = s.mem := rfl
@[simp] theorem State.divert_past (s : State) (ci : Nat) (d : Diverted) : (s.divert ci d).past = s.past := rfl
@[simp] theorem State.divert_hostMem (s : State) (ci : Nat) (d : Diverted) : (s.divert ci d).hostMem = s.hostMem := rfl
@[simp] theorem State.divert_tags (s : State) (ci : Nat) (d : Diverted) : (s.divert ci d).tags = s.tags := rfl
@[simp] theorem State.divert_flips (s : State) (ci : Nat) (d : Diverted) : (s.divert ci d).flips = s.flips := rfl
@[simp] theorem State.divert_poison (s : State) (ci : Nat) (d : Diverted) : (s.divert ci d).poison = s.poison := rfl
@[simp] theorem State.divert_requests (s : State) (ci : Nat) (d : Diverted) :
    (s.divert ci d).requests = s.requests := rfl
@[simp] theorem State.divert_queued (s : State) (ci : Nat) (d : Diverted) : (s.divert ci d).queued = s.queued := rfl
@[simp] theorem State.divert_reads (s : State) (ci : Nat) (d : Diverted) : (s.divert ci d).reads = s.reads := rfl
@[simp] theorem State.divert_packets (s : State) (ci : Nat) (d : Diverted) : (s.divert ci d).packets = s.packets := rfl
@[simp] theorem State.divert_podArrivals (s : State) (ci : Nat) (d : Diverted) :
    (s.divert ci d).podArrivals = s.podArrivals := rfl
@[simp] theorem State.divert_podSent (s : State) (ci : Nat) (d : Diverted) : (s.divert ci d).podSent = s.podSent := rfl
@[simp] theorem State.divert_tasks (s : State) (ci : Nat) (d : Diverted) : (s.divert ci d).tasks = s.tasks := rfl
@[simp] theorem State.divert_nextUid (s : State) (ci : Nat) (d : Diverted) : (s.divert ci d).nextUid = s.nextUid := rfl
@[simp] theorem State.divert_quads (s : State) (ci : Nat) (d : Diverted) : (s.divert ci d).quads = s.quads := rfl
@[simp] theorem State.divert_dies (s : State) (ci : Nat) (d : Diverted) : (s.divert ci d).dies = s.dies := rfl
@[simp] theorem State.divert_parts (s : State) (ci : Nat) (d : Diverted) : (s.divert ci d).parts = s.parts := rfl
@[simp] theorem State.divert_ctxs (s : State) (ci : Nat) (d : Diverted) : (s.divert ci d).ctxs = s.ctxs := rfl
@[simp] theorem State.divert_launches (s : State) (ci : Nat) (d : Diverted) :
    (s.divert ci d).launches = s.launches := rfl
@[simp] theorem State.divert_posts (s : State) (ci : Nat) (d : Diverted) : (s.divert ci d).posts = s.posts := rfl
@[simp] theorem State.divert_doms (s : State) (ci : Nat) (d : Diverted) : (s.divert ci d).doms = s.doms := rfl
@[simp] theorem State.divert_exchanges (s : State) (ci : Nat) (d : Diverted) :
    (s.divert ci d).exchanges = s.exchanges := rfl
@[simp] theorem State.divert_nextExchange (s : State) (ci : Nat) (d : Diverted) :
    (s.divert ci d).nextExchange = s.nextExchange := rfl
@[simp] theorem State.divert_confirms (s : State) (ci : Nat) (d : Diverted) :
    (s.divert ci d).confirms = s.confirms := rfl
@[simp] theorem State.divert_answers (s : State) (ci : Nat) (d : Diverted) : (s.divert ci d).answers = s.answers := rfl
@[simp] theorem State.divert_fab (s : State) (ci : Nat) (d : Diverted) : (s.divert ci d).fab = s.fab := rfl
@[simp] theorem State.divert_hosts (s : State) (ci : Nat) (d : Diverted) : (s.divert ci d).hosts = s.hosts := rfl
@[simp] theorem State.divert_svc (s : State) (ci : Nat) (d : Diverted) : (s.divert ci d).svc = s.svc := rfl

/-! `mark` changes `doms` alone. -/
@[simp] theorem State.mark_agenda (s : State) (c i x : Nat) : (s.mark c i x).agenda = s.agenda := rfl
@[simp] theorem State.mark_turn (s : State) (c i x : Nat) : (s.mark c i x).turn = s.turn := rfl
@[simp] theorem State.mark_fresh (s : State) (c i x : Nat) : (s.mark c i x).fresh = s.fresh := rfl
@[simp] theorem State.mark_clock (s : State) (c i x : Nat) : (s.mark c i x).clock = s.clock := rfl
@[simp] theorem State.mark_mem (s : State) (c i x : Nat) : (s.mark c i x).mem = s.mem := rfl
@[simp] theorem State.mark_past (s : State) (c i x : Nat) : (s.mark c i x).past = s.past := rfl
@[simp] theorem State.mark_hostMem (s : State) (c i x : Nat) : (s.mark c i x).hostMem = s.hostMem := rfl
@[simp] theorem State.mark_tags (s : State) (c i x : Nat) : (s.mark c i x).tags = s.tags := rfl
@[simp] theorem State.mark_flips (s : State) (c i x : Nat) : (s.mark c i x).flips = s.flips := rfl
@[simp] theorem State.mark_poison (s : State) (c i x : Nat) : (s.mark c i x).poison = s.poison := rfl
@[simp] theorem State.mark_requests (s : State) (c i x : Nat) : (s.mark c i x).requests = s.requests := rfl
@[simp] theorem State.mark_queued (s : State) (c i x : Nat) : (s.mark c i x).queued = s.queued := rfl
@[simp] theorem State.mark_reads (s : State) (c i x : Nat) : (s.mark c i x).reads = s.reads := rfl
@[simp] theorem State.mark_packets (s : State) (c i x : Nat) : (s.mark c i x).packets = s.packets := rfl
@[simp] theorem State.mark_podArrivals (s : State) (c i x : Nat) : (s.mark c i x).podArrivals = s.podArrivals := rfl
@[simp] theorem State.mark_podSent (s : State) (c i x : Nat) : (s.mark c i x).podSent = s.podSent := rfl
@[simp] theorem State.mark_tasks (s : State) (c i x : Nat) : (s.mark c i x).tasks = s.tasks := rfl
@[simp] theorem State.mark_nextUid (s : State) (c i x : Nat) : (s.mark c i x).nextUid = s.nextUid := rfl
@[simp] theorem State.mark_cores (s : State) (c i x : Nat) : (s.mark c i x).cores = s.cores := rfl
@[simp] theorem State.mark_quads (s : State) (c i x : Nat) : (s.mark c i x).quads = s.quads := rfl
@[simp] theorem State.mark_dies (s : State) (c i x : Nat) : (s.mark c i x).dies = s.dies := rfl
@[simp] theorem State.mark_parts (s : State) (c i x : Nat) : (s.mark c i x).parts = s.parts := rfl
@[simp] theorem State.mark_ctxs (s : State) (c i x : Nat) : (s.mark c i x).ctxs = s.ctxs := rfl
@[simp] theorem State.mark_launches (s : State) (c i x : Nat) : (s.mark c i x).launches = s.launches := rfl
@[simp] theorem State.mark_posts (s : State) (c i x : Nat) : (s.mark c i x).posts = s.posts := rfl
@[simp] theorem State.mark_exchanges (s : State) (c i x : Nat) : (s.mark c i x).exchanges = s.exchanges := rfl
@[simp] theorem State.mark_nextExchange (s : State) (c i x : Nat) : (s.mark c i x).nextExchange = s.nextExchange := rfl
@[simp] theorem State.mark_confirms (s : State) (c i x : Nat) : (s.mark c i x).confirms = s.confirms := rfl
@[simp] theorem State.mark_answers (s : State) (c i x : Nat) : (s.mark c i x).answers = s.answers := rfl
@[simp] theorem State.mark_fab (s : State) (c i x : Nat) : (s.mark c i x).fab = s.fab := rfl
@[simp] theorem State.mark_hosts (s : State) (c i x : Nat) : (s.mark c i x).hosts = s.hosts := rfl
@[simp] theorem State.mark_svc (s : State) (c i x : Nat) : (s.mark c i x).svc = s.svc := rfl

@[simp] theorem State.core_setCore_same (s : State) (ci : Nat) (c : Core) : (s.setCore ci c).core ci = c :=
  Sparse.read_write_same _ _ _ _

@[simp] theorem State.core_setCore_other (s : State) {ci j : Nat} (c : Core) (h : j ≠ ci) :
    (s.setCore ci c).core j = s.core j := Sparse.read_write_other _ _ _ h

@[simp] theorem State.quad_setQuad_same (s : State) (qi : Nat) (q : Quad) : (s.setQuad qi q).quad qi = q :=
  Sparse.read_write_same _ _ _ _

@[simp] theorem State.quad_setQuad_other (s : State) {qi j : Nat} (q : Quad) (h : j ≠ qi) :
    (s.setQuad qi q).quad j = s.quad j := Sparse.read_write_other _ _ _ h

@[simp] theorem State.die_setDie_same (s : State) (d : Nat) (x : Die) : (s.setDie d x).die d = x :=
  Sparse.read_write_same _ _ _ _

@[simp] theorem State.die_setDie_other (s : State) {d j : Nat} (x : Die) (h : j ≠ d) :
    (s.setDie d x).die j = s.die j := Sparse.read_write_other _ _ _ h

@[simp] theorem State.part_setPart_same (s : State) (p : Nat) (x : Part) : (s.setPart p x).part p = x :=
  Sparse.read_write_same _ _ _ _

@[simp] theorem State.part_setPart_other (s : State) {p j : Nat} (x : Part) (h : j ≠ p) :
    (s.setPart p x).part j = s.part j := Sparse.read_write_other _ _ _ h

@[simp] theorem State.ctx_setCtx_same (s : State) (c : Nat) (x : Ctx) : (s.setCtx c x).ctx c = x :=
  Sparse.read_write_same _ _ _ _

@[simp] theorem State.ctx_setCtx_other (s : State) {c j : Nat} (x : Ctx) (h : j ≠ c) :
    (s.setCtx c x).ctx j = s.ctx j := Sparse.read_write_other _ _ _ h

@[simp] theorem State.hostCore_setHostCore_same (s : State) (c : Nat) (h : HostCore) :
    (s.setHostCore c h).hostCore c = h :=
  Sparse.read_write_same _ _ _ _

@[simp] theorem State.hostCore_setHostCore_other (s : State) {c j : Nat} (x : HostCore) (h : j ≠ c) :
    (s.setHostCore c x).hostCore j = s.hostCore j := Sparse.read_write_other _ _ _ h

end Sys2Proof.Machine
end

