-- ==== Sys2Proof/Laws/Tasks.lean ====
section
/-! SUPPORT. What the shared operations over the issuing task do, for use in place of their definitions. -/

namespace Sys2Proof.Machine

/-- An instruction acts on the task that runs on the core of the turn. -/
theorem withTask_run (s : State) (t : Task) (f : Task → Out State) (h : s.current = some t) : withTask s f = f t := by
  simp [withTask, h]

/-- An instruction on a core that runs no task stops. -/
theorem withTask_none (s : State) (f : Task → Out State) (h : s.current = none) :
    withTask s f = .fault .noRunningTask := by
  simp [withTask, h]

theorem writeG_run (s : State) (t : Task) (d : GReg) (f : Task → Word) (h : s.current = some t) :
    writeG s d f = complete s (t.setG d (f t)) := withTask_run s t _ h

theorem writeP_run (s : State) (t : Task) (p : Reg3) (f : Task → Bool) (h : s.current = some t) :
    writeP s p f = complete s (t.setP p (f t)) := withTask_run s t _ h

theorem writeF_run (s : State) (t : Task) (d : GReg) (f : Task → Rounded) (h : s.current = some t) :
    writeF s d f = complete s ((t.setG d (BitVec.ofNat 64 (f t).bits)).raise (f t).flags) := withTask_run s t _ h

/-- A conversion either completes with its result and flags or traps with CONVOVF. -/
theorem convert_run (s : State) (t : Task) (d : GReg) (f : Task → Converted) (w : Nat → Word)
    (h : s.current = some t) :
    convert s d f w = match f t with
      | some (v, fl) => complete s ((t.setG d (w v)).raise fl)
      | none => trap s t causeConvovf := withTask_run s t _ h

/-- `g0` reads zero. -/
@[simp] theorem Task.greg_zero (t : Task) : t.greg 0 = 0 := rfl

/-- A write of `g0` is discarded. -/
@[simp] theorem Task.setG_zero (t : Task) (v : Word) : t.setG 0 v = t := rfl

/-- A written register reads back. -/
theorem Task.greg_setG_same (t : Task) (d : GReg) (v : Word) (h : d ≠ 0) : (t.setG d v).greg d = v := by
  unfold Task.greg Task.setG
  rw [if_neg h, if_neg h]
  exact Vector.getElem_set_self ..

/-- A write leaves every other register alone. -/
theorem Task.greg_setG_other (t : Task) {d e : GReg} (v : Word) (h : e ≠ d) : (t.setG d v).greg e = t.greg e := by
  unfold Task.greg Task.setG
  by_cases he : e = 0
  · rw [if_pos he, if_pos he]
  · by_cases hd : d = 0
    · rw [if_pos hd]
    · have hn : d.toNat ≠ e.toNat := fun hx => h (BitVec.eq_of_toNat_eq hx.symm)
      rw [if_neg he, if_neg he, if_neg hd]
      exact Vector.getElem_set_ne d.isLt e.isLt hn

/-- What a trap comes to: the end of a task without a handler or within one, else its handler. -/
theorem trap_cases (s : State) (t : Task) (c : BitVec 8) :
    (trap s t c = .next (s.softwareError t c) ∧ (t.hnd = true ∨ t.trapv = 0)) ∨
    (trap s t c = .next ((s.dissolve t.uid).putTask { t.enterHandler c with gang := none }) ∧ t.hnd = false ∧ t.trapv ≠ 0) := by
  unfold trap
  by_cases h : (t.hnd || t.trapv = 0) = true
  · exact .inl ⟨if_pos h, by simpa using h⟩
  · exact .inr ⟨if_neg h, by simpa using h⟩

/-- A trap is always a next state. -/
theorem trap_next (s : State) (t : Task) (c : BitVec 8) : ∃ u, trap s t c = .next u := by
  rcases trap_cases s t c with h | h
  · exact ⟨_, h.1⟩
  · exact ⟨_, h.1⟩

/-- What a checked operand comes to. -/
theorem require_true (s : State) (t : Task) (k : Out State) : require s t true k = k := by simp [require]

theorem require_false (s : State) (t : Task) (k : Out State) : require s t false k = trap s t causeIllegal := by
  simp [require]

/-- A class with room lets its instruction go on. -/
theorem withRoom_room (s : State) (t : Task) (c : Class) (k : Out State) (h : t.full c = false) :
    withRoom s t c k = k := by simp [withRoom, h]

/-- A full class stalls issue. -/
theorem withRoom_full (s : State) (t : Task) (c : Class) (k : Out State) (h : t.full c = true) :
    withRoom s t c k = .next (s.stall t .none) := by simp [withRoom, h]

/-- A release goes on once what it covers has been accepted. -/
theorem releasing_released (s : State) (t : Task) (k : Out State) (h : s.released t = true) :
    releasing s t k = k := by simp [releasing, h]

/-- Until then it stalls issue. -/
theorem releasing_waits (s : State) (t : Task) (k : Out State) (h : s.released t = false) :
    releasing s t k = .next (s.stall t t.wait) := by simp [releasing, h]

/-- A fence goes on once the task's stores have been accepted, and stalls issue until then. -/
theorem draining_drained (s : State) (t : Task) (k : Out State) (h : s.ownDrained t = true) :
    draining s t k = k := by simp [draining, h]

theorem draining_waits (s : State) (t : Task) (k : Out State) (h : s.ownDrained t = false) :
    draining s t k = .next (s.stall t t.wait) := by simp [draining, h]

/-- What a release covers includes the task's own stores. -/
theorem State.ownDrained_of_released (s : State) (t : Task) (h : s.released t = true) : s.ownDrained t = true := by
  simp only [State.released, Bool.and_eq_true] at h
  exact h.1

/-- A task found after it was put in its place. -/
theorem State.task?_putTask (s : State) (t : Task) (h : (s.task? t.uid).isSome = true) :
    (s.putTask t).task? t.uid = some t := by
  unfold State.task? State.putTask at *
  generalize s.tasks = ts at h
  induction ts with
  | nil => simp at h
  | cons x xs ih =>
    by_cases hx : x.uid = t.uid
    · simp [hx]
    · have hb : (x.uid == t.uid) = false := by simpa using hx
      rw [List.find?_cons, hb] at h
      simpa [hx, hb] using ih h

/-- Other tasks stay as they are. -/
theorem State.task?_putTask_other (s : State) (t : Task) {u : Nat} (h : u ≠ t.uid) :
    (s.putTask t).task? u = s.task? u := by
  unfold State.task? State.putTask
  generalize s.tasks = ts
  induction ts with
  | nil => rfl
  | cons x xs ih =>
    by_cases hx : x.uid = t.uid
    · have h1 : ¬ t.uid = u := fun hc => h hc.symm
      simpa [hx, h1] using ih
    · by_cases hu : x.uid = u
      · simp [hu, h]
      · simpa [hx, hu] using ih

end Sys2Proof.Machine
end

