-- ==== Sys2Proof/Tests/Slice0.lean ====
section
/-! SUPPORT. Small tests: ill-formed terms that the checks refuse, words written out from the spec's encodings, single
steps on small states, and witnesses for the hypotheses of the statements. -/

namespace Sys2Proof.Tests

open Sys2Proof Sys2Proof.Machine

-- One test at a time: each holds a thread while the kernel evaluates it.
set_option Elab.async false

/-- The next state of an instruction or happening. -/
def after (i : Instr) (s : State) : Option State := match exec i s with
  | .next u => some u
  | _ => none

/-- A task on core 0 that runs at 0x40000 with a trap handler at 0x50000, `g1` = 5, `g2` = 7, `g3` = -2. -/
def worker : Task :=
  { uid := 1, sid := 0, status := .running, pc := 0x40000, trapv := 0x50000,
    g := (((Vector.replicate 32 0).set 1 5).set 2 7).set 3 0xFFFFFFFFFFFFFFFE }

/-- A state in which one task runs on core 0. -/
def alone (t : Task) : State := { State.reset with tasks := [t], cores := [(0, { running := some t.uid })] }

/-- Every check holds. -/
def every (l : List Bool) : Bool := l.all id

/-- The instruction completes, with the task as given. -/
def completes (i : Instr) (s : State) (t : Task) : Bool := after i s == some (s.putTask t.past)

/-- The instruction goes on at an address. -/
def goesTo (i : Instr) (s : State) (t : Task) (pc : Word) : Bool :=
  after i s == some (s.putTask { t with pc := pc, wait := .none })

/-- The instruction takes a trap. -/
def traps (i : Instr) (s : State) (t : Task) (c : BitVec 8) : Bool := after i s == some (trapState s t c)

/-- The instruction leads to a state. -/
def leads (i : Instr) (s : State) (f : State → Bool) : Bool := match after i s with
  | some u => f u
  | none => false

/-- A task that may read and write everything that is mapped. -/
def reader : Task := { worker with ranges := [⟨0, 2 ^ 40, true⟩] }

/-- Reset with the page table of `bootTable`: 0x40000 is an open page of this package, 0x50000 one of package 1. -/
def mapped : State :=
  ((State.bootTable State.reset).pokeNat 0x30020 8 (0x2C7 + 4 * 2 ^ 23)).pokeNat 0x30028 8 (0x7C7 + 5 * 2 ^ 23)

/-- One task runs on core 0 of `mapped`. -/
def home (t : Task) : State := { mapped with tasks := [t], cores := [(0, { running := some t.uid })] }

/-- The place that an access was given. -/
def at_ (c : State × Except Denied Loc) : Loc := c.2.toOption.getD ⟨9, 9, 9⟩

/-- Each check of WellFormed refuses a term: zero displacements, a loop on `g0`, pairs past the last register, a
conversion between equal types, one that rounds to zero into a float, and a policy on a widening conversion. -/
theorem test_wellformed_refuses :
    every [!Instr.WellFormed (.br 0), !Instr.WellFormed (.bp 1 false 0), !Instr.WellFormed (.bp 0 false 4),
      !Instr.WellFormed (.loop 0 4), !Instr.WellFormed (.cld 31 1 2), !Instr.WellFormed (.vcld 31 1 2 0),
      !Instr.WellFormed (.vgath 1 31 2 0 .w32), !Instr.WellFormed (.vscat 1 31 2 0 .w32),
      !Instr.WellFormed (.vscatc 1 30 2 0 .w32), !vcvtAdmits .sat false false .f32 .f32,
      !vcvtAdmits .sat true false .bf16 .f32, !vcvtAdmits .sat false true .bf16 .f32,
      !vcvtAdmits .inf false false .f32 .bf16] = true := by decide

/-- The scalar integer results of a task whose registers hold 5, 7 and -2 (04_scalar.md R102 to R108). -/
theorem test_scalar_results :
    let t := worker
    let s := alone t
    every [s.current == some t, completes (.add 4 1 2) s (t.setG 4 12), completes (.sub 4 1 2) s (t.setG 4 (-2)),
      completes (.andn 4 2 1) s (t.setG 4 2), completes (.minI64 4 1 3) s (t.setG 4 (-2)),
      completes (.minN64 4 1 3) s (t.setG 4 5), completes (.leaD 4 1 2) s (t.setG 4 61),
      completes (.addi 4 1 0xFFFF) s (t.setG 4 4), completes (.ori 4 0 0xFFFF) s (t.setG 4 0xFFFF),
      completes (.divI64 4 2 3) s (t.setG 4 (-3)), completes (.remI64 4 2 3) s (t.setG 4 1),
      completes (.divN64 4 1 0) s (t.setG 4 (-1)), completes (.remI64 4 1 0) s (t.setG 4 5),
      completes (.mulhI64 4 3 3) s (t.setG 4 0), completes (.mulhN64 4 3 3) s (t.setG 4 0xFFFFFFFFFFFFFFFC),
      completes (.shlImm 4 1 63) s (t.setG 4 0x8000000000000000), completes (.sar 4 3 3) s (t.setG 4 (-1)),
      completes (.clz 4 1) s (t.setG 4 61), completes (.ctz 4 0) s (t.setG 4 64), completes (.popc 4 3) s (t.setG 4 63),
      completes (.brev 4 1) s (t.setG 4 0xA000000000000000), completes (.add 0 1 2) s t] = true := by decide +kernel

/-- Compares and predicates (04_scalar.md R109, R110). -/
theorem test_predicates :
    let t := worker
    let s := alone t
    every [completes (.cmpltI64 1 3 1) s (t.setP 1 true), completes (.cmpltN64 1 3 1) s (t.setP 1 false),
      completes (.cmpltN64Imm 1 1 0x1F) s (t.setP 1 true), completes (.pnot 2 0) s (t.setP 2 false),
      completes (.pset 3) s { t with p := 0xFF }, completes (.pget 4) s (t.setG 4 1),
      completes (.cmpeq 0 1 2) s t] = true := by decide +kernel

/-- FP32 operands: 1.5 + 2 is 3.5, 1 / 0 raises DZ, a negative operand of `FSQRT` NV, 2.5 converts to 2, 1e10 to the largest
integer with SAT and NV, or traps with CONVOVF (04_scalar.md R111 to R116). -/
theorem test_fp32 :
    let t := ((((worker.setG 4 0x3FC00000).setG 5 0x40000000).setG 6 0x3F800000).setG 7 0xC0000000).setG 8 0x501502F9
    let s := alone t
    every [completes (.fadd 9 4 5) s (t.setG 9 0x40600000),
      completes (.fdiv 9 6 0) s { t.setG 9 0x7F800000 with fsr := 0x08 },
      completes (.fsqrt 9 7) s { t.setG 9 0x7FC00000 with fsr := 0x10 },
      completes (.fneg 9 7) s (t.setG 9 0x40000000), completes (.fcmplt 1 7 4) s (t.setP 1 true),
      completes (.fcvtiI32 9 5 .sat false) s (t.setG 9 2),
      completes (.fcvtiI32 9 8 .sat false) s { t.setG 9 0x7FFFFFFF with fsr := 0x30 },
      traps (.fcvtiI32 9 8 .trap false) s t 0x03, completes (.icvtfI64 9 3) s (t.setG 9 0xC0000000),
      completes (.fwidBf16 9 2) s { t.setG 9 0x00070000 with fsr := 0 }] = true := by decide +kernel

/-- Transfers: taken and not taken, `g0` as target, a misaligned target, a loop that ends (05_tasks.md R134 to R137). -/
theorem test_transfers :
    let t := worker
    let s := alone t
    every [goesTo (.br 0x3FFFFF) s t 0x3FFFC, goesTo (.bp 1 false 2) s t 0x40004, goesTo (.bp 1 true 2) s t 0x40008,
      goesTo (.bp 0 true 2) s t 0x40004, goesTo (.jal 4) s (t.setG 31 0x40004) 0x40010,
      goesTo (.jalr 4 2 0xFFFD) s (t.setG 4 0x40004) 4, traps (.jalr 4 2 0) s t 0x02, !t.follows,
      goesTo (.loop 1 0xFFFF) s (t.setG 1 4) 0x3FFFC,
      goesTo (.loop 0 4) s t 0x40004, goesTo (.loop 4 4) s t 0x40004] = true := by decide +kernel

/-- A trap enters its handler; without one, and within one, the task ends; a return goes on at EPC, and outside a handler
or at a misaligned EPC it traps (15_faults.md R379 to R383). -/
theorem test_traps :
    let t := { worker with hnd := true, epc := 0x40008, rep := some ⟨0x40008, [0], 0, 0, 1, 0, 0, false⟩ }
    let f : Frame := ⟨0x40008, [0], 0, 0, 1, 0, 0, true⟩
    let l : Launch := { part := 0, ctx := 0, id := 9, tag := 77, key := 0, det := false, nomix := false, root := 0,
                        domrec := 0, rootDie := 0, anyDie := false, prio := 0, stage := .running }
    let s : State := { (alone { worker with trapv := 0, launchid := 9 }) with launches := [l] }
    every [after (.trap 300) (alone worker) == some ((alone worker).putTask
        { worker with epc := 0x40000, cause := 0x0B, hnd := true, pc := 0x50000 }),
      leads (.trap 1) s fun u => u.tasks == [] && u.posts.any fun p => p.tag == 77 && p.status == 2 && p.cause == 0x0B,
      traps .eret (alone worker) worker 0x01,
      traps .eret (alone { t with epc := 2 }) { t with epc := 2 } 0x02,
      after .eret (alone t) == some ((alone t).putTask { t with hnd := false, pc := 0x40008, rep := some f })] = true := by decide +kernel

/-- Fetched words: `ADDI g4, g1, 1` is fetched through the page table and decoded. -/
theorem test_fetch :
    let s := (home worker).pokeNat 0x40000 4 0x24810001
    every [(s.fetchWord worker worker.pc).2 == .bytes [1, 0, 0x81, 0x24], wordOfBytes [1, 0, 0x81, 0x24] == 0x24810001#32,
      s.agenda == [], s.nextCore == some 0, (s.core 0).running.bind s.task? == some worker,
      !((s.takeTurn 0 worker).unitFaults worker), s.found ((s.place 0 0 anywhere .fetch worker.pc 4).2.toOption.getD ⟨0, 0, 0⟩) 4 == .sound] = true := by
  decide +kernel

/-- `LIMM` with an `ADDI`, with a misaligned `JALR`, and with another follower (03_encoding.md R71, R72). -/
theorem test_long_immediates :
    let t := worker
    let s := fun w : Nat => (home t).pokeNat 0x40004 4 w
    let u := fun w : Nat => ((s w).fetchWord t 0x40004).1
    every [after (.limm 1) (s 0x24810002) == some ((u 0x24810002).putTask { t.setG 4 0x10007 with pc := 0x40008 }),
      after (.limm 0) (s 0x08810000) == some (trapState (u 0x08810000) t 0x02),
      after (.limm 0) (s 0x20810000) == some (trapState (u 0x20810000) t 0x01),
      after (.limm 0) (s 0x08810003) == some ((u 0x08810003).putTask { t.setG 4 0x40008 with pc := 8 })] = true := by
  decide +kernel

/-- `REP` captures a word of major 0x09, not one of major 0x00; its frame goes on and ends (05_tasks.md R146, R147). -/
theorem test_rep :
    let t := worker
    let s := fun w : Nat => (home t).pokeNat 0x40004 4 w
    let u := fun w : Nat => (((s w).fetched t 0x40004 1).map (·.1)).getD State.reset
    let f : Frame := ⟨0x40000, [0x24810001], 3, 1, 2, 0, 0, true⟩
    let t1 := { t with rep := some f }
    let t2 := { t with rep := some { f with i := 1 } }
    every [after (.rep 3 1 0 1) (s 0x24810001) == some ((u 0x24810001).putTask t1),
      after (.rep 3 1 0 1) (s 0x00000001) == some (trapState (u 1) t 0x01),
      t1.past == t2, t2.past == { t with pc := 0x40008 }, stagger 3 1 1 0x24810001 == 0x24A20001#32,
      stagger 3 1 0 0x24810001 == 0x24810001#32] = true := by decide +kernel

/-- `WAIT` goes on and stalls; counters at their limits (05_tasks.md R144, R145). -/
theorem test_wait :
    let t := { worker with ld := 3 }
    let s := alone t
    every [completes (.wait 3 0 0 0 0) s t,
      after (.wait 2 63 31 31 15) s == some ((s.putTask { t with wait := .counters 2 63 31 31 15 }).modCore 0
        ({ · with stalled := true })),
      { t with ld := 62 }.full .ld, !({ t with ld := 61 }.full .ld), { t with fb := 14 }.full .fb] = true := by
  decide +kernel

/-- A second task on core 0, ready. -/
def second : Task := { worker with uid := 2, sid := 1, status := .ready, pc := 0x41000 }

/-- `TYIELD` and `TEND` hand core 0 to the ready task (05_tasks.md R141, R142). -/
theorem test_yield_end :
    let t := worker
    let s : State := { alone t with tasks := [t, second], cores := [(0, { running := some 1, ready := [2] })] }
    every [completes .tyield (alone t) t,
      leads .tyield s fun u => (u.core 0).running == some 2 && (u.core 0).ready == [1] &&
        u.task? 1 == some { t.past with status := .ready } && u.task? 2 == some { second with status := .running },
      leads .tend s fun u => u.task? 1 == none && (u.core 0).running == some 2,
      leads .tend (alone { t with st := 1 }) fun u => u.task? 1 == some { t with st := 1, status := .ending } &&
        (u.core 0).running == none] = true := by decide +kernel

/-- A gang of two forms on cores 0 and 1 and dissolves; a lone `GANG` parks, a second of another size traps
(05_tasks.md R149, R151). -/
theorem test_gang :
    let t := { worker with uid := 2, sid := 16 }
    let x := { worker with uid := 1, status := .parked .dep, wait := .gang 2 7, order := 7 }
    let s : State := { State.reset with tasks := [x, t], cores := [(1, { running := some 2 })], turn := 1 }
    let g : Gang := ⟨1, [1, 2], []⟩
    every [s.current == some t, s.gangWaits t 0 == [(x, 2, 7)], s.gangWaits t 1 == [], !s.halted 0,
      leads (.gang .two) s fun u => u.task? 2 == some { t with pc := 0x40004, gang := some g } &&
        u.task? 1 == some { x with pc := 0x40004, status := .ready, wait := .none, gang := some g },
      traps (.gang .four) s t 0x01,
      after (.gang .two) (alone worker) == some ({ alone worker with clock := 1 }.park worker .dep (.gang 2 0)),
      completes .ungang (alone worker) worker,
      (let a := { worker with gang := some g }
       let b := { worker with uid := 2, sid := 16, gang := some g }
       let w : State := { State.reset with tasks := [a, b], cores := [(0, { running := some 1 }), (1, { running := some 2 })] }
       leads .ungang w fun u => u.task? 1 == some { a with pc := 0x40004, gang := none } &&
        u.task? 2 == some { b with pc := 0x40004, gang := none })] = true := by decide +kernel

/-- System registers: reads, writes, a number that is not listed, a queued vector instruction before FSR
(03_encoding.md R65, R66; 02_numbers.md R49). -/
theorem test_system_registers :
    let t := { worker with fsr := 0x15, ctxid := 5, launchid := 9, det := true }
    let s := alone t
    let e : VEntry := { serial := 1, instr := .viota 1 0 .w32, uid := 1, part := 0, quarters := 4 }
    let busy : State := { s with cores := [(0, { running := some 1, vq := [e] })] }
    every [completes (.sysr 4 0x000) s (t.setG 4 0x50000), completes (.sysr 4 0x003) s (t.setG 4 0x15),
      completes (.sysr 4 0x013) s (t.setG 4 5), completes (.sysr 4 0x015) s (t.setG 4 1),
      completes (.sysr 4 0x016) s (t.setG 4 9), traps (.sysr 4 0x006) s t 0x01, traps (.sysr 4 0xFFF) s t 0x01,
      after (.sysr 4 0x003) busy == some (busy.stall t .none), completes (.sysw 0x001 1) s { t with epc := 5, rep := none },
      traps (.sysw 0x000 1) s t 0x02, completes (.sysw 0x000 0) s { t with trapv := 0 },
      completes (.sysw 0x003 2) s { t with fsr := 7 }, traps (.sysw 0x004 1) s t 0x01,
      completes (.sysr 4 0x012) s (t.setG 4 (s.die 0).fbstat), completes (.sysr 4 0x010) s (t.setG 4 (s.vshare 0))]
      = true := by decide +kernel

/-- Service instructions with and without their permissions (15_faults.md R390 to R394). -/
theorem test_service :
    let t := ((worker.setG 4 0x1100000000000000).setG 5 0x0300000000000003).setG 6 0xFFFFFFFFFFFC0008
    let s : State := { alone t with ctxs := [(0, { perm := 7 })], quads := [(5, { quarantined := true })] }
    every [traps (.tlbinv 1) (alone t) t 0x01, traps (.diagw 1 2) (alone t) t 0x01, traps (.mirq 1) (alone t) t 0x01,
      traps (.diagr 4 1) (alone t) t 0x01, completes (.diagr 7 4) s (t.setG 7 0x20), s.drained 0, !s.spans 0,
      completes (.tlbinv 0) s t, traps (.tlbinv 1) s t 0x01, traps (.diagr 7 1) s t 0x01,
      leads (.mirq 0) s fun u => (u.core 0).stopping] = true := by decide +kernel

/-- A task record at 0x40400 with pc 0x41000 and ARG0 = 11, and room in the task queue. -/
def nursery (t : Task) : State :=
  let s : State := { home t with parts := [(0, { en := true, qarea := 0x60000 + 10 })] }
  ((s.pokeNat 0x40400 8 0x41000).pokeNat 0x40410 8 11).pokeNat 0x40430 4 1

/-- `TSPAWN` of that record, with a misaligned record, with a bad target (05_tasks.md R139, R120); `TDONE` of it
(05_tasks.md R140). -/
theorem test_spawn_join :
    let t := ((reader.setG 4 0x40400).setG 5 9).setG 6 3
    let s := nursery t
    let d := s.taskRead t .load 0x40400 8
    let bs := match d.2 with | .bytes x => x | _ => []
    let c := d.1.checked t .other .store 0x40438 8 8
    let l := c.2.toOption.getD ⟨9, 9, 9⟩
    let v := c.1
    let r : Request := ⟨v.who t, t.sid, l.pa, .store (leBytes 8 t.childSeq.toNat), .none, some t.tag, 0, [], 0⟩
    let e : QEntry := { age := v.clock, record := 0x40400, ctxid := 0, launch := 0, prio := 0, pc := 0x41000, ranges := [],
                        args := [11, 0, 0, 0], aff := none, seq := t.childSeq, phase := 0, bar := 0, domain := 0, ag := 0 }
    let u : State := { v with clock := v.clock + 1, requests := [r] }
    let k := s.checked t .red .mark 0x40430 4 4
    let q : Request := ⟨s.who t, t.sid, 0x40430, .dec, .st, some t.tag, 0, [⟨.pkg, 0⟩], 0⟩
    let w : State := { k.1 with requests := [q] }
    every [s.ownDrained t, (parseTask bs true).map (·.table) == some 0, spawnDie t.die 9 == some 1, l.pkg == 0,
      v.queueRoom 1 0,
      after (.tspawn 4 5) s == some ((u.putTask { t.past with ordinal := 1 }).setDie 1 { v.die 1 with queue := [e] }),
      traps (.tspawn 1 5) s t 0x02, after (.tspawn 4 6) s == some (trapState d.1 t 0x01), spawnDie 0 16 == none,
      traps (.tdone 1) s t 0x02, k.2.isOk, !(k.1.writeHits ⟨0, 0x40430, 0⟩ 4),
      after (.tdone 4) s == some (w.putTask { t.past with st := 1, rels := 1 }),
      s.word 0x40430 4 == 1, (s.applyRequest { q with tag := none }).word 0x40430 4 == 0] = true := by decide +kernel

/-- `TSPAWN` of a record with a range table, into a full queue, homed in another package, by a shadow (05_tasks.md R139;
14_containment.md R370). -/
theorem test_spawn_forms :
    let t := (reader.setG 4 0x40400).setG 5 9
    let s : State := (((nursery t).pokeNat 0x40408 8 0x40480).pokeNat 0x40480 8 0x70000).pokeNat 0x40488 8 64
    let d := s.taskRead t .record 0x40400 8
    let x := d.1.taskRead t .record 0x40480 8
    let tb := match x.2 with | .bytes y => y | _ => []
    let c := x.1.checked t .other .store 0x40438 8 8
    let w := c.1
    let e : QEntry := { age := w.clock, record := 0x40400, ctxid := 0, launch := 0, prio := 0, pc := 0x41000,
                        ranges := [⟨0x70000, 64, false⟩], args := [11, 0, 0, 0], aff := none, seq := t.childSeq, phase := 0,
                        bar := 0, domain := 0, ag := 0 }
    let here := fun (w : State) => { w with
      clock := w.clock + 1, requests := [⟨w.who t, t.sid, 0x40438, .store (leBytes 8 t.childSeq.toNat), .none, some t.tag, 0, [], 0⟩] }
    let full := fun (s : State) => s.modPart 0 ({ · with qarea := 0 })
    let told := fun (s : State) => s.noteArea 0 0x40 (stalledTask 1)
    let far := (reader.setG 4 0x50000).setG 5 9
    let line := leBytes 64 (0x41000 + 11 * 2 ^ 128)
    let r : State := { (nursery far) with reads := [⟨1, 8, 0, 1, 0x50000, some line⟩] }
    let rd := r.taskRead far .record 0x50000 8
    let rc := rd.1.checked far .other .store 0x50038 8 8
    let v := rc.1
    let g : QEntry := { e with age := v.clock, record := 0x50000, ranges := [] }
    let sent : State := { v.send 1 (v.who far) (.store ⟨v.who far, [(0x50038, leBytes 8 t.childSeq.toNat)]⟩) .fb with
      clock := v.clock + 1 }
    let shadow := { t with dual := .shadow 7 }
    every [s.ownDrained t, !t.isShadow, tb.length == 64, !d.1.watermarked 0 0x40400 64, !x.1.watermarked 0 0x40480 64,
      parseRanges tb == some [⟨0x70000, 64, false⟩], c.2.toOption == some (at_ c), (at_ c).pkg == w.svc.packageId,
      w.queueRoom 1 0,
      after (.tspawn 4 5) s == some (((here w).putTask { t.past with ordinal := 1 }).setDie 1 { w.die 1 with queue := [e] }),
      !(full w).queueRoom 1 0,
      after (.tspawn 4 5) (full s) == some ((told (here (full w))).park { t.past with ordinal := 1 } .dep (.queue 1 e)),
      (match rd.2 with | .bytes y => (parseTask y true).map (·.table) == some 0 | _ => false), (at_ rc).pkg == 1,
      !v.fabQueued far,
      after (.tspawn 4 5) r == some ((sent.putTask { far.past with ordinal := 1, fb := 1 }).setDie 1
        { v.die 1 with queue := [g] }),
      after (.tspawn 4 5) (full r) == some ((told (full sent)).park { far.past with ordinal := 1, fb := 1 } .dep (.queue 1 g)),
      after (.tspawn 4 5) (home shadow) == some ((home shadow).putTask
        { (shadow.addSum 0x40438 (leBytes 8 shadow.childSeq.toNat)).past with ordinal := 1 })] = true := by
  decide +kernel

/-- `TDONE` with a full class, homed in another package, by a shadow (05_tasks.md R140, R144; 14_containment.md R370). -/
theorem test_join_forms :
    let t := { reader.setG 4 0x40400 with st := 62 }
    let s := nursery t
    let k := s.checked t .red .mark 0x40430 4 4
    let far := reader.setG 4 0x50000
    let c := (home far).checked far .red .mark 0x50030 4 4
    let shadow := { reader.setG 4 0x40400 with dual := .shadow 7 }
    let block : QEntry := { age := 0, record := 0x40400, ctxid := 0, launch := 0, prio := 0, pc := 0, ranges := [], args := [],
                            aff := none, seq := 0, phase := 0, bar := 0, domain := 0, ag := 0,
                            state := .blocked 0 0x40400 }
    let b := s.setDie 1 { s.die 1 with queue := [block] }
    let q : Request := ⟨s.who t, t.sid, 0x40430, .dec, .st, none, 0, [], 0⟩
    let two := s.pokeNat 0x40430 4 2
    every [k.2.isOk, !(k.1.writeHits (at_ k) 4), !(k.1.writeHeld 0 (k.1.clock + 1) (at_ k) 4),
      after (.tdone 4) s == some (k.1.stall t .none), (at_ c).pkg == 1, !c.1.fabQueued far,
      after (.tdone 4) (home far) == some ((c.1.send 1 (c.1.who far) (.red ⟨c.1.who far, (at_ c).pa, .dec⟩) .fb).putTask
        { far.past with fb := 1 }),
      completes (.tdone 4) (home shadow) (shadow.addSum 0x40430 (leBytes 4 1)), ((b.applyRequest q).die 1).queue == [{ block with state := .queued }],
      (b.applyRequest q).mem == (b.pokeNat 0x40430 4 0).mem, (two.applyRequest q).mem == (two.pokeNat 0x40430 4 1).mem,
      (two.applyRequest q).dies == two.dies] = true := by decide +kernel

/-- `DIAGW` of a tile bit and of a scratchpad doubleword; `MIRQ` that resumes (15_faults.md R392, R393). -/
theorem test_injection :
    let t := ((worker.setG 4 (2 ^ 57 + 1 + 3 * 2 ^ 8 + 5 * 2 ^ 16 + 7 * 2 ^ 24)).setG 5 (3 * 2 ^ 56 + 9)).setG 6
      0xFFFFFFFFFFFC0010
    let c : Core := { running := some 1, spallot := 0 }
    let s : State := { alone t with ctxs := [(0, { perm := 7 })], cores := [(0, c)] }
    let z : Tile := { rows := [(3, 1#2048 <<< (32 * 5 + 7))] }
    every [after (.diagw 4 0) s == some ((s.modCore 0 fun y => { y with mctx := y.mctx.setTile 1 z }).putTask t.past),
      scratchOf 0 (t.greg 6) == some (0, 16), s.segmentPart 0 16 == 0,
      after (.diagw 5 6) s == some ({ s with flips := [(scratchKey 0 16 / 8, 1#64 <<< 9)] }.putTask t.past)]
      = true := by decide +kernel

/-- A task on core 0 of `mapped` whose `g4` is an address of the open page, `g5` a scratchpad address and `g6` one of
package 1. -/
def loader : Task := ((reader.setG 4 0x40100).setG 5 0xFFFFFFFFFFFC0010).setG 6 0x50020

/-- `home` with the scratchpad of core 0 allotted to partition 0, and bytes to load. -/
def pantry (t : Task) : State :=
  let s : State := { home t with cores := [(0, { running := some 1, spallot := 0 })] }
  (s.pokeNat 0x40100 8 0x8877665544332211).pokeNat (scratchKey 0 0x10) 8 0xFFEEDDCCBBAA9988

/-- Scalar loads: from memory, from a scratchpad, from another package (09_memory.md R253, R255). -/
theorem test_loads :
    let t := loader
    let s := pantry t
    let c := s.checked t .load .none 0x40101 1 1
    let u := c.1
    let l : Loc := ⟨0, 0x40101, (at_ c).leaf⟩
    let f := s.checked t .load .none 0x50020 8 8
    let m := at_ f
    every [c.2.toOption == some l, !u.watermarked 0 0x40101 1, !l.device, u.found l 1 == .sound, s.queued == [],
      ownRequests s t 0x40101 1 == [], u.correct l.pa 1 == u,
      after (.ld 7 4 1 .b) s == some (u.putTask (t.setG 7 0x22).past),
      leads (.ld 7 4 1 .h) s fun u => u.task? 1 == some (t.setG 7 0x4433).past,
      leads (.ld 7 4 0 .w) s fun u => u.task? 1 == some (t.setG 7 0x44332211).past,
      leads (.ldAcq 7 4 .sys 0 .d) s fun u => u.task? 1 == some (t.setG 7 0x8877665544332211).past,
      leads (.ldAcq 7 4 .sys 0x1FF .d) s fun u => u.task? 1 == some (t.setG 7 0).past,
      completes (.ld 7 5 0 .d) s (t.setG 7 0xFFEEDDCCBBAA9988), completes (.ld 0 5 0 .d) s t,
      completes (.ld 7 5 1 .b) s (t.setG 7 0x99), s.segmentPart 0 0x10 == 0, s.segmentPart 0 0x3FFF8 == 0,
      f.2.isOk, m.pkg == 1, m.pa == 0x50020,
      after (.ld 7 6 0 .d) s == some ((f.1.park t.advance .remote (.load 7 (f.1.overlayKey m) 8 none)).send 1 (f.1.who t)
        (.loadReq ⟨f.1.who t, 0x50020, 8, .scalar 1⟩))] = true := by decide +kernel

/-- Scalar stores: into the buffer, to another package, to a poisoned line, a release that waits, a relaxed store that
does not, and what a later load and the home then see (09_memory.md R253, R256; 11_order.md R286, R288). -/
theorem test_stores :
    let t := loader
    let s := pantry t
    let c := s.checked t .store .store 0x40108 8 8
    let u := c.1
    let l := at_ c
    let b := leBytes 8 7
    let q : Request := ⟨u.who t, t.sid, 0x40108, .store b, .none, some t.tag, 0, [], 0⟩
    let f := s.checked t .store .store 0x50028 8 8
    let p : State := { s with requests := [q] }
    every [c.2.isOk, l.pa == 0x40108, s.ownDrained t, !(u.writeHeld 0 (u.clock + 1) l 8), !(u.writeHits l 8),
      after (.st 2 4 1 .d) s == some ({ u with requests := [q] }.putTask t.past),
      after (.stRel 2 4 .sys 1 .d) s == some ({ u with requests := [{ q with rel := [⟨.sys, 0⟩] }] }.putTask
        { t.past with rels := 1 }),
      !(p.ownDrained t), after (.stRel 2 4 .sys 1 .d) p == some (p.stall t .none),
      leads (.st 2 4 1 .d) p fun v => v.requests == [q, q],
      f.2.isOk, !(f.1.writeHeld 0 1 (at_ f) 8),
      after (.st 2 6 1 .d) s == some ((f.1.send 1 (f.1.who t) (.store ⟨f.1.who t, [(0x50028, b)]⟩) .fb).putTask
        { t.past with fb := 1 }),
      (let w : State := { s with poison := [0x40108 / 64] }
       let c := w.checked t .store .store 0x40108 8 8
       c.1.writeHits (at_ c) 8 && after (.st 2 4 1 .d) w == some (c.1.hwerrTask t)),
      leads (.st 3 5 1 .h) s fun u => (u.current).isSome &&
        (match after (.ld 7 5 1 .h) u with
          | some v => (v.task? 1).map (·.greg 7) == some 0xFFFE
          | none => false),
      (s.applyRequest { q with tag := none }).byte 0x40108 == 7, (s.applyRequest { q with tag := none }).byte 0x40107 == 0x88]
      = true := by
  decide +kernel

/-- The checks of an access in their order (09_memory.md R236, R240, R247, R250). -/
theorem test_access_checks :
    let t := (loader.setG 7 0x0040000000000000).setG 8 0xFFC0000020000000
    let s := pantry t
    let out := (s.failLaunch t.part t.launchid 2 0x05 t.sid).discardTasks fun u => u.uid == t.uid
    let n : Task := { t with ranges := [] }
    let far := t.setG 4 0x60000
    every [traps (.ld 9 1 0 .h) s t 2, traps (.st 9 1 0 .d) s t 2,
      after (.ld 9 7 0 .d) s == some out, after (.st 9 8 0 .d) s == some out, !canonical 0x0040000000000000,
      reservedWindow 0xFFC0000020000000, reservedWindow 0xFFC00000FFFFFFFF, !reservedWindow 0xFFC0000100000000,
      !reservedWindow 0xFFC000001FFFFFFF, canonical 0x003FFFFFFFFFFFFF, canonical 0xFFC0000000000000,
      after (.ld 9 4 0 .d) (pantry n) == some (((pantry n).failLaunch 0 0 2 0x05 0).discardTasks fun u => u.uid == 1),
      s.inRanges t.ranges 0 0x60000 8, (s.lookup 0 .load 0x60000).toOption == none,
      leads (.ld 9 4 0 .d) (pantry far) fun u => u.task? 1 == some
        { far with status := .parked .fault, wait := .service, order := ((u.task? 1).getD t).order },
      leafFault s 8 0x40000 .load == some 1, leafFault s 0 (2 ^ 41) .load == some 2, leafFault s 4 0x40000 .store == some 6,
      leafFault s 2 0x40000 .fetch == some 7, leafFault s 0x36 0x40000 .load == some 3, leafFault s 6 0x40000 .fetch == none,
      leafFault s 0x36 (2 ^ 41 - 1) .load == none, leafFault s 6 (2 ^ 41 - 1) .load == some 3,
      leafFault s 6 0x0BFFFFFFFFF .load == none, leafFault s 6 0x0C000000000 .load == some 2] = true := by decide +kernel

/-- Prefetches and hints, dropped and not (09_memory.md R258 to R260). -/
theorem test_hints :
    let t := loader
    let s := pantry t
    let d := { t with hintdrop := 1 }
    let h := s.hinted t 0x40100
    let leaf := (h.map (·.1)).getD 0
    let a := (s.setAccessed leaf false).remember 0 0 0x40100
    let f := (s.hinted t 0x50020).map (·.1)
    let b := (s.setAccessed (f.getD 0) false).remember 0 0 0x50020
    let hot : State := { s with svc := { s.svc with hotbase := 0x80000 } }
    let ha := ({ a with svc := hot.svc }).nearHint none 0x40100
    every [h.isSome, after (.pfL1 4 0) s == some (a.putTask t.past), after (.hintDone 4 0) s == some (a.putTask t.past),
      completes (.pfL2 0 0) s d, completes (.hintNeed 5 0) s d, (s.hinted t 0) == none,
      f.isSome, completes (.hintNeed 6 0) s d,
      after (.hintDone 6 0) s == some (b.putTask t.past),
      leads (.hintNear 4 0) s fun u => u.task? 1 == some t.past,
      after (.hintNear 6 0) s == some ((b.send 1 (b.who t) (.near (b.who t) 0x50020)).putTask t.past),
      after (.hintNear 4 0) hot == some (ha.putTask t.past), ha.word 0x80044 4 == 256, ha.word 0x80048 1 == 0,
      (ha.pokeNat 0x80044 4 0xFFFFFFFE |>.nearHint none 0x40100).word 0x80044 4 == 0xFFFFFFFF] = true := by decide +kernel

/-- `pantry` with floating and integer operands at 0x40200. -/
def till (t : Task) : State := (pantry t).pokeNat 0x40200 8 0x00000005FFFFFFF0

/-- Returning atomics in this package (10_atomics.md R273 to R275, R278). -/
theorem test_atomics :
    let t := ((loader.setG 4 0x40200).setG 7 0xFFFFFFF0).setG 8 0x3F800000
    let s := till t
    let c := s.checked t .atomic .mark 0x40200 4 4
    let u := c.1
    let frees := fun (i : Instr) (g : GReg) (v : Word) (w rels : Nat) => leads i s fun x =>
      x.task? 1 == some { (t.setG g v).past with atomics := 1, rels := rels } && x.word 0x40200 4 == w &&
        x.byte 0x40204 == 5 && x.byte 0x401FF == 0 && x.tag 0x40200 == t.tag
    let gives := fun (i : Instr) (g : GReg) (v : Word) (w : Nat) => frees i g v w 0
    every [c.2.isOk, (at_ c).pkg == 0, u.queued == [], s.requests == [],
      gives (.amoAdd 9 4 1 .w .rlx .core) 9 0xFFFFFFF0 0xFFFFFFF5, gives (.amoMinI 9 4 1 .w .acq .sys) 9 0xFFFFFFFFFFFFFFF0
        0xFFFFFFF0, frees (.amoMaxI 9 4 1 .w .rel .die) 9 0xFFFFFFFFFFFFFFF0 5 1, frees (.amoMinN 9 4 1 .w .ar .die) 9 0xFFFFFFF0 5 1,
      frees (.amoMaxN 9 4 1 .w .ar .die) 9 0xFFFFFFF0 0xFFFFFFF0 1, frees (.amoXor 9 4 1 .w .ar .die) 9 0xFFFFFFF0 0xFFFFFFF5 1,
      gives (.amoAnd 9 4 2 .w .rlx .core) 9 0xFFFFFFF0 0, gives (.amoOr 9 4 2 .w .rlx .core) 9 0xFFFFFFF0 0xFFFFFFF7,
      gives (.amoSwap 9 4 2 .w .rlx .core) 9 0xFFFFFFF0 7, gives (.cas 7 4 2 .w .rlx .core) 7 0xFFFFFFF0 7,
      leads (.cas 9 4 2 .w .rlx .core) s fun x => x.word 0x40200 4 == 0xFFFFFFF0 &&
        x == ({ u with doms := s.doms }).putTask { (t.setG 9 0xFFFFFFF0).past with atomics := 1 },
      leads (.amoAdd 9 4 2 .d .rlx .core) s fun x => x.word 0x40200 8 == 0x00000005FFFFFFF7,
      leads (.famoAdd 9 5 8 .rlx .core) (s.pokeNat (scratchKey 0 0x10) 4 0x40000000) fun x =>
        x.word (scratchKey 0 0x10) 4 == 0x40400000 && (x.task? 1).map (·.greg 9) == some 0x40000000,
      leads (.famoMax 9 5 8 .rlx .core) (s.pokeNat (scratchKey 0 0x10) 4 0x40000000) fun x =>
        x.word (scratchKey 0 0x10) 4 == 0x40000000,
      leads (.famoMin 9 5 8 .rlx .core) (s.pokeNat (scratchKey 0 0x10) 4 0x40000000) fun x =>
        x.word (scratchKey 0 0x10) 4 == 0x3F800000] = true := by decide +kernel

/-- Atomics that trap, that go to another package, that its leaf denies; reductions (10_atomics.md R271, R272, R277,
R279). -/
theorem test_far_atomics :
    let t := ((loader.setG 4 0x40200).setG 7 0xFFFFFFF0).setG 8 0x3F800000
    let s := till t
    let f := s.checked t .atomic .frozen 0x50020 8 8
    let w := s.pokeNat 0x30028 8 (0x6C7 + 5 * 2 ^ 23)
    let p := w.place 0 0 t.ranges .atomic 0x50020 8
    let r := s.checked t .red .mark 0x40200 4 4
    let q : Request := ⟨r.1.who t, 0, 0x40200, .combine .add .w 5, .st, some t.tag, 0, [], 0⟩
    let g := s.checked t .red .mark 0x50020 8 8
    let e : Task := { t with det := true }
    every [traps (.amoAdd 9 1 1 .w .rlx .core) s t 2, traps (.amoAdd 9 7 1 .d .rlx .core) s { t with pc := 1 } 2 == false,
      traps (.redAdd 1 1 .d true .core) s t 2, traps (.fredAdd 1 1 false .core) s t 2,
      f.2.isOk, (at_ f).pkg == 1, after (.amoAdd 9 6 1 .d .rel .sys) s == some ((f.1.park { t.advance with atomics := 1 }
        .remote (.atomic 9 .add .d 5 (t.greg 9) 0x50020 none
          (f.1.atomicTarget 0 0 0 0x50020 (at_ f).leaf))).send 1 (f.1.who t)
          (.atomicReq ⟨f.1.who t, 0x50020, .add, .d, 5, t.greg 9⟩)),
      p.2.isOk, !(at_ p).leaf.testBit 8, (at_ p).pkg == 1,
      (after (.amoAdd 9 6 1 .d .rlx .sys) w).map (·.tasks) ==
        some (p.1.faultPark t .atomic 0x50020 0x07 ⟨false, 0, 0⟩).tasks,
      r.2.isOk, !(r.1.writeHits (at_ r) 4),
      after (.redAdd 4 1 .w false .core) s == some (({ r.1 with requests := [q] } : State).putTask { t.past with st := 1 }),
      g.2.isOk, after (.redOr 6 1 .d true .core) s == some ((g.1.send 1 (g.1.who t)
        (.red ⟨g.1.who t, 0x50020, .combine .or .d 5⟩) .fb).putTask { t.past with fb := 1 }),
      traps (.fredMin 4 1 false .core) (till e) e 1, traps (.fredMax 1 1 false .core) (till e) e 2,
      leads (.fredMax 4 8 false .core) s fun u => u.requests == [{ q with op := .combine .fmax .w 0x3F800000 }],
      (s.applyRequest { q with tag := none }).word 0x40200 4 == 0xFFFFFFF5,
      (s.applyRequest { q with tag := none }).byte 0x40204 == 5] = true := by decide +kernel

/-- `REDX` under its descriptor (10_atomics.md R277, R281; 02_numbers.md R59). -/
theorem test_fixed_sums :
    let t := ((loader.setG 4 0x40200).setG 7 0x40300).setG 8 0x3F800000
    let s := fun d : Nat => (till t).pokeNat 0x40300 16 d
    let ok := 0x40200 + 4 * 2 ^ 64 + 16 * 2 ^ 80
    let k := fun d : Nat => (s d).taskRead t .load 0x40300 2
    let w := (k ok).1.checked t .red .mark 0x40200 8 8
    let q : Request := ⟨w.1.who t, 0, 0x40200, .combine .add .d (BitVec.ofNat 64 ((fixedOf 0x3F800000 4).map (·.1)).get!),
      .st, some t.tag, 0, [], 0⟩
    let bad := fun d : Nat => after (.redx 7 4 8 false .core) (s d) == some (trapState (k d).1 t 1)
    every [traps (.redx 1 4 8 false .core) (s ok) t 2, traps (.redx 7 1 8 false .core) (s ok) t 2,
      (k ok).2 == .bytes (leBytes 16 ok), (fixedOf 0x3F800000 4).isSome, w.2.isOk, !(w.1.writeHits (at_ w) 8),
      after (.redx 7 4 8 false .core) (s ok) == some (({ w.1 with requests := [q] } : State).putTask
        { ({ t with fsr := ((fixedOf 0x3F800000 4).map (·.2)).get! } : Task).past with st := 1 }),
      bad 0x40200, bad (ok + 2 ^ 73), bad (ok + 4), fixedOf 0x7F800000 4 == none,
      after (.redx 7 4 9 false .core) ((till (t.setG 9 0x7F800000)).pokeNat 0x40300 16 ok) ==
        some (trapState (((till (t.setG 9 0x7F800000)).pokeNat 0x40300 16 ok).taskRead (t.setG 9 0x7F800000) .load 0x40300 2).1
          (t.setG 9 0x7F800000) 3)] = true := by
  decide +kernel

/-- Chains start, go on, and end (09_memory.md R262 to R267). -/
theorem test_chains :
    let t := (loader.setG 4 0x40200).setG 7 0x40300
    let s := ((till t).pokeNat 0x40300 8 2).pokeNat 0x40308 16 (8 + (2 ^ 50 + 16) * 2 ^ 64)
    let u := (s.taskRead t .load 0x40300 1).1
    let v := u.taskRead t .load 0x40308 2
    let bs := match v.2 with | .bytes x => x | _ => []
    let steps : List Word := [8, 2 ^ 50 + 16]
    let i : Instr := .cld 9 4 7
    let z := (till t).pokeNat 0x40300 8 9
    let m : ChainEnd := ⟨1, 0, 77, 1, 2, false⟩
    let p : Task := { t with chain := some ⟨.scalar 9, steps, [{ lane := 0, x := 0x40200 }]⟩, status := .parked .chain, wait := .chain }
    every [traps (.cld 9 1 7) s t 2, traps (.cld 9 4 1) s t 2,
      after i z == some (trapState (z.taskRead t .load 0x40300 1).1 t 1), chainSteps 2 bs == some steps,
      after i s == some ((v.1.park { t.advance with chain := some ⟨.scalar 9, steps, [{ lane := 0, x := 0x40200 }]⟩ }
        .chain .chain).resendLanes 1 [0]),
      chainSteps 1 (leBytes 8 (2 ^ 52)) == none,
      chainStep (2 ^ 40 * 8 + 2 ^ 46 * 4 + 2 ^ 40 - 2 ^ 40 + 3) 5 0x12345 == .go 0x43,
      chainStep (2 ^ 50 + 2 ^ 40 - 1) 5 0x12345 == .load 0x12344, chainStep (2 ^ 51) 5 0x12345 == .stop 0x12345 1,
      chainStep (3 * 2 ^ 50) 5 0 == .stop 5 2, chainStep (3 * 2 ^ 50 + 8) 5 8 == .go 16,
      s.locate 0 t.ranges false 4 == (s, .stop 3), s.locate 0 t.ranges false 0xFFFFFFFFFFFC0000 == (s, .stop 4),
      s.locate 0 t.ranges false 0x0040000000000000 == (s, .range),
      leads (.chainResult m) (home p) fun x => (x.task? 1).any fun w => w.status == .ready && w.chain == none &&
        w.g == ((t.setG 9 77).setG 10 0x12).g] = true := by decide +kernel

/-- `VCLD` waits for its core's vector queue, and starts a chain for each active element (09_memory.md R267). -/
theorem test_vector_chains :
    let t := loader.setG 7 0x40300
    let c : Core := { running := some 1, spallot := 0, v := (Vector.replicate 32 0).set 3 (0x40200#2048 + 0x40208#2048 <<< 64),
                      k := (Vector.replicate 8 0).set 2 5 }
    let s : State := { ((till t).pokeNat 0x40300 8 1).pokeNat 0x40308 8 (2 ^ 51) with cores := [(0, c)] }
    let e : VEntry := { serial := 1, instr := .viota 1 0 .w32, uid := 1, part := 0, quarters := 4 }
    let busy : State := { s with cores := [(0, { c with vq := [e] })] }
    let h := (s.taskRead t .load 0x40300 1).1
    let v := h.taskRead t .load 0x40308 1
    let st : Word := 0x8000000000000
    let x := v.1.park { t.advance with
      chain := some ⟨.vector 9, [st], [{ lane := 0, x := 0x40200 }, { lane := 2, x := 0x40208 }]⟩ } .chain .chain
    let a := fun (y : State) (j : Nat) (w : Word) => y.afterWord ⟨y.who t, 0, 0, j, [st], t.ranges, 0, w, 0, false⟩ w
    let u := (a (a x 0 0x40200) 2 0x40208).settleChain 1
    every [v.2 == .bytes (leBytes 8 (2 ^ 51)), chainSteps 1 (leBytes 8 (2 ^ 51)) == some [st],
      u.task? 1 != none, s.current == some t, after (.vcld 9 3 7 2) busy == some (busy.stall t .none),
      after (.vcld 9 3 7 2) s == some u] = true := by decide +kernel

/-- A core with data in `v1`, `v2`, `v3`, a mask in `k1` and a mask in `k2`. -/
def lanes : Core :=
  let fill := fun (a b : Nat) => BitVec.ofNat 2048 ((List.range 40).foldl (fun n i => n * 2 ^ 53 + (a * i + b) % 2 ^ 53) a)
  { running := some 1, spallot := 0,
    v := (((Vector.replicate 32 0).set 1 (fill 0x3C8F0FF12345677 7)).set 2 (fill 0x1FE4003A9876543 3)).set 3
      (fill 0x2B41F00C8D3A579 1),
    k := ((Vector.replicate 8 0).set 1 0x5A5AC3).set 2 (BitVec.allOnes 256 <<< 9) }

/-- A queued instruction. -/
def queued (i : Instr) (x : Word := 0) : VEntry := { serial := 1, instr := i, uid := 1, part := 0, x := x, quarters := 1 }

/-- What a queued instruction leaves is element by element as given. -/
def laneResult (i : Instr) (d : VReg) (k : Reg3) (w : Nat) (f : Nat → BitVec w) (fl : Nat → Flags) (x : Word := 0) : Bool :=
  let c := lanes
  match c.compute (queued i x) with
  | some (c', g, none) =>
    let y := c'.v[d.toNat]
    c' == { c with v := c.v.set d.toNat y } && ((List.range (2048 / w)).all fun j =>
      elem w y j == if c.active k j then f j else elem w c.v[d.toNat] j) &&
    (g == ((List.range (2048 / w)).filter fun j => c.active k j).foldl (fun a j => a ||| fl j) 0)
  | _ => false

/-- What a queued instruction leaves in a mask register. -/
def maskResult (i : Instr) (d : Reg3) (n : Nat) (f : Nat → Bool) : Bool :=
  let c := lanes
  match c.compute (queued i) with
  | some (c', g, none) =>
    let m := c'.k[d.toNat]
    g == 0 && if d = 0 then c' == c else
      c' == { c with k := c.k.set d.toNat m } && (List.range 256).all fun j => m.getLsbD j == (decide (j < n) && f j)
  | _ => false

/-- Integer lanes: wraps, signs, shift counts beyond the width (06_vector.md R165, R172, R173). -/
theorem test_integer_lanes :
    let x := fun i => elem 8 lanes.v[1] i
    let y := fun i => elem 8 lanes.v[2] i
    let u := fun i => elem 16 lanes.v[1] i
    let v := fun i => elem 16 lanes.v[2] i
    let go := fun (i : Instr) (f : Nat → BitVec 8) => laneResult i 3 1 8 f fun _ => 0
    let go2 := fun (i : Instr) (f : Nat → BitVec 16) => laneResult i 3 0 16 f fun _ => 0
    every [go (.vaddInt (.reg 3) (.reg 1) 2 1 .w8) fun i => x i + y i, go (.vsubInt (.reg 3) (.reg 1) 2 1 .w8) fun i => x i - y i,
      go2 (.vmulInt (.reg 3) (.reg 1) 2 0 .w16) fun i => u i * v i,
      go2 (.vmulhI (.reg 3) (.reg 1) 2 0 .w16) fun i => BitVec.ofInt 16 ((u i).toInt * (v i).toInt / 2 ^ 16),
      go2 (.vmulhN (.reg 3) (.reg 1) 2 0 .w16) fun i => BitVec.ofNat 16 ((u i).toNat * (v i).toNat / 2 ^ 16),
      go (.vminI (.reg 3) (.reg 1) 2 1 .w8) fun i => if (x i).toInt < (y i).toInt then x i else y i,
      go (.vminN (.reg 3) (.reg 1) 2 1 .w8) fun i => if (x i).toNat < (y i).toNat then x i else y i,
      go (.vmaxI (.reg 3) (.reg 1) 2 1 .w8) fun i => if (x i).toInt < (y i).toInt then y i else x i,
      go (.vmaxN (.reg 3) (.reg 1) 2 1 .w8) fun i => if (x i).toNat < (y i).toNat then y i else x i,
      go (.vand (.reg 3) (.reg 1) 2 1 .w8) fun i => x i &&& y i, go (.vor (.reg 3) (.reg 1) 2 1 .w8) fun i => x i ||| y i,
      go2 (.vxor (.reg 3) (.reg 1) 2 0 .w16) fun i => u i ^^^ v i,
      go (.vshl (.reg 3) (.reg 1) 2 1 .w8) fun i => if 8 ≤ (y i).toNat then 0 else x i <<< (y i).toNat,
      go (.vshr (.reg 3) (.reg 1) 2 1 .w8) fun i => if 8 ≤ (y i).toNat then 0 else x i >>> (y i).toNat,
      go (.vsar (.reg 3) (.reg 1) 2 1 .w8) fun i => if 8 ≤ (y i).toNat then (if (x i).msb then BitVec.allOnes 8 else 0)
        else (x i).sshiftRight (y i).toNat,
      go (.vadds (.reg 3) (.reg 1) 2 1 .w8) fun i => BitVec.ofInt 8 (max (-128) (min 127 ((x i).toInt + (y i).toInt)))]
      = true := by decide +kernel

/-- Floating lanes with the flags of the active elements (06_vector.md R169 to R171). -/
theorem test_float_lanes :
    let f := Format.bf16
    let x := fun i => f.value (elem 16 lanes.v[1] i).toNat
    let y := fun i => f.value (elem 16 lanes.v[2] i).toNat
    let z := fun i => f.value (elem 16 lanes.v[3] i).toNat
    let go := fun (i : Instr) (r : Nat → Rounded) =>
      laneResult i 3 1 16 (fun j => BitVec.ofNat 16 (r j).bits) fun j => (r j).flags
    every [go (.vaddF (.reg 3) (.reg 1) 2 1 .bf16) fun i => f.sum [x i, y i] false,
      go (.vsubF (.reg 3) (.reg 1) 2 1 .bf16) fun i => f.sum [x i, (y i).negate] false,
      go (.vmulF (.reg 3) (.reg 1) 2 1 .bf16) fun i => f.mul (x i) (y i),
      go (.vdiv (.reg 3) (.reg 1) 2 1 .bf16) fun i => f.div (x i) (y i),
      go (.vfma 3 (.reg 1) 2 1 .bf16) fun i => f.fma false (x i) (y i) (z i),
      go (.vfms 3 (.reg 1) 2 1 .bf16) fun i => f.fma false (x i) (y i) (z i).negate,
      go (.vfnma 3 (.reg 1) 2 1 .bf16) fun i => f.fma true (x i) (y i) (z i),
      go (.vmaxF (.reg 3) (.reg 1) 2 1 .bf16) fun i =>
        f.minmax true (elem 16 lanes.v[1] i).toNat (elem 16 lanes.v[2] i).toNat,
      go (.vsqrt (.reg 3) (.reg 1) 1 .bf16) fun i => f.sqrt (x i),
      go (.vrcp (.reg 3) (.reg 1) 1 .bf16) fun i => f.div (.fin false 1 0) (x i),
      laneResult (.vabs (.reg 3) (.reg 1) 1 .bf16) 3 1 16 (fun i => elem 16 lanes.v[1] i &&& 0x7FFF) (fun _ => 0),
      laneResult (.vneg (.reg 3) (.reg 1) 1 .bf16) 3 1 16 (fun i => elem 16 lanes.v[1] i ^^^ 0x8000) (fun _ => 0)] = true := by
  decide +kernel

/-- Compares into masks and mask logic; a write of `k0` is discarded (06_vector.md R176, R177; 03_encoding.md R64). -/
theorem test_masks :
    let x := fun i => (elem 8 lanes.v[1] i).toInt
    let y := fun i => (elem 8 lanes.v[2] i).toInt
    let u := fun i => (elem 16 lanes.v[1] i).toNat
    let v := fun i => (elem 16 lanes.v[2] i).toNat
    let a := fun i => lanes.active 1 i
    let b := fun i => lanes.active 2 i
    every [maskResult (.vcmplt 4 (.reg 1) 2 1 .i8) 4 256 fun i => a i && decide (x i < y i),
      maskResult (.vcmpge 4 (.reg 1) 2 0 .i8) 4 256 fun i => decide (y i ≤ x i),
      maskResult (.vcmpeq 4 (.reg 1) 1 2 .n16) 4 128 fun i => b i && decide (u i = u i),
      maskResult (.vcmpne 4 (.reg 1) 1 0 .n16) 4 128 fun _ => false,
      maskResult (.vcmple 4 (.reg 1) 2 0 .n16) 4 128 fun i => decide (u i ≤ v i),
      maskResult (.vcmpgt 4 (.reg 1) 2 0 .n16) 4 128 fun i => decide (v i < u i),
      maskResult (.vcmpgt 0 (.reg 1) 2 0 .n16) 0 128 fun i => decide (v i < u i),
      maskResult (.kand 5 1 2) 5 256 fun i => a i && b i, maskResult (.kor 5 1 2) 5 256 fun i => a i || b i,
      maskResult (.kxor 5 1 0) 5 256 fun i => !(a i), maskResult (.kandn 5 1 2) 5 256 fun i => a i && !(b i),
      maskResult (.knot 5 2) 5 256 fun i => !(b i), maskResult (.kmov 5 0) 5 256 fun _ => true,
      maskResult (.knot 0 2) 0 256 fun _ => true] = true := by decide +kernel

/-- Permutes, selects, generated elements (06_vector.md R180, R181). -/
theorem test_lane_moves :
    let x := fun i => elem 16 lanes.v[1] i
    let y := fun i => elem 16 lanes.v[2] i
    let y0 := (y 0).toNat
    let go := fun (i : Instr) (f : Nat → BitVec 16) => laneResult i 3 1 16 f (fun _ => 0) 0x1234F00DFACE
    every [go (.vperm 3 1 2 1 .w16) fun i => x ((y i).toNat % 128), go (.vbcast 3 1 2 1 .w16) fun _ => x (y0 % 128),
      go (.vslup 3 1 2 1 .w16) fun i => if y0 ≤ i then x (i - y0) else 0,
      go (.vsldn 3 1 2 1 .w16) fun i => if i + y0 < 128 then x (i + y0) else 0,
      go (.vslup 3 1 7 1 .w16) fun i => x i, go (.vsldn 3 1 7 1 .w16) fun i => x i,
      go (.vzip 3 1 2 1 .w16) fun i => if i % 2 = 0 then x (i / 2) else y ((i - 1) / 2),
      go (.vunzip 3 1 2 1 .w16) fun i => if i < 64 then x (2 * i) else y (2 * i - 128),
      go (.vmov 3 1 1 .w16) x, go (.vsplat 3 9 1 .w16) fun _ => 0xFACE, go (.viota 3 1 .w16) fun i => BitVec.ofNat 16 i,
      laneResult (.vsel 3 1 2 1 .w16) 3 0 16 (fun i => if lanes.active 1 i then x i else y i) (fun _ => 0),
      lanes.compute (queued (.vext 9 1 0 .w16) 130) == some (lanes, 0, some (9, (x 2).zeroExtend 64))] = true := by
  decide +kernel

/-- Integer reductions and the scan (06_vector.md R178, R179). -/
theorem test_integer_reductions :
    let x := fun i => (elem 8 lanes.v[1] i).toInt
    let act := fun i => (List.range i).filter fun j => lanes.active 1 j
    let one := fun (i : Instr) (v : BitVec 32) =>
      lanes.compute (queued i) == some ({ lanes with v := lanes.v.set 3 (v.zeroExtend 2048) }, 0, none)
    every [one (.vrsum 3 (.reg 1) 1 .i8) (BitVec.ofInt 32 (((act 256).map x).sum)),
      one (.vrand 3 (.reg 1) 1 .i8) ((act 256).foldl (fun v i => v &&& BitVec.ofInt 32 (x i)) (BitVec.allOnes 32)),
      one (.vror 3 (.reg 1) 1 .i8) ((act 256).foldl (fun v i => v ||| BitVec.ofInt 32 (x i)) 0),
      laneResult (.vscan 3 (.reg 1) 1 .i8) 3 1 8 (fun i => BitVec.ofInt 8 (((act (i + 1)).map x).sum)) fun _ => 0]
      = true := by decide +kernel

/-- The instruction joins the vector queue as the statements say. -/
def pushes (i : Instr) (s v : State) (t : Task) (cls : Machine.Class) (x y z : Word) (quarters : Nat) (b : Option Stream := none) :
    Bool :=
  let e : VEntry := { serial := v.clock + 1, instr := i, uid := t.uid, part := t.part, x := x, y := y, z := z,
                      quarters := quarters, cls := cls, bind := b }
  leads i s fun u => ((u.core 0).vq.map fun x => { x with far := false }) == (v.core 0).vq ++ [e] && (u.core 0).v == (v.core 0).v && (u.core 0).k == (v.core 0).k &&
    (u.core 0).q == (v.core 0).q && (u.core 0).mq == (v.core 0).mq && u.tasks == (v.putTask (t.count cls).past).tasks &&
    u.mem == v.mem && u.requests == v.requests

/-- The instruction joins the matrix queue as the statements say. -/
def pushesMatrix (i : Instr) (s : State) (t : Task) (x y z : Word) (sync : Bool) : Bool :=
  let e : MEntry := { serial := s.clock + 1, instr := i, uid := t.uid, part := t.part,
                      owner := ⟨t.domain, t.ctxid, t.launchid⟩, x := x, y := y, z := z, sync := sync }
  leads i s fun u => ((u.core 0).mq.map fun x => { x with far := false }) == (s.core 0).mq ++ [e] && (u.core 0).mctx == (s.core 0).mctx &&
    (u.core 0).vq == (s.core 0).vq && u.tasks == (s.putTask { t.past with mx := t.mx + 1 }).tasks && u.mem == s.mem

/-- An input stream over 12 vectors of scratchpad and an output stream. -/
def pipe : Stream :=
  { base := 0x100, cnt := #v[3, 2, 2], str := #v[256, 1024, 4096], output := false, buffer := [7, 9] }

/-- An output stream. -/
def drain : Stream := { pipe with output := true }

/-- `lanes` with streams bound, task `t` running, in `till`. -/
def shop (t : Task) : State :=
  { till t with cores := [(0, { lanes with q := ((Vector.replicate 8 none).set 1 (some pipe)).set 2 (some drain) })] }

/-- Vector instructions join the queue, stall at a full one, and trap at streams that do not fit (06_vector.md R158,
R159, R168; 07_scratchpad.md R193). -/
theorem test_vector_pushes :
    let t := loader.setG 7 0x1234
    let s := shop t
    let e := queued (.viota 1 0 .w32)
    let full : State := { s with cores := [(0, { lanes with vq := List.replicate 32 e })] }
    every [pushes (.vaddF (.reg 3) (.reg 1) 2 1 .bf16) s s t .none 0 0 0 4,
      pushes (.vrsum 3 (.stream 1) 1 .i8) s s t .none 0 0 0 4, pushes (.vneg (.stream 2) (.reg 1) 1 .f32) s s t .none 0 0 0 4,
      pushes (.vcvt (.stream 2) (.stream 1) .sat true true 1 .i8 .f32) s s t .none 0 0 0 4,
      traps (.vneg (.stream 1) (.reg 1) 1 .f32) s t 1, traps (.vrsum 3 (.stream 2) 1 .i8) s t 1, traps (.vrsum 3 (.stream 3) 1 .i8) s t 1,
      after (.knot 1 2) full == some (full.stall t .none), pushes (.vsplat 1 7 1 .w8) s s t .none 0x1234 0 0 4,
      pushes (.vext 9 1 7 .w8) s s t .ld 0x1234 0 0 4,
      pushes (.vrng 3 1 1) (shop { t with det := true, launchkey := 5 }) (shop { t with det := true, launchkey := 5 })
        { t with det := true, launchkey := 5 } .none 5 0 0 4,
      pushes (.vrng 3 1 1) (shop { t with launchid := 1 }) (shop { t with launchid := 1 }) { t with launchid := 1 } .none
        0xE71F4D836B2C95D1 0 0 4] = true := by decide +kernel

/-- A conversion under policy 11 joins the queue, waits there, and completes or traps (06_vector.md R174, R175). -/
theorem test_trapping_conversion :
    let t := loader
    let c : Core := { lanes with v := (lanes.v.set 4 0x3F8000003FC00000).set 5 0x7F800000 }
    let s : State := { shop t with cores := [(0, c)] }
    let i : Instr := .vcvt (.reg 6) (.reg 4) .trap false false 0 .i8 .f32
    let j : Instr := .vcvt (.reg 6) (.reg 5) .trap false false 0 .i8 .f32
    let e : VEntry := { serial := 1, instr := i, uid := 1, part := 0, quarters := 4, sync := true }
    let v := fun (e : VEntry) => { s with cores := [(0, { c with vq := [e] })] }
    let full : State := { s with cores := [(0, { c with vq := List.replicate 32 (queued (.viota 1 0 .w32)) })] }
    every [s.syncEntry t == none, c.streamsFit i, (c.convert (.reg 6) (.reg 5) .trap false false 0 .i8 .f32) == some none,
      leads i s fun u => (u.core 0).vq == [e] && (u.core 0).stalled && (u.core 0).v == c.v && (u.core 0).q == c.q &&
        u.tasks == s.tasks && u.mem == s.mem,
      after i full == some (full.stall t .none), (v e).syncEntry t == some e, after i (v e) == some ((v e).stall t .none),
      after j (v { e with instr := j, quarters := 0 }) ==
        some (trapState ((v { e with instr := j, quarters := 0 }).modEntry 0 1 fun _ => none) t 3),
      leads i (v { e with quarters := 0 }) fun u => (u.core 0).v == c.v.set 6 0x0102 && (u.core 0).k == c.k &&
        (u.core 0).vq == [] && u.task? 1 == some ({ t with fsr := 0 } : Task).past] = true := by decide +kernel

/-- Vector loads and stores join the queue or trap (07_scratchpad.md R198 to R203; 13_fabric.md R342). -/
theorem test_vector_memory_pushes :
    let t := ((loader.setG 7 0xFFFFFFFFFFFC0000).setG 8 8).setG 9 0x40300
    let s := shop t
    let u := ((loader.setG 7 0x40300).setG 8 0xFFF).setG 9 0xFFF
    let v := u.setG 9 0
    every [pushes (.vld 1 7 8 1 .w32) s s t .ld 0xFFFFFFFFFFFC0008 4 0 0, pushes (.vst 1 7 8 1 .w16) s s t .st 0xFFFFFFFFFFFC0008 2 0 0,
      traps (.vld 1 7 1 1 .w32) s t 2, traps (.vst 1 7 1 1 .w16) s t 2, pushes (.vld 1 7 1 1 .w8) s s t .ld 0xFFFFFFFFFFFC0005 1 0 0,
      pushes (.vlds 1 7 8 1 .w16) s s t .ld 0xFFFFFFFFFFFC0000 8 0 0, pushes (.vsts 1 7 8 1 .w16) s s t .st 0xFFFFFFFFFFFC0000 8 0 0,
      traps (.vlds 1 7 1 1 .w16) s t 2, traps (.vsts 1 1 7 1 .w16) s t 2,
      pushes (.vgath 1 7 2 1 .w32) s s t .ld 0xFFFFFFFFFFFC0000 8 0 0, pushes (.vscat 1 7 2 1 .w32) s s t .st 0xFFFFFFFFFFFC0000 8 0 0,
      traps (.vgath 1 1 2 1 .w32) s t 2, traps (.vscat 1 1 2 1 .w32) s t 2,
      traps (.vstc 1 7 8 1 .w32) s t 1, traps (.vscatc 1 7 2 1 .w32) s t 1,
      s.mayCount t 8 false == false, s.mayCount u 0xFFF false, pushes (.vstc 1 7 8 1 .w32) (shop u) (shop u) u .fb 0x40300 4 0xFFF 0,
      pushes (.vscatc 1 7 2 1 .w32) (shop u) (shop u) u .fb 0x40300 0xFFF 0xFFF 0, traps (.vscatc 1 7 2 1 .w32) (shop v) v 1, pushes (.vldzBf16 1 7 1) s s t .ld 0xFFFFFFFFFFFC0000 0 0 0,
      traps (.vldzBf16 1 1 1) s t 2, traps (.vstzBf16 1 1 1) s t 2,
      after (.vldzBf16 1 7 1) (shop { t with ld := 62 }) == some ((shop { t with ld := 62 }).stall { t with ld := 62 } .none)] = true := by decide +kernel

/-- `VSTZ` joins the queue, waits until its record's capacity is known, and goes on or traps (07_scratchpad.md R202); a
store with an element homed in another package is counted in `fb` (05_tasks.md R143). -/
theorem test_sparse_and_far_stores :
    let t := ((loader.setG 7 0x50000).setG 8 8).setG 9 0x40300
    let s := shop t
    let c := s.core 0
    let e : VEntry := { serial := 1, instr := .vstzBf16 1 9 1, uid := 1, part := 0, x := 0x40300, quarters := 0, cls := .st,
                        sync := true }
    let n := ((List.range 128).filter fun i => c.active 1 i && (elem 16 c.v[1] i) != 0#16).length
    let z := fun (k : Option Nat) => { s with cores := [(0, { c with vq := [{ e with capacity := k }] })] }
    every [n == 12, s.syncEntry t == none,
      leads (.vstzBf16 1 9 1) s fun u => (u.core 0).vq == [e] && (u.core 0).stalled && u.tasks == [{ t with st := 1 }] &&
        u.mem == s.mem,
      after (.vstzBf16 1 9 1) (z none) == some ((z none).stall t .none),
      after (.vstzBf16 1 9 1) (z (some 11)) ==
        some (trapState ((z (some 11)).modEntry 0 1 fun _ => none) (t.uncount .st) 4),
      leads (.vstzBf16 1 9 1) (z (some 12)) fun u => u.tasks == [t.past] && u.mem == s.mem &&
        (u.core 0).vq == [{ e with capacity := some 12, sync := false }],
      s.homedElsewhere t 0x50000, !s.homedElsewhere t 0x40000, pushes (.vst 1 7 0 0 .w16) s s t .fb 0x50000 2 0 0,
      pushes (.vsts 1 7 8 0 .w16) s s t .fb 0x50000 8 0 0,
      pushes (.vscat 1 7 2 0 .w8) (shop (t.setG 8 0x100)) (shop (t.setG 8 0x100)) (t.setG 8 0x100) .fb 0x50000 0x100 0 0,
      leads (.vstzBf16 1 7 1) s fun u => (u.core 0).vq == [{ e with instr := .vstzBf16 1 7 1, x := 0x50000, cls := .fb, far := true }]]
      = true := by decide +kernel

/-- Stream operands consume, produce, wait and pass the end (07_scratchpad.md R190, R193). -/
theorem test_stream_operands :
    let c : Core := { lanes with q := (Vector.replicate 8 none).set 1 (some pipe) }
    let w := fun x : Stream => { c with q := c.q.set 1 (some x) }
    let out : Stream := { pipe with output := true, buffer := [1, 2, 3] }
    every [c.source (.stream 1) == some (w { pipe with pos := 1, buffer := [9] }, 7),
      (w { pipe with buffer := [] }).source (.stream 1) == none, pipe.total == 12,
      (w { pipe with pos := 12 }).source (.stream 1) == some (w { pipe with pos := 13, beyond := true }, 0),
      (w { pipe with pos := 11 }).source (.stream 1) == some (w { pipe with pos := 12, buffer := [9] }, 7),
      (w out).deliver 5 (.stream 1) == some (w { out with pos := 1, buffer := [1, 2, 3, 5] }),
      (w { out with buffer := [1, 2, 3, 4] }).deliver 5 (.stream 1) == none,
      (w { out with pos := 12 }).deliver 5 (.stream 1) == some (w { out with pos := 13, beyond := true }),
      pipe.addr (2 + 3 * (1 + 2 * 1)) == 0x100 + 2 * 256 + 1024 + 4096] = true := by decide +kernel

/-- `QBIND`, `QSTAT`, `QFLUSH` (07_scratchpad.md R191, R194, R195). -/
theorem test_stream_instructions :
    let t := (loader.setG 7 0x40300).setG 9 0x40320
    let d := 0x100 + 3 * 2 ^ 64 + 2 * 2 ^ 80 + 2 * 2 ^ 96 + 256 * 2 ^ 128
    let s := ((shop t).pokeNat 0x40300 32 d).pokeNat 0x40320 32 (d + 2 ^ 150)
    let v := s.taskRead t .load 0x40300 4
    let bs := match v.2 with | .bytes x => x | _ => []
    let p := (parseStream bs).getD pipe
    let z := { s with cores := [(0, { s.core 0 with vq := [queued (.viota 1 0 .w32)] })] }
    every [traps (.qbind 3 4) s { t with pc := 0 } 2 == false, traps (.qbind 3 1) s t 2,
      (parseStream bs).isSome, 0 ≤ p.extent.1, p.extent.2 ≤ 0x3FFFF, v.1.segmentsOf 0 p.extent.1.toNat p.extent.2.toNat 0,
      pushes (.qbind 3 7) s v.1 t .none 0 0 0 0 (some p), after (.qstat 9 1) z == some (z.stall t .none),
      completes (.qstat 9 3) s (t.setG 9 0), completes (.qstat 9 1) s (t.setG 9 0x8000000000000000),
      leads (.qstat 9 2) s fun u => u.task? 1 == some (t.setG 9 0xC000000000000000).past,
      pushes (.qflush 1) s s t .none 0 0 0 0] = true := by decide +kernel

/-- Matrix instructions join the queue, trap, stall (08_matrix.md R212, R217 to R229). -/
theorem test_matrix_pushes :
    let t := ((((loader.setG 7 0xFFFFFFFFFFFC0040).setG 8 1).setG 9 0x40000).setG 10 0xFFFFFFFFFFFFFFFF).setG 11 64
    let s := shop t
    let full : State := { s with cores := [(0, { lanes with mq := List.replicate 16 { serial := 1, instr := .mzero 1, uid := 1, part := 0, owner := ⟨0, 0, 0⟩ } })] }
    every [validContext 0, pushesMatrix (.mctx 0) s t 0 0 0 false, traps (.mctx 10) s t 1, pushesMatrix (.mprog 7) s t 0xFFFFFFFFFFFC0040 0 0 false,
      traps (.mprog 1) s t 2, pushesMatrix (.mscale 7 9) s t 0xFFFFFFFFFFFC0040 0x40000 0 false, traps (.mscale 7 8) s t 2,
      pushesMatrix (.mzero 1) s t 0 0 0 false, pushesMatrix (.mldb 7) s t 0xFFFFFFFFFFFC0040 0 0 false, traps (.mldb 8) s t 2,
      pushesMatrix (.mldc 1 7 9) s t 0xFFFFFFFFFFFC0040 0x40000 0 false, traps (.mldc 1 7 8) s t 2, traps (.mst 1 8 7) s t 2,
      ctxOvp ((s.core 0).pushedWord s.clock) == .sat, pushesMatrix (.mst 1 7 9) s t 0xFFFFFFFFFFFC0040 0x40000 0 false,
      traps (.mma 1 7 0 9) s t 1, traps (.mma 1 7 10 9) s t 1, traps (.mma 1 8 8 9) s t 2,
      s.operandFits t 0 0xFFFFFFFFFFFC0040 1 64, pushesMatrix (.mma 1 7 8 11) s t 0xFFFFFFFFFFFC0040 1 64 false,
      !(s.operandFits t 0 0xFFFFFFFFFFFFFFC0 1 64), after (.mma 1 10 8 11) s != none,
      pushesMatrix .mring s t 0 0 0 false, traps .mring { s with dies := [(0, { mrallot := 1 })] } t 1,
      pushesMatrix (.mchk 1 8 9 true true) s t 1 0 0 true, traps (.mchk 1 10 9 true true) s t 1,
      after (.mzero 1) full == some (full.stall t .none)] = true := by decide +kernel

/-- `loader` with a scratchpad source, a scratchpad destination and a length in `g7` to `g9`. -/
def carrier : Task := ((loader.setG 7 0xFFFFFFFFFFFC0200).setG 8 0xFFFFFFFFFFFC0040).setG 9 128

/-- The copy instructions push, trap, stall; bindings, watermark, cancel (12_copy.md R306 to R319). -/
theorem test_copies :
    let t := carrier
    let s := pantry t
    let k : Copy := { serial := 0, uid := 1, op := .plain, dst := 0xFFFFFFFFFFFC0200, src := 0xFFFFFFFFFFFC0040, len0 := 128 }
    let pushed := fun (s : State) (k : Copy) =>
      let z : Copy := { k with serial := s.clock + 1, uid := 1 }
      ({ s with clock := s.clock + 1 }.modChan 0 3 fun y => { y with copies := y.copies ++ [z] }).putTask { t.past with cp := 1 }
    let full := s.modChan 0 3 fun y => { y with copies := List.replicate 16 k }
    let bound := s.modChan 0 3 fun y => { y with bound := some (0xFFFFFFFFFFFC0200, 128), wm := 0xFFFFFFFFFFFC0220 }
    let out := (s.failLaunch 0 0 2 0x05 0).discardTasks fun u => u.uid == 1
    let e : Task := { (t.setG 10 (2 ^ 20)).setG 11 (2 ^ 41) with ranges := [] }
    let half : Copy := { k with serial := 7, pos := 64, begun := true }
    let sent : State := { (s.modChan 0 3 fun y => { y with copies := [half, k] }).putTask { t with cp := 2 } with
      fab := { s.fab with out := [⟨1, s.who t, .resyncAck 0 0, .cp, 7⟩] } }
    every [s.openSpan t spanFuel 0xFFFFFFFFFFFC0200 128, after (.cpy 3 7 8 9) s == some (pushed s k), traps (.cpy 3 7 8 0) s t 1,
      traps (.cpy 3 7 8 11) (pantry e) e 1, (pantry e).openSpan e spanFuel 0xFFFFFFFFFFFC0200 (2 ^ 20) == false,
      after (.cpy 3 7 8 10) (pantry e) == some (((pantry e).failLaunch 0 0 2 0x05 0).discardTasks fun u => u.uid == 1),
      after (.cpy 3 7 8 9) full == some (full.stall t .none), out.tasks == [],
      after (.cpybind 3 7 9) s == some ((State.modChan { s with clock := s.clock + 1 } 0 3 fun y =>
        { y with bound := some (0xFFFFFFFFFFFC0200, 128), stamp := s.clock + 1, wm := 0xFFFFFFFFFFFC0200, written := [] }).putTask
          t.past),
      traps (.cpybind 3 1 9) s t 2, traps (.cpybind 3 7 1) s t 2, traps (.cpybind 3 0 9) s t 1,
      after (.cpybind 3 7 9) full == some (full.stall t .none),
      leads (.cpybind 3 7 0) bound fun w => (w.chan 0 3).bound == none && w.tasks == (s.putTask t.past).tasks,
      completes (.cpywm 3 10) bound (t.setG 10 0xFFFFFFFFFFFC0220), completes (.cpywm 2 10) bound (t.setG 10 0),
      leads (.cpycan 3) (full.putTask { t with cp := 16 }) fun w => (w.chan 0 3).copies == [] && w.task? 1 == some t.past,
      leads (.cpycan 3) sent fun w => (w.core 0).stalled && (w.chan 0 3).copies == [{ half with stopAt := some 64 }] &&
        w.task? 1 == some { t with cp := 1, wait := .cancelled 3 7 },
      after (.cpycan 3) (sent.putTask { t with wait := .cancelled 3 7 }) ==
        some ((sent.putTask { t with wait := .cancelled 3 7 }).stall t (.cancelled 3 7)),
      completes (.cpycan 3) (s.putTask { t with wait := .cancelled 3 7 }) { t with wait := .cancelled 3 7 }] = true := by decide +kernel

/-- `CPY2D` and `CPYEC` under their descriptors (12_copy.md R308, R309, R318, R319). -/
theorem test_copy_descriptors :
    let t := (carrier.setG 10 0x40300).setG 11 0x40320
    let s := fun d : Nat => (pantry t).pokeNat 0x40300 64 d
    let w := fun (d n : Nat) => ((s d).taskRead t .load 0x40300 n).1
    let pushed := fun (s : State) (k : Copy) =>
      let z : Copy := { k with serial := s.clock + 1, uid := 1 }
      ({ s with clock := s.clock + 1 }.modChan 0 3 fun y => { y with copies := y.copies ++ [z] }).putTask { t.past with cp := 1 }
    let ok := 16 + 2 * 2 ^ 32 + 3 * 2 ^ 48 + 64 * 2 ^ 64 + (2 ^ 64 - 32) * 2 ^ 192
    let k : Copy := { serial := 0, uid := 1, op := .plain, dst := 0xFFFFFFFFFFFC0200, src := 0xFFFFFFFFFFFC0040, len0 := 16,
                      cnt1 := 2, cnt2 := 3, sstr1 := 64, dstr1 := -32 }
    let ec := 64 + 7 * 2 ^ 40
    let p : Copy := { serial := 0, uid := 1, op := .parity 7 none, dst := 0xFFFFFFFFFFFC0200, src := 0xFFFFFFFFFFFC0040,
                      len0 := 64 }
    let q : Copy := { p with op := .parity 7 (some 0xFFFFFFFFFFFC0080) }
    let far := ec + 2 ^ 48 + 0xFFFFFFFFFFFC0080 * 2 ^ 64
    let refused := fun (i : Instr) (d : Nat) => leads i (s d) fun u => u.task? 1 == some (t.enterHandler 1)
    every [after (.cpy2d 3 7 8 10) (s ok) == some (pushed (w ok 8) k), traps (.cpy2d 3 7 8 11) (s ok) t 2,
      refused (.cpy2d 3 7 8 10) (ok + 2 ^ 320), refused (.cpy2d 3 7 8 10) 16,
      after (.cpyec 3 7 8 10) (s ec) == some (pushed (w ec 4) p), traps (.cpyec 3 7 8 1) (s ec) t 2,
      leads (.cpyec 3 7 8 10) (s far) fun u => ((u.core 0).chans[3]).copies == [{ q with serial := 1 }],
      refused (.cpyec 3 7 8 10) (far - 2 ^ 48),
      leads (.cpyec 3 7 1 10) (s ec) fun u => u.task? 1 == some (t.enterHandler 2),
      gfmul 0x80 2 == 0x1D, gfmul 3 7 == 9] = true := by decide +kernel

/-- An engine moves 64 bytes within a scratchpad (12_copy.md R305, R306, R310). -/
theorem test_copy_moves :
    let t := { carrier with cp := 1 }
    let c : Copy := { serial := 7, uid := 1, op := .plain, dst := 0xFFFFFFFFFFFC0200, src := 0xFFFFFFFFFFFC0000, len0 := 128 }
    let s := fun n : Nat => (pantry t).modChan 0 3 fun y => { y with copies := [{ c with len0 := n }] }
    let same := fun (u : State) => (List.range 64).all fun i =>
      u.byte (scratchKey 0 (0x200 + i)) == (s 64).byte (scratchKey 0 i)
    every [leads (.copyEngineCycle 0 0) (s 128) fun u => same u && u.byte (scratchKey 0 0x210) == 0x88 &&
        (u.chan 0 3).copies == [{ c with pos := 64, begun := true }] && u.tasks == (s 128).tasks && u.byte (scratchKey 0 0x240) == 0 &&
        u.byte (scratchKey 0 0x10) == 0x88,
      leads (.copyEngineCycle 0 0) (s 64) fun u => same u && (u.chan 0 3).copies == [] &&
        u.tasks == ((s 64).modTask 1 fun x => { x with cp := 0 }).tasks,
      after (.copyEngineCycle 0 1) (s 64) == some (s 64), (s 64).enginesRun 0, (0, 3) ∈ engineChannels 0 0] = true := by
  decide +kernel

/-- A ring of 256 bytes at 0x1000 of core 0's scratchpad, TAIL and HEAD given. -/
def postbox (t : Task) (tail head : Nat) : State :=
  (pantry t).pokeNat (scratchKey 0 0x1000) 24 (tail + head * 2 ^ 32 + 256 * 2 ^ 64)

/-- `SEND`, placement, a held message, and `RECV` (07_scratchpad.md R204 to R209). -/
theorem test_mailbox :
    let t := (((loader.setG 7 0xFFFFFFFFFFFC1000).setG 8 0xFFFFFFFFFFFC0010).setG 9 8).setG 10 0xFFFFFFFFFFFC2000
    let s := postbox t 64 0
    let key := scratchKey 0 0x1000
    let e : SendEntry := { who := s.who t, ring := key, payload := leBytes 8 0xFFEEDDCCBBAA9988, order := 1 }
    let full := s.modCore 0 fun c => { c with sends := [e, e, e, e] }
    let p := s.modCore 0 fun c => { c with sends := [e] }
    let c := (postbox t 256 16).modCore 0 fun c => { c with sends := [e] }
    let g := (postbox t 32 0).pokeNat (key + 64) 16 (8 + 16 * 2 ^ 16 + 3 * 2 ^ 35 + 0x1122334455667788 * 2 ^ 64)
    let n := t.setG 9 4
    let slow : State := { s with requests := [⟨s.who t, 0, 0x40100, .store [1], .none, none, 0, [], 0⟩] }
    every [traps (.send 0 7 8) s t 1, traps (.send 10 7 8) s t 1, traps (.send 9 8 8) s t 2, traps (.send 9 7 1) s t 2,
      after (.send 9 7 8) s == some (({ s with clock := 1 }.modCore 0 fun c => { c with sends := [e] }).putTask t.past),
      after (.send 9 7 8) full == some (full.stall t .none), after (.send 9 7 8) slow == some (slow.stall t .none),
      after (.recv 9 7 10) (g.putTask (t.setG 9 0x3F000)) == some ((g.putTask (t.setG 9 0x3F000)).softwareError (t.setG 9 0x3F000) 5),
      traps (.recv 9 7 10) ((g.pokeNat (key + 8) 4 7)) t 1, s.ring key == some ⟨64, 0, 256, false⟩,
      leads (.mailboxPlacement 0 0) p fun u => (u.core 0).sends == [] && u.word (key + 128) 8 == 8 + 16 * 2 ^ 16 &&
        u.bytes (key + 136) 8 == e.payload && u.word key 4 == 80 && u.word (key + 4) 4 == 0 && u.byte (key + 144) == 0,
      leads (.mailboxPlacement 0 0) c fun u => (u.core 0).sends == [] && u.word (key + 64) 8 == 8 + 16 * 2 ^ 16,
      leads (.mailboxPlacement 0 0) ((postbox t 256 8).modCore 0 fun c => { c with sends := [e] }) fun u =>
        (u.core 0).sends == [{ e with held := true }] && u.mem == (postbox t 256 8).mem,
      leads (.ringFullTimeout 0 0) (s.modCore 0 fun c => { c with sends := [{ e with held := true }] }) fun u =>
        (u.core 0).sends == [{ e with held := true, fullDone := true }] && u.word (key + 16) 1 == 1 && u.word (key + 24) 4 == 1,
      traps (.recv 9 8 10) s t 2, traps (.recv 9 7 1) s t 2,
      after (.recv 9 7 10) (postbox t 64 64) == some ((postbox t 64 64).park t .mbox (.mailbox (BitVec.ofNat 64 key))),
      leads (.recv 9 7 10) g fun u => u.task? 1 == some (t.setG 9 (8 + 3 * 2 ^ 20)).past &&
        u.bytes (scratchKey 0 0x2000) 8 == leBytes 8 0x1122334455667788 && u.word (key + 4) 4 == 16,
      leads (.recv 9 7 10) (g.putTask n) fun u => u.task? 1 == some (n.setG 9 (8 + 2 ^ 16 + 3 * 2 ^ 20)).past &&
        u.bytes (scratchKey 0 0x2000) 8 == leBytes 8 0x55667788] = true := by decide +kernel

/-- A task but for what it has seen of others' writes. -/
def alike (w t : Task) : Bool := w == { t with seen := w.seen, floor := w.floor, sources := w.sources }

/-- The instruction completes, with the task as given but for what it has seen of others' writes. -/
def settles (i : Instr) (s : State) (t : Task) : Bool :=
  leads i s fun u => (u.task? t.uid).any fun w => alike w t.past && u == s.putTask w

/-- Fences, barriers, phases, event lines (11_order.md R291 to R301; 05_tasks.md R152, R153). -/
theorem test_order :
    let t := worker.setG 4 (2 * 2 ^ 24 + 3)
    let s := alone t
    let q : Request := ⟨s.who t, 0, 0x40100, .store [1], .none, none, 0, [], 0⟩
    let busy : State := { s with requests := [q] }
    let x : Task := { second with status := .running, wait := .barrier, arrival := some ⟨.quad, some 3, false⟩, sid := 16 }
    let pair : State := { s with tasks := [t, x], cores := [(0, { running := some 1 }), (1, { running := some 2, stalled := true })] }
    let two := pair.setBarrier t .quad 3 ⟨2, [2]⟩
    let own : State := (alone (t.setG 4 (1 * 2 ^ 24 + 3)))
    let ln : State := s.setQuad 0 { s.quad 0 with lines := (s.quad 0).lines.set 5 2 }
    every [settles (.fence .acq .sys) busy t, settles (.fence .ar .sys) s (t.fenced .sys),
      completes (.fence .rel .core) s (t.fenced .core),
      after (.fence .rel .core) busy == some (busy.stall t .none),
      after (.bar 0 .core) s == some (s.stall { t with bar := 1, arrival := some ⟨.core, none, false⟩ } .barrier),
      after (.bar 0 .core) (alone { t with mx := 1 }) == some ((alone { t with mx := 1 }).stall { t with mx := 1 } .none),
      after (.bar 0 .core) busy == some (busy.stall t .none),
      s.explicitBarrier t .quad (t.greg 4).toNat == some (3, 2), traps (.bar 1 .core) s t 1, traps (.bar 4 .pod) s t 1,
      after (.bar 4 .quad) s == some ((s.setBarrier t .quad 3 ⟨2, [1]⟩).stall
        { t with arrival := some ⟨.quad, some 3, false⟩ } .barrier),
      leads (.bar 4 .quad) two fun u => ((u.task? 1).any fun w => alike w { t.past with events := 1 }) &&
        u.task? 2 == some { x with arrival := some ⟨.quad, some 3, true⟩ } && (u.barrierAt t .quad 3).arrived == [],
      traps (.bar 4 .quad) (two.setBarrier t .quad 3 ⟨3, [2]⟩) t 1,
      leads (.bar 4 .quad) own fun u => ((u.task? 1).any fun w => alike w { (t.setG 4 (1 * 2 ^ 24 + 3)).past with events := 1 }),
      after (.phase .core) s == some (s.park { t.advance with phase := 1, bar := 0 } .dep (.phase .core 0)),
      after (.phase .core) (alone { t with fb := 1 }) == some ((alone { t with fb := 1 }).stall { t with fb := 1 } .none),
      leads (.evsig 5) s fun u => u.tasks == (s.putTask t.past).tasks && (u.quad 0).lines[5] == 1 && u.cores == s.cores,
      traps (.evsig 5) (s.setQuad 0 { s.quad 0 with evallot := 2 ^ 20 }) t 1,
      settles (.evwait 5) (ln.setQuad 0 { ln.quad 0 with lines := (ln.quad 0).lines.set 5 0 }) t == false,
      leads (.evwait 5) ln fun u => (u.quad 0).lines[5] == 1 && (u.task? 1).any fun w => alike w { t.past with events := 1 },
      after (.evwait 5) s == some ({ s with clock := 1 }.stall t (.event 5 0))] = true := by decide +kernel

/-- A barrier and a phase that others have not reached, and that they have; messages of other packages (11_order.md
R293, R295, R303). -/
theorem test_barrier_completion :
    let t := worker
    let one : Task := { t with bar := 1, wait := .barrier, arrival := some ⟨.core, none, false⟩ }
    let told : Task := { one with arrival := some ⟨.core, none, true⟩ }
    let late : Task := { second with bar := 0 }
    let goneOn := fun (u : State) => ((u.task? 1).any fun w => alike w { t.past with bar := 1 }) && !(u.core 0).stalled
    let stays := fun (i : Instr) (w : State) (x : Task) => leads i w fun u =>
      u.task? 1 == some x && u.cores == w.cores && u.mem == w.mem
    let both := fun (x : Task) => ({ alone x with tasks := [x, late] } : State)
    let p : Task := { t with wait := .phase .core 0, status := .parked .dep, phase := 1 }
    let w : State := { State.reset with tasks := [p] }
    let m : BarrierMsg := ⟨0, 0, false, 0, 1, .arrive, []⟩
    every [leads (.barrierComplete 1) (alone one) goneOn, leads (.barrierComplete 1) (both told) goneOn,
      stays (.barrierComplete 1) (both one) one, after (.bar 0 .core) (both one) == some ((both one).stall one .barrier),
      settles (.bar 0 .core) (both told) { told with arrival := none },
      leads (.phaseProbeComplete 1) w fun u => (u.core 0).ready == [1] &&
        (u.task? 1).any fun y => alike y { p with wait := .none, status := .ready },
      stays (.phaseProbeComplete 1) { State.reset with tasks := [p, late] } p,
      leads (.barrierControlMessage ⟨1, 0⟩ m) (alone t) fun u => u.podArrivals == [(1, m)] && u.tasks == [t],
      leads (.barrierControlMessage ⟨1, 0⟩ (m.about .withdraw)) { alone t with podArrivals := [(1, m)] } fun u =>
        u.podArrivals == [],
      after (.barrierControlMessage ⟨1, 3⟩ m) (alone t) == some (alone t)] = true := by decide +kernel

/-- `pantry` with channel 5 allotted to partition 0 and opened both ways by context 0; `g7` = 5, `g8` a configuration. -/
def pier (t : Task) : State :=
  let s := pantry t
  { s with fab := { s.fab with allot := [(5, 0x80), (6, 0x81)], opened := [(5, ⟨0, 3, 1000⟩)] } }

/-- Channel instructions (13_fabric.md R331, R339 to R342). -/
theorem test_channels :
    let t := ((((loader.setG 7 5).setG 8 0x00640001).setG 9 6).setG 10 0xFFE).setG 11 0x00400001
    let s := pier t
    let o := fun (x : State) (l : Table ChanOpen) => { x with fab := { x.fab with opened := l } }
    let m : OutMsg := ⟨1, s.who t, .counted ⟨s.who t, [(0x50020, [1])]⟩ ⟨5, 0, 0⟩, .none, 0⟩
    let full := { s with fab := { s.fab with out := [m] } }
    let status := fun (b : Word) => { s with fab := { s.fab with senders := [], receivers := [] } } |>.chanStatus t 5 0 (b != 0)
    every [traps (.chopen 10 8 12) s t 1, traps (.chclose 10) s t 1, traps (.chstat 10 0 12) s t 1, traps (.chopen 7 0 12) s t 1,
      traps (.chopen 7 1 12) s t 1, completes (.chopen 9 8 12) s (t.setG 12 1),
      leads (.chopen 7 8 12) (o s []) fun u => u.tasks == (s.putTask (t.setG 12 0).past).tasks && u.fab.opened == [(5, ⟨0, 1, 100⟩)],
      leads (.chopen 7 8 12) s fun u => u.tasks == (s.putTask (t.setG 12 3).past).tasks && u.fab.opened == [(5, ⟨0, 1, 100⟩)],
      completes (.chopen 7 8 12) (o s [(5, ⟨1, 3, 1000⟩)]) (t.setG 12 2),
      leads (.chclose 7) s fun u => u.tasks == (s.putTask t.past).tasks && u.fab.opened == [],
      leads (.chclose 7) (o s [(5, ⟨1, 3, 1000⟩)]) fun u => u.fab.opened == [(5, ⟨1, 3, 1000⟩)],
      after (.chclose 7) full == some (full.stall t .none), traps (.chstat 7 10 12) s t 1,
      completes (.chstat 7 0 12) s (t.setG 12 0x6000000000000000), completes (.chstat 9 0 12) s (t.setG 12 0), status 1 == status 0,
      completes (.chstat 7 12 13) (full.putTask (t.setG 12 0x8000000000000001)) ((t.setG 12 0x8000000000000001).setG 13
        0x6001000000000000)] = true := by decide +kernel

/-- Counted stores and flags leave with their stamps (13_fabric.md R331, R342). -/
theorem test_counted_sends :
    let t := (loader.setG 7 5).setG 8 0xFFF
    let s := pier t
    let c := s.checked t .other .store 0x50020 8 8
    let v := c.1
    let bs := leBytes 8 7
    every [c.2.isOk, s.mayCount t 5 false, s.mayCount t 5 true, s.mayCount t 0xFFF false, !(s.mayCount t 0xFFF true),
      traps (.stc 6 2 1 .d) (pier ((t.setG 1 6))) (t.setG 1 6) 1, traps (.flagw 6 2 8) s t 1,
      after (.stc 6 2 8 .d) s == some ((v.send 1 (v.who t) (.store ⟨v.who t, [(0x50020, bs)]⟩) .fb).putTask
        { t.past with fb := 1 }),
      leads (.stc 6 2 7 .d) s fun u => (u.sender 5 1).sent == 1 && (u.sender 5 1).ep == 0 &&
        u.tasks == (v.putTask { t.past with fb := 1 }).tasks &&
        u.fab.out == [⟨1, v.who t, .counted ⟨v.who t, [(0x50020, bs)]⟩ ⟨5, 0, 0⟩, .fb, 0⟩],
      leads (.flagw 6 2 7) s fun u => (u.sender 5 1).ep == 1 && (u.sender 5 1).sent == 0 &&
        u.fab.out == [⟨1, v.who t, .flag ⟨v.who t, ⟨5, 0, 0⟩, 0, 0x50020, 7⟩, .fb, 0⟩]] = true := by decide +kernel

/-- Arriving counted traffic, held flags and resynchronisation (13_fabric.md R332, R335, R337, R338, R345, R346). -/
theorem test_counted_arrivals :
    let s := pier loader
    let w := s.who loader
    let st := fun (a : Nat) (c : Count) => Instr.storeCounted 1 ⟨w, [(a, [1, 2])]⟩ c
    let at0 := scratchKey 0 0x200
    let q : Request := ⟨w, packageIndex 1, 0x40200, .store [1, 2], .none, some (whoTag w), 0, [], 0⟩
    let word : Request := { q with pa := 0x40208, op := .store (leBytes 8 77) }
    let f : FlagMsg := ⟨w, ⟨5, 0, 0⟩, 0, 0x40208, 77⟩
    let h : HeldFlag := ⟨1, { f with count := 3 }, s.clock, false⟩
    let held := { s with fab := { s.fab with hold := [h] } }
    let x := s.receiver 5 1
    let y := s.setSender 5 1 { sent := 4, gen := 2, resync := true, base := (3, 9) }
    every [after (st 0x40200 ⟨6, 0, 0⟩) s == some s.countMisuse,
      leads (st 0x40200 ⟨5, 0, 0⟩) s fun u => u.mem == s.mem && u.queued == [q] && u.receiver 5 1 == { x with d := 1 },
      leads (st at0 ⟨5, 0, 0⟩) s fun u => u.bytes at0 3 == [1, 2, 0] && u.queued == [] && u.tag at0 == whoTag w &&
        u.receiver 5 1 == { x with d := 1 },
      leads (st 0x40200 ⟨5, 1, 0⟩) s fun u => u.queued == [q] && u.receiver 5 1 == x,
      leads (st 0x40200 ⟨5, 0, 127⟩) s fun u => (u.receiver 5 1).d == 0 && (u.receiver 5 1).pending 127 == 1,
      leads (st 0x40200 ⟨5, 0, 128⟩) s fun u => u.receiver 5 1 == { x with d := 1 },
      after (.flag 1 { f with stamp := ⟨5, 1, 0⟩ }) s == some s,
      after (.flag 1 { f with count := 3 }) s == some { held with clock := s.clock + 1 },
      leads (.flag 1 f) (s.setReceiver 5 1 { pend := [(1, 6)] }) fun u => u.queued == [word] && u.fab.hold == [] && (u.receiver 5 1).ep == 1 && (u.receiver 5 1).d == 6,
      leads (.holdTimeout 5 1) held fun u => (u.receiver 5 1).stalled && u.tasks == s.tasks &&
        u.fab.out.any fun m => m.dst == 1 && m.msg == .stall ⟨⟨5, 0, 0⟩, 3, 0⟩,
      leads (.resync ⟨1, 0⟩ ⟨5, 1, 8, 9⟩) held fun u => u.receiver 5 1 == { d := 8, gen := 1, ep := 9 } && u.heldOf 5 1 == [] &&
        (u.fab.out.any fun m => m.dst == 1 && m.msg == .resyncAck 5 1),
      after (.resync ⟨1, 0⟩ ⟨5, 0, 8, 9⟩) s == some (s.send 1 (s.chanWho 5) (.resyncAck 5 0)),
      after (.resync ⟨1, 3⟩ ⟨5, 0, 8, 9⟩) s == some s,
      after (.resyncAck ⟨1, 0⟩ 5 2) y == some (y.setSender 5 1 { sent := 4, gen := 2, resync := false, base := (3, 9) }),
      after (.resyncAck ⟨1, 4⟩ 5 2) y == some y,
      after (.resyncResend 5 1) y == some (y.send 1 (y.chanWho 5) (.resync ⟨5, 2, 3, 9⟩)),
      after (.resyncAck ⟨1, 0⟩ 5 3) y == some y, after (.resyncResend 5 1) s == some s] = true := by decide +kernel

/-- STALL: ignored, answered with RESYNC, resynchronised, without a domain, out of replays, replayed (13_fabric.md
R335 to R337, R345; 14_containment.md R365). -/
theorem test_stall :
    let d : Dom :=
      { id := 7, ctxid := 0, launch := 3, record := 0x40800, parent := 0, depth := 1, esc := 7, replays := 2, ranges := [],
        save := 0, snapshot := true, root := 0x40400, rootDie := 0, rootPrio := 0, rootSeq := 0, rootPhase := 0, rootBar := 0,
        rootAg := 0 }
    let s := fun (d : Dom) (p : SendPair) => State.setSender { pier { loader with domain := 7 } with doms := [d] } 5 1 p
    let p : SendPair := { sent := 4, flags := 2, log := [⟨1, 0, 7, 3⟩], bases := [⟨0, 7, 3, 0, true⟩] }
    let m : StallMsg := ⟨⟨5, 0, 1⟩, 3, 2⟩
    let i := Instr.stall ⟨1, 0⟩ m
    let r := { p with resync := true, gen := 2, base := (3, 9) }
    every [after (.stall ⟨1, 3⟩ m) (s d p) == some (s d p), after (.stall ⟨1, 0⟩ { m with stamp := ⟨5, 1, 1⟩ }) (s d p) == some (s d p),
      after i (s d r) == some ((s d r).send 1 ((s d r).chanWho 5) (.resync ⟨5, 2, 3, 9⟩)),
      after i (s d { p with resync := true }) == some (s d { p with resync := true }),
      after i (s d { p with log := [] }) == some ((s d { p with log := [] }).resyncPair 5 1 4 2 fun _ _ => false),
      after i (s d { p with log := [⟨1, 0, 0, 3⟩] }) == some ((s d { p with log := [⟨1, 0, 0, 3⟩] }).hwerr 0 3),
      after i (s d { p with bases := [] }) == some ((s d { p with bases := [] }).hwerr 0 3),
      after i (s { d with replays := 0 } p) == some ((s { d with replays := 0 } p).failLaunch 0 3 3 0 0),
      (s d p).tasks.map (·.domain) == [7],
      leads i (s d p) fun u => u == (s d p).replay 0 7 .check false && u.tasks == [] &&
        (u.dom? 0 7).any fun y => y.replays == 1] = true := by decide +kernel

/-- Messages of other packages and their replies (09_memory.md R253, R263; 10_atomics.md R275, R277; 13_fabric.md
R345). -/
theorem test_remote_messages :
    let t := { loader with status := .parked .remote }
    let s : State := { pantry t with cores := [] }
    let w := s.who t
    let old := { w with epoch := 1 }
    let p : Packet := ⟨w, 1, 0, 0, [8], [], 0, 0x40100, 0x40100, true⟩
    let ready := fun (s : State) (x : Task) => (s.putTask { x with wait := .none, status := .ready }).modCore 0 fun c =>
      { c with ready := [1] }
    let wait := fun (x : Wait) => s.putTask { t with wait := x }
    let got := fun (i : Instr) (v : State) (x : Task) => leads i v fun u => (u.task? 1).any fun y =>
      alike y { x with wait := .none, status := .ready } && u == ready v y
    let q : Request := ⟨w, packageIndex 1, 0x40100, .combine .add .d 5, .none, some (whoTag w), 0, [], 0⟩
    let l : Lane := { lane := 3, x := 0 }
    let z : Task := { t with chain := some ⟨.scalar 9, [8], [l]⟩, wait := .chain }
    let e : Exchange := ⟨4, .made, some (tokenTask 1, 2), none, 0, 0, [], [], ⟨.done, []⟩⟩
    let c := { wait .capChange with exchanges := [e] }
    let slow := { c with requests := [⟨w, 0, 0x40100, .store [1], .none, none, 0, [], 0⟩] }
    every [after (.loadRequest 1 ⟨old, 0x40100, 4, .scalar 9⟩) s == some s,
      after (.loadRequest 1 ⟨w, 0x40100, 4, .scalar 9⟩) s == some (s.send 1 w (.loadReply (.scalar 9) (leBytes 4 0x44332211))),
      after (.storeUncounted 1 ⟨old, [(0x40200, [1])]⟩) s == some s,
      leads (.storeUncounted 1 ⟨w, [(0x40200, [1])]⟩) s fun u => u.mem == s.mem && u.tasks == s.tasks && u.queued ==
        [⟨w, packageIndex 1, 0x40200, .store [1], .none, some (whoTag w), 0, [], 0⟩],
      leads (.storeUncounted 1 ⟨w, [(scratchKey 0 0x200, [1])]⟩) s fun u => u.byte (scratchKey 0 0x200) == 1 && u.queued == [],
      after (.reductionMessage 1 ⟨w, 0x40100, .combine .add .d 5⟩) s == some { s with queued := [q] },
      leads (.atomicRequest 1 ⟨w, 0x40100, .minI, .w, 5, 0⟩) s fun u => u.word 0x40100 4 == 5 && u.tag 0x40100 == whoTag w &&
        u.fab.out == [⟨1, w, .atomicReply 1 0x44332211 0, .none, 0⟩],
      got (.loadReply (.scalar 1) [0xFF, 0xFF]) (wait (.load 9 0x40100 2 none)) { t.setG 9 0xFFFF with wait := .load 9 0x40100 2 none },
      got (.loadReply (.scalar 1) [0xFF, 0xFF]) (wait (.load 9 0x40100 2 (some .sys)))
        { t.setG 9 0xFFFF with wait := .load 9 0x40100 2 (some .sys) },
      leads (.atomicReply 1 0x80000000 1) (wait (.atomic 9 .minI .w 5 0 0x50020 none none)) fun u => (u.core 0).ready == [1] &&
        u.mem == s.mem && (u.task? 1).any fun y => alike y { t.setG 9 0xFFFFFFFF80000000 with fsr := t.fsr ||| 1, wait := .none,
                                                                                              status := .ready },
      leads (.capabilityEntryFetch 1 7 9) (wait (.capFetch 7)) fun u =>
        u.task? 1 == some { t with wait := .none, status := .ready } && (u.quad 0).caps == [(0, 7, 9)],
      after (.domainIdDrawReply 1 44) (wait .idDraw) == some (ready (wait .idDraw) { t with drawn := some 44 }),
      after (.capabilityChangeComplete 1) c == some (ready { c with exchanges := [], answers := [((tokenTask 1, 2), ⟨.done, []⟩)] } t),
      after (.capabilityChangeComplete 1) slow == some slow,
      after (.chainPacket p) s == some (s.send 1 w (.chainEnd ⟨1, 0, 0x8877665544332211, 1, 1, false⟩)),
      after (.chainPacket { p with who := old }) s == some s,
      after (.chainPacket { p with final := false }) s == some (s.afterWord { p with final := false } 0x8877665544332211),
      leads (.chainFaultReply ⟨1, 3, 1, 0x777, true, false, 2, 1⟩) (s.putTask z) fun u =>
        (u.task? 1).any fun w => w.status == .parked .fault && w.chain == some ⟨.scalar 9, [8],
          [{ l with k := 1, x := 0x777, final := true, nfault := 1, fv := true, fstep := 1 }]⟩,
      leads (.chainFaultReply ⟨1, 3, 1, 0x777, true, false, 2, 1⟩) (s.putTask z) fun u =>
        (u.die 0).entries.length == 1] = true := by decide +kernel

/-- Flits, slots, ports (13_fabric.md R322 to R327). -/
theorem test_flits :
    let s := alone worker
    let ps : List Parcel := [⟨1, s.who worker, .resyncAck 5 3⟩]
    let fab := fun (f : Fabric) => ({ s with fab := f } : State)
    let seen : Fabric := { s.fab with seen := [(1, 4)] }
    let note := fun (f : Fabric) (n : LinkNote) => { f with links := [⟨1, 4, some n⟩] }
    let f : Flit := ⟨0, 1, 0, 4, ps, 0⟩
    let m : OutMsg := ⟨3, s.who worker, .resyncAck 5 3, .none, 0⟩
    let n : OutMsg := ⟨3, s.who worker, .store ⟨s.who worker, [(0x50020, [1])]⟩, .fb, 0⟩
    let sl : Fabric := { s.fab with slotTable := [(2 * 32 + 0, 4)], out := [m] }
    every [after (.flitArrival 1 0 4 true ps) (fab seen) == some (fab (note seen .ack)),
      after (.flitArrival 1 5 4 true ps) s == some (fab { note seen .ack with relay := [⟨5, 1, 4, ps⟩] }),
      after (.flitArrival 1 0 4 true ps) s == some (ps.foldl (fun u p => u.receive p.src p.who p.msg) (fab (note seen .ack))),
      after (.flitArrival 1 0 4 false ps) s == some (fab { note s.fab .supplement with damaged := [(f, 0)] }),
      after (.paritySupplement 1 4 false ps) (fab { s.fab with damaged := [(f, 1)] }) ==
        some (fab { note s.fab .supplement with damaged := [(f, 2)] }),
      after (.paritySupplement 1 4 false ps) (fab { s.fab with damaged := [(f, 2)] }) == some (fab (note s.fab .supplement)),
      after (.paritySupplement 1 4 true ps) (fab { s.fab with damaged := [(f, 1)] }) == after (.flitArrival 1 0 4 true ps) s,
      leads (.flitAck 1 ⟨4, .ack⟩) (fab { s.fab with unacked := [f, { f with seq := 5 }] }) fun u =>
        u.fab.unacked == [{ f with seq := 5 }] && u.fab.handed == [f],
      leads (.flitAck 1 ⟨4, .ack⟩) (fab { s.fab with unacked := [{ f with dst := 1 }] }) fun u => u.fab.handed == [],
      after (.flitAck 1 ⟨4, .forwarded⟩) (fab { s.fab with handed := [f] }) == some s,
      after (.flitAck 1 ⟨4, .supplement⟩) (fab { s.fab with unacked := [f] }) ==
        some (fab { s.fab with unacked := [{ f with sups := 1 }], links := [⟨1, 4, none⟩] }),
      after (.flitAck 1 ⟨4, .supplement⟩) (fab { s.fab with unacked := [{ f with sups := 3 }] }) == some (fab { s.fab with resend := [f] }),
      leads (.portLoss 0) (fab { s.fab with unacked := [f] }) fun u => u.fab.portsLost == [0] && u.fab.resend == [f] &&
        u.fab.unacked == [] && u.meets 0 3 == none,
      leads (.rotorLoss 4) s fun u => u.fab.rotorsLost == [4] && u.fab.portsLost == [4],
      leads (.slotTableLoad [(2 * 32 + 3, 9)]) (fab sl) fun u => u.meets 2 3 == some 9 && u.meets 2 0 == none,
      after .rotorSlot s == some (fab { s.fab with slotNow := 1 }), (fab sl).underWay m == false,
      (fab { sl with unacked := [⟨2, 3, 3, 0, [⟨0, n.who, n.msg⟩], 0⟩] }).underWay n,
      leads .rotorSlot (fab sl) fun u => u.fab.out == [] && u.fab.slotNow == 1 && u.fab.unacked == [⟨2, 3, 3, 0, [⟨0, m.who, m.msg⟩], 0⟩]]
      = true := by decide +kernel

/-- A PROVISIONAL domain of context 0. -/
def dom7 : Dom :=
  { id := 7, ctxid := 0, launch := 0, record := 0x40800, parent := 0, depth := 1, esc := 7, replays := 0, ranges := [],
    save := 0, snapshot := true, root := 0x40400, rootDie := 0, rootPrio := 0, rootSeq := 0, rootPhase := 0, rootBar := 0,
    rootAg := 0 }

/-- A child of it. -/
def dom8 : Dom := { dom7 with id := 8, parent := 7, depth := 2, esc := 8, replays := 3 }

/-- `home` with a capability table in which page 4 has the entry given, and the domains given. -/
def vault (t : Task) (entry : Nat) (ds : List Dom) : State :=
  let s : State := { home t with ctxs := [(0, { mapped.ctx 0 with caproot := 0x80000, liveIds := [7, 8] })], doms := ds,
                                 parts := [(0, { en := true, qarea := 0x60000 + 10, domarea := 0x70000 })] }
  ((s.pokeNat 0x80000 8 (1 + 2 ^ 20 + 9 * 2 ^ 23)).pokeNat 0x90000 8 (1 + 2 ^ 20 + 10 * 2 ^ 23)).pokeNat 0xA0020 8 entry

/-- An entry of a holder and a frozen count. -/
def capEntry (holder f : Nat) : Nat := holder * 2 ^ 32 + f * 2 ^ 24 + 1

/-- Capability instructions (14_containment.md R353 to R355). -/
theorem test_capabilities :
    let t : Task := { ((loader.setG 7 8).setG 8 9) with domain := 7 }
    let s := fun e => vault t e [dom7, dom8]
    let err := fun e => (s e).softwareError t 0x06
    let moved := fun (i : Instr) (e h f old : Nat) => leads i (s e) fun u => u.word 0xA0020 8 == capEntry h f &&
      u.tasks == ((s e).putTask t.past).tasks && ((u.dom? 0 7).any fun d => d.moves == [⟨1, 4, old, h⟩]) &&
      u.byte 0xA0028 == 0
    let n : Task := { t with domain := 0 }
    every [(s (capEntry 7 2)).capView 0 0 4 == .entry 7 2, (s 0).capView 0 0 4 == .absent, (s 0).capAddr 0 4 == some 0xA0020,
      traps (.capgive 4 7) (vault n 1 [dom7]) n 1, traps (.captake 4) (vault n 1 [dom7]) n 1, traps (.capgive 4 8) (s 0) t 1,
      after (.capgive 4 7) (s 0) == some (err 0), after (.capgive 4 0) (s (capEntry 8 0)) == some (err (capEntry 8 0)),
      moved (.capgive 4 7) (capEntry 7 0) 8 0 7, moved (.capgive 4 0) (capEntry 7 1) 0 1 7, moved (.captake 4) (capEntry 0 0) 7 0 0,
      after (.captake 4) (s (capEntry 7 1)) == some (err (capEntry 7 1)), after (.captake 4) (s (capEntry 8 0)) == some (err (capEntry 8 0)),
      after (.captake 4) (s 0) == some (err 0), completes (.captake 4) (s (capEntry 7 0)) t,
      completes (.capq 4 9) (s 0) (t.setG 9 0), completes (.capq 5 9) (s 0) (t.setG 9 0),
      completes (.capq 4 9) (s (capEntry 0 0)) (t.setG 9 1), completes (.capq 4 9) (s (capEntry 0xFFFFFFFF 3)) (t.setG 9 0xFFFFFFFF03000005),
      completes (.capq 4 9) (s (capEntry 7 0)) (t.setG 9 0x700000002), completes (.capq 4 9) (s (capEntry 8 0)) (t.setG 9 0x800000004),
      (let d : Task := { t with domain := 8 }
       completes (.capq 4 9) (vault d (capEntry 7 0) [dom7, dom8]) (d.setG 9 0x700000003))] = true := by decide +kernel

/-- `DOMOPEN`: refusals, and a domain that opens (14_containment.md R358 to R360). -/
theorem test_domopen :
    let t : Task := { (loader.setG 7 0x40800) with domain := 0 }
    let s := fun (root owned e : Nat) (ds : List Dom) => (((vault t e ds).pokeNat 0x40400 8 0x41000).pokeNat 0x40800 8 root).pokeNat
      0x40818 32 (5 + 2 ^ 8 + 0x40000 * 2 ^ 64 + 0x10000 * 2 ^ 128 + owned * 2 ^ (64 + 112))
    let z := s 0x40400 2 (capEntry 0 0) []
    let code := fun (z : State) (n : Nat) => leads (.domopen 7 9) z fun u =>
      u.task? 1 == some (t.setG 9 (BitVec.ofNat 64 (2 ^ 63 + n))).past && u.doms == z.doms
    every [z.domAreaThere 0, traps (.domopen 1 9) z t 2,
      code (s 0x40400 2 0 []) 4,
      leads (.domopen 7 9) z fun u => u.tasks == [{ (t.setG 9 1).past with ordinal := 1 }] &&
        (u.doms.any fun d => d.ctxid == 0 && d.id == 1 && d.record == 0x40800 && d.depth == 1 && d.root == 0x40400 &&
          d.replays == 5 && d.esc == 1 && d.ranges == [⟨.owned, 0x40000, 0x10000⟩]) &&
        ((u.die 0).queue.any fun e => e.record == 0x40400 && e.domain == 1 && e.pc == 0x41000) &&
        u.word 0xA0020 8 == capEntry 1 0] = true := by decide +kernel

/-- `DOMOPEN` below eight levels answers DEPTH; `DOMCLOSE` and `DOMFAIL` (14_containment.md R358, R363 to R366). -/
theorem test_domclose :
    let t : Task := { (loader.setG 7 8).setG 8 7 with domain := 7 }
    let s := fun (ds : List Dom) => vault t (capEntry 8 2) ds
    let busy : Task := { second with domain := 8 }
    let wait : State := { s [dom7, dom8] with tasks := [t, busy] }
    let n : Task := { t with domain := 0 }
    let o := vault n 0 [dom7]
    every [traps (.domclose 1) (s [dom7, dom8]) t 1, traps (.domfail 1) (s [dom7, dom8]) t 1, traps (.domclose 8) (s [dom7, dom8]) t 1,
      traps (.domclose 7) (s [dom7, { dom8 with state := .committed }]) t 1,
      after (.domclose 7) wait == some (wait.stall t (.domain 8)),
      leads (.domclose 7) (s [dom7, dom8]) fun u => (u.task? 1).any fun w => alike w t.past &&
        u == ((s [dom7, dom8]).modDom 0 8 ({ · with state := .committed, closed := true })).putTask w,
      leads (.domclose 7) (s [dom7, { dom8 with pages := [4] }]) fun u => u.tasks == ((s []).putTask t.past).tasks &&
        u.word 0xA0020 8 == capEntry 7 2 && (u.dom? 0 8).any (·.state == .committed),
      traps (.domfail 7) (s [dom7, { dom8 with state := .cleared }]) t 1,
      after (.domfail 8) o == some ((o.putTask n.past).failLaunch 0 0 3 0 0),
      leads (.domfail 7) wait fun u => u.tasks.map (·.uid) == [1] && (u.die 0).queue.map (·.record) == [0x40400],
      leads (.domainCommit 8) ({ s [dom7, dom8] with tasks := [{ t with wait := .domain 8 }] }) fun u =>
        ((u.dom? 0 8).any (·.state == .committed)) && u.task? 1 == some t.past,
      after (.domainCommit 8) wait == some wait,
      after (.domainSnapshotComplete 8) (s [dom7, dom8]) == some (s [dom7, dom8]),
      leads (.domainSnapshotComplete 8) (s [dom7, { dom8 with snapshot := false }]) fun u => (u.dom? 0 8).any (·.snapshot),
      (let p : Task := { t with wait := .tlbinv, status := .parked .remote }
       let e : Exchange := ⟨4, .made, some (tokenTask 1, 2), none, 0, 0, [], [1], ⟨.done, []⟩⟩
       let z : State := { o with tasks := [p], cores := [], exchanges := [e] }
       let slow : State := { z with requests := [⟨z.who p, 0, 0x40100, .store [1], .none, none, 0, [], 0⟩] }
       after (.tlbinvComplete 1) z ==
           some (State.wake { z with exchanges := [], answers := [((tokenTask 1, 2), ⟨.done, []⟩)] } p)
         && after (.tlbinvComplete 1) slow == some { slow with exchanges := [{ e with left := [] }] }
         && after (.tlbinvComplete 1) o == some o)] = true := by decide +kernel

/-- `ALLOCG` and `GENPASS` (14_containment.md R373 to R375). -/
theorem test_arena :
    let t : Task := { ((loader.setG 7 100).setG 8 1).setG 9 4 with aoff := 64, seq := 2 }
    let s := fun (t : Task) => ({ home t with ctxs := [(0, { mapped.ctx 0 with arbase := 0x40000, arlen := 0x4000, alloccfg := 10 })] } : State)
    let v := (s t).translate 0 .other 0x40800
    let given : Task := { t.setG 10 0x40840 with aoff := 192 }
    let c : Task := { t with claimed := true }
    let f : Task := { t with aoff := 960, claimed := true }
    let a3 : Task := { t with ag := 3 }
    let z := (s t).pokeNat 0x40800 16 (5 + 2 ^ 64)
    let k := (s t).pokeNat 0x40800 16 (2 + 2 ^ 64)
    every [(s t).slices 0 == 4, traps (.allocg 10 7) (home t) t 1, completes (.allocg 10 7) (s f) (f.setG 10 0),
      completes (.allocg 10 7) (s c) { given with claimed := true },
      (match v.2 with | .ok l => l.pa == 0x40800 | _ => false),
      leads (.allocg 10 7) (s t) fun u => u.tasks == (v.1.putTask { given with claimed := true }.past).tasks &&
        u.word 0x40800 8 == 2 && u.word 0x40808 8 == 1,
      after (.allocg 10 7) z == some ((z.translate 0 .other 0x40800).1.softwareError t 0x05),
      after (.allocg 10 7) k == some ((k.translate 0 .other 0x40800).1.putTask { given with claimed := true }.past),
      traps (.genpass 7) (s t) t 1, completes (.genpass 8) (s t) { t with ag := 1, aoff := 64, claimed := false },
      completes (.genpass 9) (s a3) { a3 with ag := 4, aoff := 64, claimed := false },
      (let w : State := { s a3 with tasks := [a3, { second with ag := 0 }] }
       after (.genpass 9) w == some (w.stall a3 (.generation 0)))] = true := by decide +kernel

/-- Core 3 of the host chiplet is next; its partition is 0, and scratchpad 0 holds 64 bytes of 0x11 and one of 0x22. -/
def chiplet (x1 : Word) : State :=
  let s : State := { State.reset with turn := 3, svc := { hostAllot := [(3, 0x80)] } }
  ((s.poke (scratchKey 0 64) (List.replicate 64 0x11)).pokeNat (scratchKey 0 128) 1 0x22).setHostCore 3
    { pc := 0x1000, x := (Vector.replicate 32 0).set 5 x1, vstart := 9 }

/-- The host core takes an exception. -/
def excepts (i : Instr) (s : State) (c cause : Nat) (v : Word) : Bool :=
  after i s == some (s.setHostCore c { s.hostCore c with mcause := some cause, mtval := v })

/-- `VLSP`: one and two registers, illegal forms, misalignment, segments that are not held, poison (16_system.md R424). -/
theorem test_vlsp :
    let s := chiplet 64
    let bad : State := { s with poison := [scratchKey 0 128 / 64] }
    let off := fun v => chiplet v
    every [s.hostPart 3 == some 0, s.segmentPart 0 64 == 0,
      leads (.vlsp 0 5 2) s fun u => (u.hostCore 3) == { s.hostCore 3 with
        pc := 0x1004, vstart := 0, v := (Vector.replicate 32 0).set 2 (BitVec.ofNat 512 (0x11 * ((2 ^ 512 - 1) / 255))) }
        && u.mem == s.mem && u.tasks == s.tasks,
      leads (.vlsp 256 5 2) s fun u => (u.hostCore 3).v.toList.getD 3 0 == 0x22 && (u.hostCore 3).v.toList.getD 2 0 != 0 &&
        (u.hostCore 3).v.toList.getD 4 0 == 0,
      leads (.vlsp 512 5 0) s fun u => (u.hostCore 3).mcause == some 2 && (u.hostCore 3).pc == 0x1000,
      leads (.vlsp 256 5 3) s fun u => (u.hostCore 3).mcause == some 2,
      leads (.vlsp 1 5 2) s fun u => (u.hostCore 3).mcause == some 2,
      leads (.vlsp 8 5 2) s fun u => (u.hostCore 3).mcause == some 2,
      excepts (.vlsp 0 5 2) (off 72) 3 4 72, leads (.vlsp 0 0 2) s fun u => (u.hostCore 3).mcause == none,
      excepts (.vlsp 0 5 2) (off 0x20000000) 3 5 0x20000000, excepts (.vlsp 256 5 2) (off 0x3FFC0) 3 5 0x3FFC0,
      excepts (.vlsp 0 5 2) (s.setCore 0 { spallot := 3 }) 3 5 64, excepts (.vlsp 256 5 2) bad 3 5 64,
      excepts (.vlsp 0 5 2) { s with svc := {} } 3 5 64] = true := by decide +kernel

/-- Memory accesses of host cores (16_system.md R423; 15_faults.md R397). -/
theorem test_host_accesses :
    let s := chiplet 0
    let a := fun m => Instr.hostChipletMemoryAccess 3 m
    let bad : State := { s with poison := [0x1000 / 64] }
    let hole := 2 ^ 41
    let q := fun (pa : Nat) (bs : List Byte) => (⟨s.deviceWho 0, 0xC003, pa, .store bs, .none, some .host, 0, [], 0⟩ : Request)
    every [!inDevice 0x1000, populated 0x1000, excepts (a (.load hole 8)) s 3 5 (BitVec.ofNat 64 hole),
      excepts (a (.store hole [1])) s 3 7 (BitVec.ofNat 64 hole), excepts (a (.amo hole .add .d 1)) s 3 7 (BitVec.ofNat 64 hole),
      excepts (a (.load 0x1008 8)) bad 3 5 0x1008, excepts (a (.amo 0x1008 .add .d 1)) bad 3 7 0x1008,
      after (a (.load 0x1008 8)) s == some s,
      leads (a (.store 0x103E [1, 2, 3])) s fun u => u.mem == s.mem && u.tasks == s.tasks &&
        u.queued == [q 0x103E [1, 2], q 0x1040 [3]] && (u.serve 0x103E).byte 0x103F == 2 && (u.serve 0x103E).tag 0x103E == .host,
      leads (a (.store 0x1000 (List.replicate 64 7))) bad fun u => !(u.poisoned 0x1000) && (u.serve 0x1000).byte 0x103F == 7,
      leads (a (.store 0x1000 [7])) bad fun u => u.poisoned 0x1000,
      leads (a (.amo 0x1008 .add .w 5)) (s.pokeNat 0x1008 8 0x1FFFFFFFF) fun u => u.word 0x1008 8 == 0x100000004 &&
        u.tag 0x1008 == .host && u.tasks == s.tasks,
      leads (a (.amo 0x1008 .fadd .w 0x3F800000)) (s.pokeNat 0x1008 4 0x3F800000) fun u => u.word 0x1008 4 == 0x40000000]
      = true := by decide +kernel

/-- Partition 0 with a launch queue of four records at 0x20000, the one at index 1 next, and a completion queue at 0x21000.
The record: root 0x40400, tag 77, key 5. -/
def dock : State :=
  let s : State := { State.reset with
    parts := [(0, { en := true, qarea := 0x60000 + 10 })]
    ctxs := [(2, { lqbase := 0x20000, lqsize := 2, lqhead := 1, lqtail := 2, cqbase := 0x21000, cqsize := 2, ptroot := 0x30000 })] }
  ((s.pokeNat 0x20040 8 0x40400).pokeNat 0x20050 8 5).pokeNat 0x20058 8 (3 * 2 ^ 8 + 77 * 2 ^ 32)

/-- From the host's write of LQTAIL to the completion record (01_machine.md R24 to R28; 16_system.md R418, R420). -/
theorem test_launch_flow :
    let s := dock
    let x := s.ctx 2
    let l : Launch := { part := 0, ctx := 2, id := 1, tag := 77, key := 5, det := false, nomix := false, root := 0x40400,
                        domrec := 0, rootDie := 3, anyDie := false, prio := 0 }
    let run : State := { s with launches := [{ l with stage := .running }] }
    let busy : State := { run with tasks := [{ worker with ctxid := 2, launchid := 1 }] }
    let p : Post := ⟨0, 2, 0x123, 0x0B, 4, 4, 77, 1⟩
    let q : Post := ⟨0, 2, 0, 0, 0, 1, 78, 2⟩
    let full := fun (h t : Word) => { s.setCtx 2 { x with cqhead := h, cqtail := t } with posts := [p, q] }
    every [after (.cqheadWrite 0 2 9) s == some (s.setCtx 2 { x with cqhead := 9 }),
      after (.lqtailWrite 0 2 5) s == some (s.setCtx 2 { x with lqtail := 5 }),
      after (.lqtailWrite 0 2 6) s == some (s.setCtx 2 { x with lqtail := 6 }).countMisuse,
      after (.lqtailWrite 0 2 0x100000000) s == some s.countMisuse, after (.cqheadWrite 0 2 0x100000000) s == some s.countMisuse,
      s.nextContext 0 == some 2,
      leads (.launchAdmission 0) s fun u => u.launches == [l] && u.posts == [] && u.mem == s.mem && u.tasks == s.tasks &&
        (u.ctx 2).lqhead == 2 && (u.part 0).rotation == 3 && (u.part 0).launchNext == 2,
      leads (.launchAdmission 0) (s.pokeNat 0x20040 8 0x40401) fun u => u.launches == [] && u.posts == [⟨0, 2, 0, 0, 1, 4, 77, 0⟩]
        && (u.ctx 2).lqhead == 2,
      leads (.launchAdmission 0) (s.setCtx 2 { x with ptroot := 0 }) fun u => u.posts == [⟨0, 2, 0, 0, 1, 4, 77, 0⟩],
      after (.launchAdmission 0) (s.setCtx 2 { x with lqtail := 1 }) == some (s.setCtx 2 { x with lqtail := 1 }),
      after (.launchAdmission 0) { s with parts := [] } == some { s with parts := [] },
      leads (.launchCommit 0 1) run fun u => u.posts == [⟨0, 2, 0, 0, 0, 1, 77, 1⟩] && u.launches == [{ l with stage := .done }],
      after (.launchCommit 0 1) busy == some busy, after (.launchCommit 0 1) s == some s,
      leads (.completionPost 0 2) (full 0xFFFFFFFE 1) fun u => u.posts == [q] && u.word 0x21010 16 ==
          1 + 77 * 2 ^ 32 + 4 * 2 ^ 64 + 4 * 2 ^ 72 + 0x0B * 2 ^ 80 + (4 * 0x123) * 2 ^ 96 &&
        (u.ctx 2).cqtail == 2 && (u.part 0).sent == [(0, 1)] && u.byte 0x2100F == 0 && u.byte 0x21020 == 0,
      leads (.completionPost 0 2) ((full 3 6).modPart 0 ({ · with masked := 1 })) fun u => (u.part 0).pending == 1 &&
        (u.part 0).sent == [],
      after (.completionPost 0 2) (full 0xFFFFFFFE 2) == some (full 0xFFFFFFFE 2)] = true := by decide +kernel

/-- A die with one entry of partition 0 whose record is at 0x40400, DEPCNT as given, and no task. -/
def yard (dep : Nat) : State :=
  let e : QEntry := { age := 3, record := 0x40400, ctxid := 0, launch := 1, prio := 0, pc := 0x41000, ranges := [],
                      args := [11, 12, 13, 14], aff := none, seq := 9, phase := 0, bar := 0, domain := 0, ag := 0 }
  let d : Die := { queue := [e] }
  let s : State := { mapped with parts := [(0, { en := true, qarea := 0x60000 + 10 })], dies := [(0, d)] }
  s.pokeNat 0x40430 4 dep

/-- Binding and setting aside (05_tasks.md R122, R126, R127). -/
theorem test_dispatch :
    let s := yard 0
    let e : QEntry := { age := 3, record := 0x40400, ctxid := 0, launch := 1, prio := 0, pc := 0x41000, ranges := [],
                        args := [11, 12, 13, 14], aff := none, seq := 9, phase := 0, bar := 0, domain := 0, ag := 0 }
    let c := (s.activate 0).translate 0 .record 0x40430
    every [s.runs 0, c.1.chooseSlots 0 e == some (.one 0), c.2.isOk,
      (c.2.toOption.map (·.pkg)) == some 0, (c.2.toOption.map (·.pa)) == some 0x40430,
      leads (.dispatch 0) s fun u => (u.die 0).queue == [] && (match u.tasks with
        | [t] => t.uid == 1 && t.sid == 0 && t.pc == 0x41000 && t.taskrec == 0x40400 && t.seq == 9 && t.launchid == 1 &&
            t.status == .running && [t.greg 0, t.greg 1, t.greg 2, t.greg 3, t.greg 4, t.greg 5] == [0, 11, 12, 13, 14, 0]
        | _ => false),
      leads (.dispatch 0) (yard 2) fun u => u.tasks == [] && (u.die 0).queue == [{ e with state := .blocked 0 0x40400 }]]
      = true := by decide +kernel

/-- Spilling, quantum expiry and stall timeout (05_tasks.md R130, R131, R145). -/
theorem test_core_scheduling :
    let one := fun (i : Nat) => { worker with uid := i + 1, sid := i, status := .parked .dep, order := 50 - i }
    let ts := (List.range 16).map one
    let s : State := { State.reset with tasks := ts, parts := [(0, { en := true, qarea := 0x60000 + 10, pqarea := 0x70000 + 4 })] }
    let spare : State := { s with tasks := ts ++ [{ worker with uid := 99, sid := 0, spilled := true, status := .ready }] }
    let two : State := { alone worker with tasks := [worker, { worker with uid := 2, sid := 1, status := .ready }],
                                           cores := [(0, { running := some 1, ready := [2], stalled := true })] }
    let quiet : State := two.setCore 0 { running := some 1, stalled := true }
    let waits := fun (w : Wait) => two.putTask { worker with wait := w }
    every [(s.spillable 0).map (·.uid) == some 16, !(s.workFor 0), after (.spill 0) s == some s, spare.workFor 0,
      after (.spill 0) spare == some (spare.putTask { one 15 with spilled := true }),
      leads (.quantumExpiry 0) two fun u => (u.core 0).running == some 2 && (u.core 0).ready == [1] && !(u.core 0).stalled &&
        u.task? 1 == some { worker with status := .ready } && (u.task? 2).map (·.status) == some .running,
      after (.quantumExpiry 0) quiet == some quiet, after (.issueStallTimeout 0) two == some two,
      after (.issueStallTimeout 0) (two.modCore 0 ({ · with stalled := false })) == some (two.modCore 0 ({ · with stalled := false })),
      after (.issueStallTimeout 0) (waits (.counters 1 0 0 0 0)) == some ((waits (.counters 1 0 0 0 0)).park
        { worker with wait := .counters 1 0 0 0 0 } .dep (.counters 1 0 0 0 0)),
      leads (.issueStallTimeout 0) (waits (.domain 7)) fun u => (u.core 0).running == some 2 &&
        (u.task? 1).map (·.status) == some (.parked .dep)] = true := by decide +kernel

/-- A core of `till` with a queued vector instruction, whose turn it is in a cycle with one free lane group. -/
def slot (e : VEntry) : State :=
  { till loader with cores := [(0, { lanes with vq := [e] })], quads := [(0, { vcycle := 0, busy := [1, 2, 9] })] }

/-- A lane group takes quarters; the last one writes the result and raises the flags (06_vector.md R158, R162). -/
theorem test_vector_arbiter :
    let e : VEntry := { queued (.vdiv (.reg 3) (.reg 1) 2 1 .f32) with instr := .vaddF (.reg 3) (.reg 1) 2 1 .bf16, quarters := 3 }
    let s := slot e
    let f := { e with quarters := 1 }
    let u := slot f
    let v := s.setQuad 0 { s.quad 0 with vcycle := 1, busy := [1, 8] }
    let r := (lanes.compute f).getD (lanes, 0, none)
    every [after (.vectorArbiterCycle 0 0) s ==
        some (v.modCore 0 fun c => { c with vq := [{ e with quarters := 2, started := true }] }),
      (lanes.compute f).isSome, r.2.1 != 0,
      leads (.vectorArbiterCycle 0 0) u fun x => (x.core 0).vq == [] && (x.core 0).v == r.1.v && (x.core 0).k == r.1.k &&
        (x.task? 1).map (·.fsr) == some r.2.1 && (x.task? 1).map (·.pc) == some 0x40000 && x.mem == u.mem] = true := by
  decide +kernel

/-- A core whose matrix queue holds one instruction, in a context with two-byte integers, a latch and a tile. -/
def array (i : Instr) (w x y z : Word) : State :=
  let e : MEntry := { serial := 1, instr := i, uid := 1, part := 0, owner := ⟨0, 0, 0⟩, x := x, y := y, z := z }
  let m : MatCtx := { word := w, latch := { data := (List.range 192).map (BitVec.ofNat 8 ·) } }
  let m := (m.setTile 1 { rows := [(2, 10#2048 <<< 96)] }).setTile 2 { rows := [(0, 7)], cv := true }
  let s := till loader
  { s with cores := [(0, { lanes with mq := [e], mctx := m })] }.pokeNat (scratchKey 0 0x140) 8 0x00FF_02

/-- An array grant in integer mode (08_matrix.md R214, R225). Row 2 of A is 2, -1, the rows of B start at 0, 64, 128. -/
theorem test_matrix_grant :
    let w : Word := 0x144
    let s := array (.mma 1 7 8 9) w 0xFFFFFFFFFFFC00C0 0x10002 64
    let u := (after (.matrixGrant 0 0) s).getD s
    let t := (u.core 0).mctx.tile 1
    let b := fun (k j : Nat) => toSigned 8 ((64 * k + j) % 192)
    every [ctxAcc w, !(ctxRec w), !(ctxChk w), s.matrixEligible 0, mmaK 0x10002 == 2, mmaKo 0x10002 == 1, (u.core 0).mq == [],
      lane 32 (t.row 2) 3 == ofSigned 32 (10 + 2 * b 1 3 - b 2 3), lane 32 (t.row 2) 63 == ofSigned 32 (2 * b 1 63 - b 2 63),
      lane 32 (t.row 1) 5 == 0, (u.core 0).mctx.tile 2 == (s.core 0).mctx.tile 2, (u.quad 0).mgrant == 1, u.mem == s.mem]
      = true := by decide +kernel

/-- The matrix port and the ring (08_matrix.md R217 to R222). -/
theorem test_matrix_port :
    let s := array (.mctx 7) 0x20144 0x20100 0 0
    let m := (s.core 0).mctx
    let z := array (.mzero 2) 0x20144 0 0 0
    let l : Latch := { data := [1, 2, 3] }
    let r := array .mring 0x144 0 0 0
    let e := ((r.core 0).mq.headD { serial := 0, instr := .mring, uid := 0, part := 0, owner := ⟨0, 0, 0⟩ })
    let p := (r.modCore 0 fun c => { c with mq := [{ e with placed := true }] }).modCore 28 fun c => { c with link := some l }
    every [leads (.matrixMemoryPort 0) s fun u => (u.core 0).mq == [] && (u.core 0).mctx == { m with word := 0x20100, writer := some 0 },
      leads (.matrixMemoryPort 0) (array (.mscale 7 8) 0 64 96 0) fun u => (u.core 0).mq == [] && (u.core 0).mctx.bsa == 64 &&
        (u.core 0).mctx.ssa == 96,
      leads (.matrixMemoryPort 0) z fun u => (u.core 0).mq == [] && ((List.range 64).all fun i => ((u.core 0).mctx.tile 2).row i == 0)
        && ((u.core 0).mctx.tile 2).cv && (u.core 0).mctx.tile 1 == m.tile 1,
      ringCore 0 7 == 28, leads (.mringLinkTransfer 0) r fun u => (u.core 0).link == some (r.core 0).mctx.latch &&
        (u.core 0).mq == [{ e with placed := true }],
      leads (.mringLinkTransfer 0) p fun u => (u.core 0).mctx == { (p.core 0).mctx with latch := l } && (u.core 0).mq == [] &&
        (u.core 28).link == none] = true := by decide +kernel

/-- Stream transfers and the order of merged requests (07_scratchpad.md R192; 10_atomics.md R280). -/
theorem test_stream_transfers :
    let d : Stream := { drain with buffer := [0x1234, 9], tags := [.host, .clean], serials := [4, 5] }
    let s : State := { till loader with cores := [(0, { lanes with q := ((Vector.replicate 8 none).set 1 (some pipe)).set 2 (some d) })] }
    let s := s.pokeNat (scratchKey 0 0x100) 8 77
    let q := fun (n a : Nat) => (⟨s.who loader, n, a, .store [BitVec.ofNat 8 n], .none, none, 0, [], 0⟩ : Request)
    let w : State := { s with requests := [q 9 0x40000, q 3 0x40008] }
    every [after (.streamTransfer 0 1) s == some (s.modCore 0 fun c => { c with q := c.q.set 1 (some { pipe with moved := 1, buffer := [7, 9, 77] }) }),
      leads (.streamTransfer 0 2) s fun u => u.word (scratchKey 0 0x100) 256 == 0x1234 && u.byte (scratchKey 0 0x200) == 0 &&
        u.tag (scratchKey 0 0x1C0) == .host && (u.core 0).q[2] == some { d with moved := 1, buffer := [9], tags := [.clean], serials := [5] },
      homePlace 0x40000 == homePlace 0x40008, leads (.mergeStep (homePlace 0x40000) [9, 3]) w fun u =>
        u.requests == [] && u.queued == [q 3 0x40008, q 9 0x40000] && u.mem == w.mem] = true := by decide +kernel

/-- A core that is being pre-empted with one task on it, whose partition has a save area or none. -/
def leaving (area : Word) : State :=
  { alone worker with parts := [(0, { en := true, savearea := area })], cores := [(0, { running := some 1, stopping := true })] }

/-- Pre-emption, resumption, core reset (05_tasks.md R154, R155; 15_faults.md R407). -/
theorem test_preemption :
    let s := alone worker
    let c := s.core 0
    let idle := fun (x : Core) => { s with tasks := [], cores := [(0, x)] }
    let u := leaving 0x70000
    every [after (.preemptRequest 0) s == some (s.setCore 0 { c with stopping := true }),
      after (.preemptRequest 0) (leaving 0) == some (leaving 0), after (.preemptSave 0) s == some s, after (.resumeRequest 0) s == some s,
      leads (.preemptSave 0) u fun v => (v.core 0).preempted && !(v.core 0).stopping && v.tasks == u.tasks && v.mem == u.mem &&
        (v.die 0).entries.map (fun x => (x.2.kind, x.2.note, x.2.cause, x.2.part, x.2.vaddr, x.2.record))
          == [(2, 1, 0, 0, 0x70000, 0)],
      leads (.preemptSave 0) (leaving 0) fun v => !(v.core 0).preempted && (v.core 0).stopping && v.tasks == u.tasks &&
        (v.part 0).noted == [(0x50, stalledCore 0)],
      after (.resumeRequest 0) (idle { preempted := true, cycle := 5 }) == some (idle { cycle := 5 }),
      after (.coreResetEnd 0) (idle { resetting := true }) == some { s with tasks := [], cores := [] },
      after (.watchdogExpiry 0) (s.modCore 0 ({ · with resetting := true })) == some (s.modCore 0 ({ · with resetting := true })),
      after (.watchdogExpiry 1) s == some s, !(s.halted 0),
      after (.watchdogExpiry 0) (s.modCore 0 ({ · with preempted := true })) == some (s.modCore 0 ({ · with preempted := true })),
      leads (.watchdogExpiry 0) (s.modCore 0 ({ · with cycle := 9 })) fun v => (v.core 0).resetting && (v.core 0).running == none &&
        (v.core 0).cycle == 0 && v.tasks == []] = true := by decide +kernel

/-- Scans (14_containment.md R368, R369; 15_faults.md R399). -/
theorem test_scans :
    let l : Launch := { part := 0, ctx := 0, id := 5, tag := 77, key := 5, det := false, nomix := false, root := 0x40400,
                        domrec := 0, rootDie := 3, anyDie := false, prio := 0, stage := .running }
    let q : Quad := { drained := true, quarantined := true, release := true, ran := [⟨0, 5, 0⟩] }
    let s : State := { State.reset with launches := [l], quads := [(65, q)] }
    let t := s.setQuad 65 { q with drained := false }
    every [after (.scanSlotStart 1 1) t == some s,
      after (.quarantineRelease 1 1) (s.setQuad 65 { q with release := false }) == some s,
      after (.scanPass 1 1) t == some t, after (.scanFail 1 1 6) t == some t,
      leads (.scanPass 1 1) s fun u => u.quad 65 == {} && u.launches == [l],
      leads (.scanPass 1 1) (s.setQuad 65 { q with release := false }) fun u => (u.quad 65).quarantined,
      leads (.scanFail 1 1 6) s fun u => !(u.quad 65).drained && (u.quad 65).quarantined && u.launches == [] &&
        u.posts == [⟨0, 0, 0, 0, 4, 4, 77, 5⟩]] = true := by decide +kernel

/-- Registers of device space (16_system.md R411 to R419; 13_fabric.md R329). -/
theorem test_device_registers :
    let s : State := { alone worker with parts := [(2, { masked := 5, pending := 4 })] }
    let on : State := { s with parts := [(2, { en := true })] }
    let w := 0x1E080000000
    let x := s.part 2
    let a : Word := 0x70000 + 12
    let f : State := { s with fab := { allot := [(7, 0x82), (9, 3)], senders := [(7 * 1024 + 3, { sent := 3 }), (9 * 1024, { sent := 1 })],
                                       opened := [(7, ⟨8, 3, 0⟩)] } }
    let lq := s.setCtx 9 { lqsize := 4, lqhead := 1, lqtail := 11 }
    let far : State := { s with ctxs := [(1, { cqbase := 2 ^ 63 })], posts := [⟨0, 1, 0, 0, 0, 1, 7, 7⟩, ⟨0, 0, 0, 0, 0, 1, 8, 8⟩] }
    every [reachable ⟨2, false⟩ 0x1F000000000 == none, after (.registerWrite 2 0x1F000000000 1) s == some s.countMisuse,
      after (.registerWrite 3 (w + 0x40) a) s == some s.countMisuse, after (.registerWrite 2 (w + 0x40) a) on == some on.countMisuse,
      after (.registerWrite 2 (w + 0x40) a) s == some (s.setPart 2 { x with qarea := a }),
      after (.registerWrite 0 (w + 0x48) a) s == some (s.setPart 2 { x with pqarea := a }),
      after (.registerWrite 2 (w + 0x50) 0x70000) s == some (s.setPart 2 { x with savearea := 0x70000 }),
      after (.registerWrite 2 (w + 0x60) 0x70000) s == some (s.setPart 2 { x with domarea := 0x70000 }),
      after (.registerWrite 2 (w + 0x60) a) s == some s.countMisuse,
      after (.registerWrite 2 (w + 0x58) a) s == some (s.setPart 2 { x with spillarea := a }),
      after (.registerWrite 2 (w + 0x1340) 0x30000) s == some (s.setCtx 11 { s.ctx 11 with ptroot := 0x30000 }),
      after (.registerWrite 2 (w + 0x1018) 1) s == some s, after (.pqosWrite 2 2 7) s == some s.countMisuse,
      after (.pqosWrite 0 2 7) s == some (s.setPart 2 { x with pqos := 7 }), after (.pctlEnable 2 true) s == some (s.setPart 2 { x with en := true }),
      after (.pctlEnable 2 false) on == some { s with parts := [] },
      after (.pctlEnable 2 true) (s.setCtx 9 { ptroot := 0x30000, arlen := 64 }) == some (s.setCtx 9 { ptroot := 0x30000, arlen := 64 }).countMisuse,
      leads (.msixUnmask 2 2) s fun u => u.part 2 == { x with masked := 1, pending := 0, sent := [(2, 1)] },
      leads (.msixUnmask 2 0) s fun u => u.part 2 == { x with masked := 4 },
      leads (.msixUnmask 2 2) { s with svc := { hostLost := true } } fun u =>
        u.part 2 == { x with masked := 1, pending := 0 } && u.svc.dropped == 1,
      after (.registerWrite 2 (w + 0x40) (a + 0x20)) s == some s.countMisuse,
      after (.registerWrite 2 (w + 0x50) a) s == some s.countMisuse,
      after (.registerWrite 2 (w + 0x1110) 5) lq == some (lq.setCtx 9 { lqsize := 4, lqhead := 1, lqtail := 5 }),
      after (.registerWrite 2 (w + 0x1110) 18) lq == some (lq.setCtx 9 { lqsize := 4, lqhead := 1, lqtail := 18 }).countMisuse,
      after (.registerWrite 2 (w + 0x1108) 5) lq == some (lq.setCtx 9 { lqsize := 5, lqhead := 1, lqtail := 11 }),
      after (.registerWrite 2 (w + 0x1108) 4) (lq.setCtx 9 { lqhead := 1, lqtail := 18 }) ==
        some ((lq.setCtx 9 { lqsize := 4, lqhead := 1, lqtail := 18 }).countMisuse),
      after (.windowServiceOperation 2 (.store (w + 0x40) 8 a)) s == after (.registerWrite 2 (w + 0x40) a) s,
      after (.windowServiceOperation 2 (.store (w + 0x40) 4 a)) s == some s.countMisuse,
      after (.windowServiceOperation 2 (.load (w + 0x40) 4)) s == some s.countMisuse,
      after (.windowServiceOperation 3 (.load (w + 0x40) 8)) s == some s.countMisuse,
      leads (.windowServiceOperation 2 (.load (w + 0x40) 8)) (s.setPart 2 { x with qarea := a }) fun u =>
        u.part 2 == { x with qarea := a, lastRead := a },
      after (.registerWrite 0 0x1F000050018 1) s == some s,
      leads (.channelAllotmentWrite 7 0x83) f fun u => u.fab.allot == [(7, 0x83), (9, 3)] && u.fab.senders == [(9 * 1024, { sent := 1 })] &&
        u.fab.opened == [], after (.channelAllotmentWrite 0xFFE 0x83) f == some f,
      leads .pcieLinkDown s fun u => !u.svc.pcieUp && after .pcieLinkUp u == some s,
      leads .pcieCompletionTimeout far fun u => u.posts == [⟨0, 0, 0, 0, 0, 1, 8, 8⟩] && u.svc.dropped == 2] = true := by
  decide +kernel

/-- The fault buffer (15_faults.md R385 to R388). -/
theorem test_fault_buffers :
    let e : FaultEntry := { target := .task 1, part := 0, ctxid := 0, sid := 0, vaddr := 0x1234, record := 0x40400, cause := 9,
                            acc := 1, age := 3 }
    let g := { e with age := 4, part := 2 }
    let t := { worker with status := .parked .fault, wait := .service }
    let mk := fun (x : FaultEntry) => { alone t with dies := [(0, { entries := [(7, x), (9, g)] })], cores := [] }
    let s := mk e
    let freed := s.setDie 0 { entries := [(9, g)] }
    let q : QEntry := { age := 6, state := .waiting 1, record := 0x40400, ctxid := 0, launch := 1, prio := 0, pc := 0x41000, ranges := [],
                        args := [], aff := none, seq := 9, phase := 0, bar := 0, domain := 0, ag := 0 }
    let l : Launch := { part := 0, ctx := 0, id := 1, tag := 77, key := 5, det := false, nomix := false, root := 0x40400,
                        domrec := 0, rootDie := 3, anyDie := false, prio := 0, stage := .running }
    let p : Die := { entries := [(7, { e with target := .lease 0 6, kind := 1 })], queue := [q] }
    let w : State := { State.reset with dies := [(0, p)], launches := [l] }
    let n : State := { alone { t with unreported := true } with dies := [(0, { unreported := [e] })], clock := 50 }
    every [leads (.fbnextRead 0 0) s fun u => u.tasks == s.tasks && (u.die 0).entries == [(7, { e with read := true }), (9, g)] &&
        (u.part 0).lastRead == 9 * 2 ^ 56 + 2 ^ 48 &&
        Sparse.read [] (u.die 0).latch 0 == leBytes 32 (2 ^ 128 * 0x40400 + 2 ^ 192 * 0x1234 + 7 * 2 ^ 65 + 9 * 2 ^ 56 + 2 ^ 48),
      leads (.fbnextRead 1 0) s fun u => (u.die 0).entries == (s.die 0).entries && Sparse.read [] (u.die 0).latch 1 == [],
      after (.fbsvcRetry 0 0 7) (mk { e with void := true }) == some freed, after (.fbsvcKill 0 0 7) (mk { e with void := true }) == some freed,
      after (.fbsvcRetry 0 0 7) (mk { e with kind := 2 }) == some freed, after (.fbsvcKill 0 0 7) (mk { e with kind := 2 }) == some freed,
      after (.fbsvcRetry 0 0 7) s == some (freed.wake t), after (.fbsvcKill 0 0 7) s == some (freed.softwareError t 9),
      leads (.fbsvcRetry 0 0 7) s fun u => (u.task? 1).map (·.status) == some .ready,
      after (.fbsvcRetry 0 0 9) s == some s.countMisuse, after (.fbsvcKill 0 0 8) s == some s.countMisuse,
      leads (.fbsvcRetry 0 0 7) w fun u => (u.die 0).queue == [{ q with state := .queued }] && (u.die 0).entries == [],
      leads (.fbsvcKill 0 0 7) w fun u => u.posts == [⟨0, 0, 0, 0, 6, 4, 77, 1⟩] && u.launches == [] && (u.die 0).queue == [],
      after (.unreportedFaultWrite 0) s == some s,
      leads (.unreportedFaultWrite 0) n fun u => (u.die 0).unreported == [] && u.tasks == [t] &&
        (u.die 0).entries.map (·.2) == [{ e with unrep := true, age := 50 }]] = true := by decide +kernel

/-- Partition and conventional resets (16_system.md R412, R414). -/
theorem test_partition_resets :
    let l : Launch := { part := 2, ctx := 0, id := 5, tag := 77, key := 5, det := false, nomix := false, root := 0x40400,
                        domrec := 0, rootDie := 3, anyDie := false, prio := 0, stage := .running }
    let q : QEntry := { age := 6, record := 0x40400, ctxid := 9, launch := 1, prio := 0, pc := 0x41000, ranges := [],
                        args := [], aff := none, seq := 9, phase := 0, bar := 0, domain := 0, ag := 0 }
    let e : FaultEntry := { target := .task 1, part := 2, ctxid := 9, sid := 0, vaddr := 0, record := 0, cause := 9 }
    let v := { worker with uid := 2, sid := 17 }
    let d : Die := { queue := [q], entries := [(7, e)], mrallot := 3 }
    let o : Quad := { evallot := 0x12, lines := (Vector.replicate 32 0).set 0 9 |>.set 1 8 }
    let s : State := { State.reset with
      tasks := [{ worker with ctxid := 9 }, v], parts := [(2, { en := true, epoch := 4, launchNext := 9, qarea := 0x6000A })]
      cores := [(0, { running := some 1, spallot := 0x20 }), (1, { running := some 2 })], dies := [(0, d)], launches := [l]
      quads := [(0, o)], fab := { allot := [(7, 0x82)] }, svc := { hostAllot := [(3, 0x80)], selfNext := true } }
    let s := (s.pokeNat (scratchKey 0 0x4000) 1 7).pokeNat (scratchKey 0 0) 1 8
    let idle := { s with tasks := [v], cores := [(0, { spallot := 0x20 }), (1, { running := some 2 })] }
    let ending := fun (ps : List Post) => { State.reset with parts := [(2, { resetting := true, resetStep := 2 })], posts := ps }
    let done := { s with parts := [(2, { resetting := true })] }
    let held : State := { ending [] with requests := [⟨{ (alone worker).who worker with ctxid := 8 }, 0, 0x40100, .store [1], .none, none, 0, [], 0⟩] }
    every [after (.pcieFlr 2) s == after (.pctlReset 2) s, after (.pctlReset 2) done == some done,
      after (.registerWrite 2 0x1E080000000 3) s == after (.pctlReset 2) s,
      leads (.pctlReset 2) s fun u => (u.part 2).resetting && !(u.part 2).en && (u.core 0).stopping && u.tasks.length == 2 &&
        (u.die 0).queue == [] && u.launches == [l] && u.svc == s.svc,
      idle.coresWith 2 == [], idle.fbLeft 2,
      leads (.pctlReset 2) idle fun u => (u.part 2).launchNext == 1 && (u.part 2).epoch == 5 && (u.part 2).resetting && u.tasks == [v] &&
        (u.die 0).queue == [] && (u.die 0).entries == [] && u.launches == [] && u.posts == [⟨2, 0, 0, 0, 5, 4, 77, 5⟩] &&
        u.byte (scratchKey 0 0x4000) == 0 && u.byte (scratchKey 0 0) == 8 && (u.quad 0).lines.toList.take 2 == [0, 8] &&
        u.svc == s.svc && (u.core 0).running == none && u.fab.allot == s.fab.allot,
      leads .pcieConventionalReset { idle with tasks := [] } fun u => !(u.part 2).en && u.tasks == [] && u.svc.self && u.svc.hostAllot == [] &&
        (u.core 0).spallot == 0 && (u.die 0).mrallot == 0 && (u.quad 0).evallot == 0 && u.fab.allot == [],
      held.settleReset 2 == held, !((ending []).settleReset 2 |>.part 2).resetting, Sparse.read 0 (((ending []).settleReset 2).part 2).sent 3 == 1,
      (ending [⟨2, 0, 0, 0, 5, 4, 77, 5⟩]).settleReset 2 == ending [⟨2, 0, 0, 0, 5, 4, 77, 5⟩]] = true := by
  decide +kernel

/-- The management port (16_system.md R425, R426, R428). -/
theorem test_management :
    let s : State := { alone worker with quads := [(65, { quarantined := true })] }
    let o : State := { s with svc := { session := true } }
    let b : State := { s with svc := { session := true, bootB := true } }
    let dead : State := { s with svc := { session := true, pairs := [(15, { dead := true })] } }
    let hung : State := { s with svc := { session := true, pairs := [(3, { stopped := true })] } }
    let answers := fun (i : Instr) (u v : State) (r : Reply) => after i u == some { v with svc := { v.svc with reply := some r } }
    every [answers .getid { s with svc := { stage := .idfail } } { s with svc := { stage := .idfail } } (.refused none),
      leads .getstat s fun u => match u.svc.reply with
        | some (.stat x) => x.stage == .run && x.term == 1 && x.dieMap.length == 8 && x.quarantined == [0, 2, 0, 0, 0, 0, 0, 0]
        | _ => false,
      [Instr.preset 2, .dreset 1, .hostmode true, .setcap 1800, .setcap 7, .fwstage [1]].all fun i => answers i s s (.refused (some 2)),
      (List.range 32).all fun k => [0x01, 0x02, 0x03, 0x10, 0x11, 0x12, 0x13, 0x14].contains k ||
        answers (.windowServiceOperation 0 (.command (BitVec.ofNat 8 k))) s s (.refused (some 1)),
      after (.windowServiceOperation 0 (.command 0x13)) s == some s,
      [Instr.preset 2, .dreset 1, .hostmode true, .setcap 1800, .setcap 7, .fwstage [1]].all fun i => answers i dead dead (.refused none),
      answers (.dreset 3) hung { hung with svc := { hung.svc with resent := [3] } } .done,
      answers (.preset 2) o (o.resetPartition 2) .done, answers (.dreset 0) o (o.warmReset 0) .done,
      leads (.hostmode true) { o with tasks := [], cores := [] } fun u => u.svc.self && u.svc.reply == some .done,
      answers (.setcap 1800) o { o with svc := { o.svc with powerCap := 1800 } } .done, answers (.setcap 1805) o o (.refused none),
      answers (.fwstage [1]) o { o with svc := { o.svc with bankB := [[1]] } } .done,
      answers (.fwstage [1]) b { b with svc := { b.svc with bankA := [[1]] } } .done] = true := by decide +kernel

/-- Lantern pairs, maps and votes (15_faults.md R400, R401, R403 to R405). -/
theorem test_terms_and_votes :
    let s : State := { alone worker with svc := { leader := some 2, term := 6, pairs := [(0, { dead := true })], dieTerm := 4, pkgTerm := 4 } }
    let q := fun (p : Suspect) (vs : List (Nat × Bool)) (y : Bool) => { s with svc := { s.svc with ballot := some ⟨p, vs, [9, 10, 11, 12, 14, 15], y⟩ } }
    let d := Suspect.die 3
    let owed : State := { s with svc := { s.svc with resent := [3], pairs := [(0, { dead := true }), (3, { stopped := true })] } }
    let near : State := { s with fab := { s.fab with slotTable := [(2, 3), (3, 9), (40, 8)] } }
    every [leads .lanternHeartbeatLapse s fun u => u.svc.leader == some 1 && u.svc.term == 7 && (u.pair 2).dead && (u.pair 1).term == 7,
      leads (.lanternMismatch 3) s fun u => u.pair 3 == { stopped := true, mismatches := 1 } && u.pair 0 == s.pair 0 &&
        u.tasks == s.tasks && u.mem == s.mem,
      after (.lanternReloadComplete 3) owed == after (.dieWarmReset 3) (s.modPair 3 ({ · with term := 6 })),
      after (.lanternReloadComplete 3) s == some (s.modPair 3 ({ · with term := 6 })),
      after (.dieMapWrite 3 [1, 2, 3, 4, 5, 6, 7, 8]) s == some s, leads (.dieMapWrite 4 [1, 2, 3, 4, 5, 6, 7, 8]) s fun u =>
        u.svc.dieMap.toList == [1, 2, 3, 4, 5, 6, 7, 8] && u.svc.dieTerm == 4,
      after (.packageMapWrite 3 9 1000) s == some s, leads (.packageMapWrite 5 9 1000) s fun u => u.moduleOf 9 == 1000 && u.moduleOf 8 == 8 &&
        u.svc.pkgTerm == 5, s.voters d == [9, 10, 11, 12, 14, 15],
      near.voters d == [2, 7, 8], near.voters (.package 7) == [8, 0, 2],
      after (.dieLossDetected 3) s == some (q d [] false), after (.dieLossDetected 9) s == some s,
      after (.packageLoss 5) s == some { s with svc := { s.svc with ballot := some ⟨.package 5, [], [0], false⟩ } },
      after (.amputationVote 9 true) (q d [(9, false)] false) == some (q d [(9, false)] false),
      after (.amputationVote 4 true) (q d [] false) == some (q d [] false),
      after (.amputationVote 12 true) (q d [(9, true), (10, true), (11, false)] false)
        == some (q d [(9, true), (10, true), (11, false), (12, true)] false),
      after (.amputationVote 12 true) (q d [(9, true), (10, true), (11, true)] false)
        == some (q d [(9, true), (10, true), (11, true), (12, true)] true),
      leads (.amputationVote 12 true) (q (.die 8) [(9, true), (10, true), (11, true)] false) fun u =>
        u.svc.lostDies == [8] && u.svc.ballot == none,
      after .voteTimeout (q d [] true) == some (q d [] true), after .voteTimeout (q d [] false) == some s] = true := by decide +kernel

/-- Losses and warm resets (15_faults.md R401, R403, R406). -/
theorem test_losses :
    let vote := fun (p : Suspect) (s : State) => { s with svc := { s.svc with ballot := some ⟨p, [], [9], true⟩ } }
    let s := (alone worker).poke (scratchKey 0 64) [1, 2]
    let s := (s.poke (scratchKey 256 64) [3]).poke 0x40000 [4]
    let down : State := { s with dies := [(0, { inReset := true })] }
    every [after (.spareTakeover 0 7) s == some s, after (.spareTakeover 0 1) { s with svc := { dieTerm := 2 } } == some { s with svc := { dieTerm := 2 } },
      (vote (.die 0) s).condemned (.die 0), !((vote (.die 0) s).condemned (.die 1)),
      after (.packageLoss 0) s == some { s with svc := { s.svc with powered := false, stage := .off } },
      leads (.packageLoss 1) (vote (.package 1) s) fun u => u.svc.ballot == none && u.tasks == s.tasks && u.mem == s.mem,
      leads (.dieWarmReset 0) s fun u => (u.die 0).inReset && u.tasks == [] && u.byte (scratchKey 0 64) == 0 &&
        u.byte (scratchKey 256 64) == 3 && u.byte 0x40000 == 4 && u.svc == s.svc,
      after (.dieWarmReset 8) s == some s, after (.dieResetComplete 0) s == some s, after (.hubWarmReset 2) s == some s,
      down.identityOf 0 == some 0, (down.die 0).inReset] = true := by decide +kernel

/-- Stored errors, temperature (15_faults.md R396, R397, R399, R402; 16_system.md R430, R431). -/
theorem test_stored_errors :
    let k := 0x40000 / 8
    let l : Launch := { part := 0, ctx := 0, id := 0, tag := 77, key := 5, det := false, nomix := false, root := 0x40400,
                        domrec := 0, rootDie := 3, anyDie := false, prio := 0, stage := .running }
    let s : State := { alone worker with flips := [(k + 1, 4)] }
    let two : State := { s with flips := [(k + 1, 5), (k + 8, 3)] }
    let kept : State := { (two.putTask { worker with status := .parked .fault, wait := .rebuild 0x1000 }) with svc := { group := [(0, 0)] } }
    let coded : State := { s with
      svc := { group := (List.range 10).map fun i => (i, 0) }
      reads := ((List.range 9).map (· + 1)).map fun i =>
        ⟨i, tokenRebuild 0x1000, 0, i, 0x40000, some (List.replicate 64 (BitVec.ofNat 8 (i + 1)))⟩ }
    let hot : State := { s with svc := { islands := [(2, { steps := 8 }), (3, { steps := 1 })] } }
    every [after (.raspScrub 0x1001) s == some s, leads (.raspScrub 0x1000) s fun u => u.flips == [] && u.mem == s.mem &&
        u.tasks == s.tasks && u.poison == [] && (u.die (homePlace 0x40000 / 64 % 8)).corrected == 1,
      leads (.hardwareError (.line 0x40000)) two fun u => u.poisoned 0x40000 && u.flips == [(k + 8, 3)] && u.tasks == s.tasks && u.mem == s.mem,
      leads (.raspScrub 0x1000) two fun u => u.poison == [0x1000] && u.flips == [(k + 8, 3)],
      leads (.lineRebuild 0x1000) coded fun u => u.bytes 0x40000 64 == List.replicate 64 12 && u.byte 0x40040 == 0 && u.tasks == s.tasks,
      kept.inProtected 0x40000, after (.hardwareError (.line 0x40000)) kept == after (.lineRebuild 0x1000) kept,
      leads (.lineRebuild 0x1000) kept fun u => u.flips == [(k + 8, 3)] && u.poison == [] && u.mem == s.mem &&
        u.tasks == [{ worker with status := .ready }],
      leads (.hardwareError (.slot 1)) { s with launches := [l] } fun u => u.posts == [⟨0, 0, 0, 0, 4, 4, 77, 0⟩] && u.launches == [] && u.tasks == [],
      leads (.thermalStepDown 3) hot fun u => (u.island 3).steps == 2 && (u.island 2).steps == 8 && (u.part 0).sent == [(4, 1)],
      after (.thermalStepDown 2) hot == some hot, after (.thermalStepDown 9) hot == some hot,
      leads (.thermalStepDown 13) hot fun u => (u.island 13).steps == 1, after (.thermalStepUp 4) hot == some hot,
      leads (.thermalStepUp 3) (hot.modPart 0 ({ · with masked := 16 })) fun u => (u.island 3).steps == 0 && (u.part 0).pending == 16,
      leads (.thermalTrip 12) hot fun u => (u.island 12).tripped && !u.svc.powered && (u.part 0).sent == [(4, 1)],
      leads (.thermalTrip 8) hot fun u => (u.island 8).tripped && u.svc.ballot == some ⟨.die 8, [], [9, 10, 11, 12, 14, 15], false⟩ && u.tasks == s.tasks,
      after .coolantLoss s == some { s with svc := { powered := false, stage := .off } }] = true := by decide +kernel

/-- Fetch faults and the operations of a window (05_tasks.md R138; 15_faults.md R390 to R394). -/
theorem test_fetch_and_window :
    let t := { worker with pc := 0x9000000 }
    let s := home t
    let v := s.fetchWord t t.pc
    let f : PageFault := ⟨false, 0, 3⟩
    let w := home worker
    let y : State := { s with quads := [(3, { caps := [(2, 7, 9), (8, 7, 9)] })] }
    let a : Word := BitVec.ofNat 64 (scratchKey 300 0x10)
    let i : Word := 3 * 2 ^ 56 + 9
    let g : State := { (alone worker) with cores := [(300, { spallot := 0x2 }), (9, { preempted := true })] }
    every [traps (.reservedEncoding 0) s t 1, after (.instructionFetchFault 1) (home { t with status := .ready }) == some (home { t with status := .ready }),
      v.2 == .denied 0x9000000 (.page f), v.1 == s,
      leads (.instructionFetchFault 1) s fun u => u.tasks == (s.faultPark t .fetch 0x9000000 f.cause f).tasks && (u.die 0).entries.map (·.2) == ((s.faultPark t .fetch 0x9000000 f.cause f).die 0).entries.map (·.2), after (.instructionFetchFault 1) w == some w,
      after (.windowServiceOperation 0 (.diagr 0 5)) s == some s,
      leads (.windowServiceOperation 0 (.diagr 2 (0x12 * 2 ^ 56))) s fun u => (u.part 0).lastRead == 0x8000, after (.windowServiceOperation 0 (.tlbinv 7)) s == some s, invalidation 7 == none,
      leads (.windowServiceOperation 0 (.tlbinv 1)) y fun u => (u.quad 3).caps == [(8, 7, 9)] && u.tasks == y.tasks && u.mem == y.mem,
      after (.windowServiceOperation 0 (.mirq 1)) s == some s, meshInterrupt 1 == none, meshInterrupt 0x10090 == some (9, true),
      after (.windowServiceOperation 2 (.mirq 0x10090)) g == after (.resumeRequest 9) g,
      leads (.windowServiceOperation 2 (.mirq 0x80)) g fun u => u.core 8 == { stopping := true, notices := [2] },
      after (.windowServiceOperation 2 (.diagw 0 0 i a)) g == some (g.flip (scratchKey 300 0x10) (1#64 <<< 9)),
      after (.windowServiceOperation 3 (.diagw 0 0 i a)) g == some g,
      leads (.windowServiceOperation 2 (.diagw 7 0 (2 ^ 56 + 1 + 3 * 2 ^ 8 + 5 * 2 ^ 16 + 9 * 2 ^ 24) 0)) g fun u =>
        ((u.core 7).mctx.tile 1).row 3 == 1#2048 <<< (32 * 5 + 9) && ((u.core 7).mctx.tile 1).bad == [3] &&
        ((u.core 7).mctx.tile 1).row 5 == 0,
      (w.translate 0 .load 0x40010).2.isOk, after (.windowServiceOperation 0 (.diagw 0 0 (2 ^ 58 + 9) 0x40010)) w ==
        some ((w.translate 0 .load 0x40010).1.flip 0x40010 (1#64 <<< 9)),
      leads (.windowServiceOperation 0 (.mask 3)) g fun u => (u.part 0).masked == 8] = true := by decide +kernel

/-- The state after a step of the machine. -/
noncomputable def stepped (s : State) : Option State := match step s with
  | .next u => some u
  | _ => none

/-- Register `g3` of task 1, its pc and its cause after a step. -/
noncomputable def shows (s : State) : Option (Word × Word × BitVec 8) :=
  ((stepped s).bind (·.task? 1)).map fun t => (t.greg 3, t.pc, t.cause)

/-- A step runs what is due: a happening, the instruction at the pc (`ADDI g3, g0, 5`), a reserved word, a word of a frame
or of a gang leader's stream, a round of the units (05_tasks.md R134, R138, R147, R150; 03_encoding.md R86). -/
theorem test_step :
    let s := State.reset.withFetchWord 32 0x24600005
    let t : Task := { uid := 1, sid := 0, status := .running, pc := 0x40000 }
    let f : Frame := { addr := 0x40010, words := [0x24600007#32], smask := 0, stag := 0, count := 2, i := 0, j := 0, active := true }
    let r := s.putTask { t with rep := some f }
    let b : Beat := { word := 0x24600009#32, follower := none, pc := 0x40008, rep := none }
    let g := s.putTask { t with gang := some { leader := 2, members := [], stream := [b] } }
    let u := (s.takeTurn 0 t).fetchWord t t.pc
    let v := r.takeTurn 0 { t with rep := some f }
    every [s.agenda == [], s.nextCore == some 0, s.tasks == [t], (s.takeTurn 0 t).unitFaults t == false,
      u.2 == .bytes [0x05, 0x00, 0x60, 0x24], shows s == some (5, 0x40004, 0), (stepped s).map (·.turn) == some 1,
      (stepped { s with agenda := [.event .pcieLinkDown] }).map (·.svc.pcieUp) == some false,
      shows ((s.putTask { t with trapv := 0x50000 }).pokeNat 0x40000 4 0) == some (0, 0x50000, 1), r.nextCore == some 0, v.unitFaults t == false,
      (shows r).map (·.1) == some 7, g.nextCore == some 0, shows g == some (9, 0x40008, 0),
      (stepped State.reset).map (·.turn) == some 0, State.reset.nextCore == none] = true := by decide +kernel

/-- Words of every row, control, tasks: 03_encoding.md R75. -/
theorem test_words_control :
    decode 0x0000005B#32 = .ok (.br 91) ∧ decode 0x03E34567#32 = .ok (.bp 7 true 2311527) ∧
    decode 0x04000035#32 = .ok (.jal 53) ∧ decode 0x0A8C005B#32 = .ok (.jalr 20 12 91) ∧
    decode 0x0D804567#32 = .ok (.loop 12 17767) ∧ decode 0x0C000000#32 = .ok (.tend) ∧
    decode 0x1000005B#32 = .ok (.limm 91) ∧ decode 0x14E77004#32 = .ok (.rep 7 7 7 4) ∧
    decode 0x1B5D6955#32 = .ok (.wait 53 53 20 21 5) ∧ decode 0x1C0C4000#32 = .ok (.tspawn 12 8) ∧
    decode 0x1C180001#32 = .ok (.tdone 24) ∧ decode 0x1C000002#32 = .ok (.tyield) ∧
    decode 0x1C002003#32 = .ok (.gang .four) ∧ decode 0x1C000004#32 = .ok (.ungang) ∧
    decode 0x1F10E005#32 = .ok (.send 24 16 28) ∧ decode 0x1E8C4006#32 = .ok (.recv 20 12 8) ∧
    decode 0x1C000011#32 = .ok (.phase .quad) :=
  ⟨rfl, rfl, rfl, rfl, rfl, rfl, rfl, rfl, rfl, rfl, rfl, rfl, rfl, rfl, rfl, rfl, rfl⟩

/-- Words of every row, integer register and immediate forms: R76. -/
theorem test_words_integer :
    decode 0x2310E000#32 = .ok (.add 24 16 28) ∧ decode 0x228C4001#32 = .ok (.sub 20 12 8) ∧
    decode 0x2198A002#32 = .ok (.and 12 24 20) ∧ decode 0x2310E003#32 = .ok (.or 24 16 28) ∧
    decode 0x228C4004#32 = .ok (.xor 20 12 8) ∧ decode 0x2198A005#32 = .ok (.andn 12 24 20) ∧
    decode 0x2310E006#32 = .ok (.shl 24 16 28) ∧ decode 0x228C4007#32 = .ok (.shr 20 12 8) ∧
    decode 0x2198A008#32 = .ok (.sar 12 24 20) ∧ decode 0x2310E009#32 = .ok (.rol 24 16 28) ∧
    decode 0x228C400A#32 = .ok (.minI64 20 12 8) ∧ decode 0x2198A00B#32 = .ok (.minN64 12 24 20) ∧
    decode 0x2310E00C#32 = .ok (.maxI64 24 16 28) ∧ decode 0x228C400D#32 = .ok (.maxN64 20 12 8) ∧
    decode 0x2198A010#32 = .ok (.mul 12 24 20) ∧ decode 0x2310E011#32 = .ok (.mulhI64 24 16 28) ∧
    decode 0x228C4012#32 = .ok (.mulhN64 20 12 8) ∧ decode 0x2198A014#32 = .ok (.divI64 12 24 20) ∧
    decode 0x2310E015#32 = .ok (.divN64 24 16 28) ∧ decode 0x228C4016#32 = .ok (.remI64 20 12 8) ∧
    decode 0x2198A017#32 = .ok (.remN64 12 24 20) ∧ decode 0x23100018#32 = .ok (.sextB 24 16) ∧
    decode 0x228C0019#32 = .ok (.sextH 20 12) ∧ decode 0x2198001A#32 = .ok (.sextW 12 24) ∧
    decode 0x2310001C#32 = .ok (.zextB 24 16) ∧ decode 0x228C001D#32 = .ok (.zextH 20 12) ∧
    decode 0x2198001E#32 = .ok (.zextW 12 24) ∧ decode 0x2310E020#32 = .ok (.bext 24 16 28) ∧
    decode 0x228C4021#32 = .ok (.bins 20 12 8) ∧ decode 0x21980022#32 = .ok (.clz 12 24) ∧
    decode 0x23100023#32 = .ok (.ctz 24 16) ∧ decode 0x228C0024#32 = .ok (.popc 20 12) ∧
    decode 0x21980025#32 = .ok (.brev 12 24) ∧ decode 0x2310E029#32 = .ok (.leaH 24 16 28) ∧
    decode 0x228C402A#32 = .ok (.leaW 20 12 8) ∧ decode 0x2198A02B#32 = .ok (.leaD 12 24 20) ∧
    decode 0x23100135#32 = .ok (.shlImm 24 16 53) ∧ decode 0x228C015B#32 = .ok (.shrImm 20 12 27) ∧
    decode 0x219801A7#32 = .ok (.sarImm 12 24 39) ∧ decode 0x231001F5#32 = .ok (.rolImm 24 16 53) ∧
    decode 0x268C005B#32 = .ok (.addi 20 12 91) ∧ decode 0x29984567#32 = .ok (.andi 12 24 17767) ∧
    decode 0x2F100035#32 = .ok (.ori 24 16 53) :=
  ⟨rfl, rfl, rfl, rfl, rfl, rfl, rfl, rfl, rfl, rfl, rfl, rfl, rfl, rfl, rfl, rfl, rfl, rfl, rfl, rfl, rfl, rfl,
    rfl, rfl, rfl, rfl, rfl, rfl, rfl, rfl, rfl, rfl, rfl, rfl, rfl, rfl, rfl, rfl, rfl, rfl, rfl, rfl, rfl⟩

/-- Words of every row, compares and predicates: R77. -/
theorem test_words_predicates :
    decode 0x306C4000#32 = .ok (.cmpeq 3 12 8) ∧ decode 0x30F83C00#32 = .ok (.cmpeqImm 7 24 7) ∧
    decode 0x30B0E001#32 = .ok (.cmpne 5 16 28) ∧ decode 0x306CDC01#32 = .ok (.cmpneImm 3 12 27) ∧
    decode 0x30F8A002#32 = .ok (.cmpltI64 7 24 20) ∧ decode 0x30B0AC02#32 = .ok (.cmpltI64Imm 5 16 21) ∧
    decode 0x306C4003#32 = .ok (.cmpltN64 3 12 8) ∧ decode 0x30F83C03#32 = .ok (.cmpltN64Imm 7 24 7) ∧
    decode 0x30B0E004#32 = .ok (.cmpleI64 5 16 28) ∧ decode 0x306CDC04#32 = .ok (.cmpleI64Imm 3 12 27) ∧
    decode 0x30F8A005#32 = .ok (.cmpleN64 7 24 20) ∧ decode 0x30B0AC05#32 = .ok (.cmpleN64Imm 5 16 21) ∧
    decode 0x306C4006#32 = .ok (.cmpgtI64 3 12 8) ∧ decode 0x30F83C06#32 = .ok (.cmpgtI64Imm 7 24 7) ∧
    decode 0x30B0E007#32 = .ok (.cmpgtN64 5 16 28) ∧ decode 0x306CDC07#32 = .ok (.cmpgtN64Imm 3 12 27) ∧
    decode 0x30F8A008#32 = .ok (.cmpgeI64 7 24 20) ∧ decode 0x30B0AC08#32 = .ok (.cmpgeI64Imm 5 16 21) ∧
    decode 0x306C4009#32 = .ok (.cmpgeN64 3 12 8) ∧ decode 0x30F83C09#32 = .ok (.cmpgeN64Imm 7 24 7) ∧
    decode 0x30002010#32 = .ok (.pand 0 0 4) ∧ decode 0x30840011#32 = .ok (.por 4 4 0) ∧
    decode 0x30802012#32 = .ok (.pxor 4 0 4) ∧ decode 0x30002013#32 = .ok (.pandn 0 0 4) ∧
    decode 0x30840014#32 = .ok (.pnot 4 4) ∧ decode 0x30800015#32 = .ok (.pmov 4 0) ∧
    decode 0x33000020#32 = .ok (.pget 24) ∧ decode 0x300C0021#32 = .ok (.pset 12) :=
  ⟨rfl, rfl, rfl, rfl, rfl, rfl, rfl, rfl, rfl, rfl, rfl, rfl, rfl, rfl, rfl, rfl, rfl, rfl, rfl, rfl, rfl, rfl,
    rfl, rfl, rfl, rfl, rfl, rfl⟩

/-- Words of every row, scalar FP32: R78. -/
theorem test_words_float :
    decode 0x3598A000#32 = .ok (.fadd 12 24 20) ∧ decode 0x3710E001#32 = .ok (.fsub 24 16 28) ∧
    decode 0x368C4002#32 = .ok (.fmul 20 12 8) ∧ decode 0x3598A003#32 = .ok (.fdiv 12 24 20) ∧
    decode 0x37100004#32 = .ok (.fsqrt 24 16) ∧ decode 0x368C4005#32 = .ok (.fmin 20 12 8) ∧
    decode 0x3598A006#32 = .ok (.fmax 12 24 20) ∧ decode 0x3710E007#32 = .ok (.fma 24 16 28) ∧
    decode 0x368C4008#32 = .ok (.fnma 20 12 8) ∧ decode 0x35980009#32 = .ok (.fabs 12 24) ∧
    decode 0x3710000A#32 = .ok (.fneg 24 16) ∧ decode 0x346C4010#32 = .ok (.fcmpeq 3 12 8) ∧
    decode 0x34F8A011#32 = .ok (.fcmplt 7 24 20) ∧ decode 0x34B0E012#32 = .ok (.fcmple 5 16 28) ∧
    decode 0x346C4013#32 = .ok (.fcmpun 3 12 8) ∧ decode 0x35980720#32 = .ok (.fcvtiI32 12 24 .trap true) ∧
    decode 0x37100321#32 = .ok (.fcvtiN32 24 16 .inf true) ∧ decode 0x368C0722#32 = .ok (.fcvtiI64 20 12 .trap true) ∧
    decode 0x35980723#32 = .ok (.fcvtiN64 12 24 .trap true) ∧ decode 0x37100024#32 = .ok (.icvtfI64 24 16) ∧
    decode 0x368C0025#32 = .ok (.icvtfN64 20 12) ∧ decode 0x35980626#32 = .ok (.fcvtBf16 12 24 .trap) ∧
    decode 0x37100227#32 = .ok (.fcvtF16 24 16 .inf) ∧ decode 0x368C0028#32 = .ok (.fwidBf16 20 12) ∧
    decode 0x35980029#32 = .ok (.fwidF16 12 24) :=
  ⟨rfl, rfl, rfl, rfl, rfl, rfl, rfl, rfl, rfl, rfl, rfl, rfl, rfl, rfl, rfl, rfl, rfl, rfl, rfl, rfl, rfl, rfl,
    rfl, rfl, rfl⟩

/-- Words of every row, scalar memory: R79. -/
theorem test_words_memory :
    decode 0x3B100351#32 = .ok (.ld 24 16 53 .h) ∧ decode 0x3A8C65B7#32 = .ok (.ldAcq 20 12 .pkg 91 .d) ∧
    decode 0x38185678#32 = .ok (.pfL1 24 1383) ∧ decode 0x38300358#32 = .ok (.pfL2 16 53) ∧
    decode 0x380C05BC#32 = .ok (.hintNeed 12 91) ∧ decode 0x3838567C#32 = .ok (.hintDone 24 1383) ∧
    decode 0x3850035C#32 = .ok (.hintNear 16 53) ∧ decode 0x3F6C05B3#32 = .ok (.st 27 12 91 .d) ∧
    decode 0x3CF89677#32 = .ok (.stRel 7 24 .pod 359 .d) :=
  ⟨rfl, rfl, rfl, rfl, rfl, rfl, rfl, rfl, rfl⟩

/-- Words of every row, chains, atomics, reductions, order, allocation: R80. -/
theorem test_words_atomics :
    decode 0x4310E000#32 = .ok (.cld 24 16 28) ∧ decode 0x428C4301#32 = .ok (.vcld 20 12 8 3) ∧
    decode 0x4598A079#32 = .ok (.amoAdd 12 24 20 .d .ar .quad) ∧
    decode 0x4710E0ED#32 = .ok (.amoAnd 24 16 28 .d .acq .sys) ∧ decode 0x468C417B#32 = .ok (.amoOr 20 12 8 .d .ar .pkg) ∧
    decode 0x4598A1F9#32 = .ok (.amoXor 12 24 20 .d .ar .quad) ∧
    decode 0x4710E26D#32 = .ok (.amoMinI 24 16 28 .d .acq .sys) ∧
    decode 0x468C42FB#32 = .ok (.amoMaxI 20 12 8 .d .ar .pkg) ∧
    decode 0x4598A379#32 = .ok (.amoMinN 12 24 20 .d .ar .quad) ∧
    decode 0x4710E3ED#32 = .ok (.amoMaxN 24 16 28 .d .acq .sys) ∧
    decode 0x468C447B#32 = .ok (.amoSwap 20 12 8 .d .ar .pkg) ∧ decode 0x4598A4F9#32 = .ok (.cas 12 24 20 .d .ar .quad) ∧
    decode 0x4710E54D#32 = .ok (.famoAdd 24 16 28 .acq .sys) ∧ decode 0x468C45DB#32 = .ok (.famoMin 20 12 8 .ar .pkg) ∧
    decode 0x4598A659#32 = .ok (.famoMax 12 24 20 .ar .quad) ∧ decode 0x4810E075#32 = .ok (.redAdd 16 28 .d true .sys) ∧
    decode 0x480C40F3#32 = .ok (.redAnd 12 8 .d true .pkg) ∧ decode 0x4818A171#32 = .ok (.redOr 24 20 .d true .quad) ∧
    decode 0x4810E1F5#32 = .ok (.redXor 16 28 .d true .sys) ∧ decode 0x480C4273#32 = .ok (.redMinI 12 8 .d true .pkg) ∧
    decode 0x4818A2F1#32 = .ok (.redMaxI 24 20 .d true .quad) ∧ decode 0x4810E375#32 = .ok (.redMinN 16 28 .d true .sys) ∧
    decode 0x480C43F3#32 = .ok (.redMaxN 12 8 .d true .pkg) ∧ decode 0x4818A451#32 = .ok (.fredAdd 24 20 true .quad) ∧
    decode 0x4810E4D5#32 = .ok (.fredMin 16 28 true .sys) ∧ decode 0x480C4553#32 = .ok (.fredMax 12 8 true .pkg) ∧
    decode 0x4998A5F1#32 = .ok (.redx 12 24 20 true .quad) ∧ decode 0x4C00000D#32 = .ok (.fence .acq .sys) ∧
    decode 0x4C0C0103#32 = .ok (.bar 12 .pkg) ∧ decode 0x4C000238#32 = .ok (.evwait 7) ∧
    decode 0x4C0003A8#32 = .ok (.evsig 21) ∧ decode 0x5F100000#32 = .ok (.allocg 24 16) ∧
    decode 0x5C0C0001#32 = .ok (.genpass 12) :=
  ⟨rfl, rfl, rfl, rfl, rfl, rfl, rfl, rfl, rfl, rfl, rfl, rfl, rfl, rfl, rfl, rfl, rfl, rfl, rfl, rfl, rfl, rfl,
    rfl, rfl, rfl, rfl, rfl, rfl, rfl, rfl, rfl, rfl, rfl⟩

/-- Words of every row, channels, copies, capabilities, domains: R81. -/
theorem test_words_transfers :
    decode 0x5188C000#32 = .ok (.chopen 12 8 24) ∧ decode 0x53000100#32 = .ok (.chclose 24) ∧
    decode 0x521CA200#32 = .ok (.chstat 16 28 20) ∧ decode 0x5188C303#32 = .ok (.stc 12 8 24 .d) ∧
    decode 0x53142400#32 = .ok (.flagw 24 20 4) ∧ decode 0x561CA0A0#32 = .ok (.cpy 5 16 28 20) ∧
    decode 0x5588C160#32 = .ok (.cpy2d 3 12 8 24) ∧ decode 0x571403E0#32 = .ok (.cpybind 7 24 20) ∧
    decode 0x5400A4A0#32 = .ok (.cpywm 5 20) ∧ decode 0x54000560#32 = .ok (.cpycan 3) ∧
    decode 0x571426E0#32 = .ok (.cpyec 7 24 20 4) ∧ decode 0x5A1C0000#32 = .ok (.capgive 16 28) ∧
    decode 0x59800100#32 = .ok (.captake 12) ∧ decode 0x5B002200#32 = .ok (.capq 24 4) ∧
    decode 0x5A00A300#32 = .ok (.domopen 16 20) ∧ decode 0x59800400#32 = .ok (.domclose 12) ∧
    decode 0x5B000500#32 = .ok (.domfail 24) :=
  ⟨rfl, rfl, rfl, rfl, rfl, rfl, rfl, rfl, rfl, rfl, rfl, rfl, rfl, rfl, rfl, rfl, rfl⟩

/-- Words of every row, vector floating arithmetic: R82. -/
theorem test_words_vector_float :
    decode 0x6080A5C0#32 = .ok (.vaddF (.stream 4) (.stream 0) 20 5 .f32) ∧
    decode 0x6000E6D1#32 = .ok (.vsubF (.stream 0) (.stream 0) 28 6 .bf16) ∧
    decode 0x608443C2#32 = .ok (.vmulF (.stream 4) (.stream 4) 8 3 .f32) ∧
    decode 0x6080A5C3#32 = .ok (.vdiv (.stream 4) (.stream 0) 20 5 .f32) ∧
    decode 0x6000E6D4#32 = .ok (.vminF (.stream 0) (.stream 0) 28 6 .bf16) ∧
    decode 0x608443C5#32 = .ok (.vmaxF (.stream 4) (.stream 4) 8 3 .f32) ∧
    decode 0x6180A586#32 = .ok (.vfma 12 (.stream 0) 20 5 .f32) ∧
    decode 0x6300E697#32 = .ok (.vfms 24 (.stream 0) 28 6 .bf16) ∧
    decode 0x62844388#32 = .ok (.vfnma 20 (.stream 4) 8 3 .f32) ∧
    decode 0x608005C9#32 = .ok (.vabs (.stream 4) (.stream 0) 5 .f32) ∧
    decode 0x600006DA#32 = .ok (.vneg (.stream 0) (.stream 0) 6 .bf16) ∧
    decode 0x608403CB#32 = .ok (.vsqrt (.stream 4) (.stream 4) 3 .f32) ∧
    decode 0x608005CC#32 = .ok (.vrcp (.stream 4) (.stream 0) 5 .f32) ∧
    decode 0x600006DD#32 = .ok (.vrsq (.stream 0) (.stream 0) 6 .bf16) ∧
    decode 0x608403CE#32 = .ok (.vexp2 (.stream 4) (.stream 4) 3 .f32) :=
  ⟨rfl, rfl, rfl, rfl, rfl, rfl, rfl, rfl, rfl, rfl, rfl, rfl, rfl, rfl, rfl⟩

/-- Words of every row, vector integer arithmetic: R82. -/
theorem test_words_vector_integer :
    decode 0x6480A5C0#32 = .ok (.vaddInt (.stream 4) (.stream 0) 20 5 .w32) ∧
    decode 0x6400E6D1#32 = .ok (.vsubInt (.stream 0) (.stream 0) 28 6 .w16) ∧
    decode 0x648443C2#32 = .ok (.vmulInt (.stream 4) (.stream 4) 8 3 .w32) ∧
    decode 0x6480A5C3#32 = .ok (.vmulhI (.stream 4) (.stream 0) 20 5 .w32) ∧
    decode 0x6400E6D4#32 = .ok (.vmulhN (.stream 0) (.stream 0) 28 6 .w16) ∧
    decode 0x648443C5#32 = .ok (.vminI (.stream 4) (.stream 4) 8 3 .w32) ∧
    decode 0x6480A5C6#32 = .ok (.vminN (.stream 4) (.stream 0) 20 5 .w32) ∧
    decode 0x6400E6D7#32 = .ok (.vmaxI (.stream 0) (.stream 0) 28 6 .w16) ∧
    decode 0x648443C8#32 = .ok (.vmaxN (.stream 4) (.stream 4) 8 3 .w32) ∧
    decode 0x6480A5C9#32 = .ok (.vand (.stream 4) (.stream 0) 20 5 .w32) ∧
    decode 0x6400E6DA#32 = .ok (.vor (.stream 0) (.stream 0) 28 6 .w16) ∧
    decode 0x648443CB#32 = .ok (.vxor (.stream 4) (.stream 4) 8 3 .w32) ∧
    decode 0x6480A5CC#32 = .ok (.vshl (.stream 4) (.stream 0) 20 5 .w32) ∧
    decode 0x6400E6DD#32 = .ok (.vshr (.stream 0) (.stream 0) 28 6 .w16) ∧
    decode 0x648443CE#32 = .ok (.vsar (.stream 4) (.stream 4) 8 3 .w32) ∧
    decode 0x6480A5CF#32 = .ok (.vadds (.stream 4) (.stream 0) 20 5 .w32) :=
  ⟨rfl, rfl, rfl, rfl, rfl, rfl, rfl, rfl, rfl, rfl, rfl, rfl, rfl, rfl, rfl, rfl⟩

/-- Words of every row, conversions, compares, reductions, masks, moves: R82. -/
theorem test_words_vector_others :
    decode 0x68A3B6F9#32 = .ok (.vcvt (.stream 5) (.stream 3) .nan true true 6 .i8 .bf16) ∧
    decode 0x6C844398#32 = .ok (.vcmpeq 4 (.stream 4) 8 3 .i32) ∧
    decode 0x6C80A5B9#32 = .ok (.vcmpne 4 (.stream 0) 20 5 .i8) ∧
    decode 0x6C00E6AA#32 = .ok (.vcmplt 0 (.stream 0) 28 6 .i16) ∧
    decode 0x6C84439B#32 = .ok (.vcmple 4 (.stream 4) 8 3 .i32) ∧
    decode 0x6C80A5BC#32 = .ok (.vcmpgt 4 (.stream 0) 20 5 .i8) ∧
    decode 0x6C00E6AD#32 = .ok (.vcmpge 0 (.stream 0) 28 6 .i16) ∧
    decode 0x6C844386#32 = .ok (.vcmpun 4 (.stream 4) 8 3 .f32) ∧
    decode 0x718005B8#32 = .ok (.vrsum 12 (.stream 0) 5 .i8) ∧ decode 0x730006A9#32 = .ok (.vrmin 24 (.stream 0) 6 .i16) ∧
    decode 0x7284039A#32 = .ok (.vrmax 20 (.stream 4) 3 .i32) ∧ decode 0x718005BB#32 = .ok (.vscan 12 (.stream 0) 5 .i8) ∧
    decode 0x730006AC#32 = .ok (.vscanmin 24 (.stream 0) 6 .i16) ∧
    decode 0x7284039D#32 = .ok (.vscanmax 20 (.stream 4) 3 .i32) ∧
    decode 0x718005AE#32 = .ok (.vrand 12 (.stream 0) 5 .i16) ∧ decode 0x7300069F#32 = .ok (.vror 24 (.stream 0) 6 .i32) ∧
    decode 0x74840000#32 = .ok (.kand 4 4 0) ∧ decode 0x74802001#32 = .ok (.kor 4 0 4) ∧
    decode 0x74002002#32 = .ok (.kxor 0 0 4) ∧ decode 0x74840003#32 = .ok (.kandn 4 4 0) ∧
    decode 0x74800004#32 = .ok (.knot 4 0) ∧ decode 0x74000005#32 = .ok (.kmov 0 0) ∧
    decode 0x7A8C4300#32 = .ok (.vperm 20 12 8 3 .w32) ∧ decode 0x7998A501#32 = .ok (.vsel 12 24 20 5 .w32) ∧
    decode 0x7B10E612#32 = .ok (.vbcast 24 16 28 6 .w16) ∧ decode 0x7A8C4303#32 = .ok (.vslup 20 12 8 3 .w32) ∧
    decode 0x7998A504#32 = .ok (.vsldn 12 24 20 5 .w32) ∧ decode 0x7B10E615#32 = .ok (.vzip 24 16 28 6 .w16) ∧
    decode 0x7A8C4306#32 = .ok (.vunzip 20 12 8 3 .w32) ∧ decode 0x79980507#32 = .ok (.vmov 12 24 5 .w32) ∧
    decode 0x7F100600#32 = .ok (.vrng 24 16 6) ∧ decode 0x7E8C4301#32 = .ok (.vdqGq4 20 12 8 3) ∧
    decode 0x7D980502#32 = .ok (.vsplat 12 24 5 .w32) ∧ decode 0x7F10E013#32 = .ok (.vext 24 16 28 .w16) ∧
    decode 0x7E800304#32 = .ok (.viota 20 3 .w32) :=
  ⟨rfl, rfl, rfl, rfl, rfl, rfl, rfl, rfl, rfl, rfl, rfl, rfl, rfl, rfl, rfl, rfl, rfl, rfl, rfl, rfl, rfl, rfl,
    rfl, rfl, rfl, rfl, rfl, rfl, rfl, rfl, rfl, rfl, rfl, rfl, rfl⟩

/-- Words of every row, vector memory and streams: R83. -/
theorem test_words_vector_memory :
    decode 0x8198A500#32 = .ok (.vld 12 24 20 5 .w32) ∧ decode 0x8310E611#32 = .ok (.vst 24 16 28 6 .w16) ∧
    decode 0x828C4302#32 = .ok (.vlds 20 12 8 3 .w32) ∧ decode 0x8198A503#32 = .ok (.vsts 12 24 20 5 .w32) ∧
    decode 0x8710E610#32 = .ok (.vgath 24 16 28 6 .w16) ∧ decode 0x868C4301#32 = .ok (.vscat 20 12 8 3 .w32) ∧
    decode 0x89980510#32 = .ok (.vldzBf16 12 24 5) ∧ decode 0x8B100611#32 = .ok (.vstzBf16 24 16 6) ∧
    decode 0x888C0002#32 = .ok (.qbind 4 12) ∧ decode 0x89800003#32 = .ok (.qstat 12 0) ∧
    decode 0x88000004#32 = .ok (.qflush 0) ∧ decode 0x8E8C4300#32 = .ok (.vstc 20 12 8 3 .w32) ∧
    decode 0x8D98A501#32 = .ok (.vscatc 12 24 20 5 .w32) :=
  ⟨rfl, rfl, rfl, rfl, rfl, rfl, rfl, rfl, rfl, rfl, rfl, rfl, rfl⟩

/-- Words of every row, matrix: R84. -/
theorem test_words_matrix :
    decode 0x92000000#32 = .ok (.mctx 16) ∧ decode 0x91800100#32 = .ok (.mprog 12) ∧
    decode 0x93140200#32 = .ok (.mscale 24 20) ∧ decode 0x94000001#32 = .ok (.mzero 1) ∧
    decode 0x95800100#32 = .ok (.mldb 12) ∧ decode 0x97140203#32 = .ok (.mldc 3 24 20) ∧
    decode 0x961C0301#32 = .ok (.mst 1 16 28) ∧ decode 0x9988C003#32 = .ok (.mma 3 12 8 24) ∧
    decode 0x9C000000#32 = .ok (.mring) ∧ decode 0x9E00A10D#32 = .ok (.mchk 1 16 20 true true) :=
  ⟨rfl, rfl, rfl, rfl, rfl, rfl, rfl, rfl, rfl, rfl⟩

/-- Words of every row, system: R85. -/
theorem test_words_system :
    decode 0xFC00D85B#32 = .ok (.trap 3547) ∧ decode 0xFC000080#32 = .ok (.eret) ∧
    decode 0xFF00A935#32 = .ok (.sysr 24 2741) ∧ decode 0xFC0CD9DB#32 = .ok (.sysw 3547 12) ∧
    decode 0xFC180200#32 = .ok (.tlbinv 24) ∧ decode 0xFC10E280#32 = .ok (.diagw 16 28) ∧
    decode 0xFE8C0300#32 = .ok (.diagr 20 12) ∧ decode 0xFC180380#32 = .ok (.mirq 24) :=
  ⟨rfl, rfl, rfl, rfl, rfl, rfl, rfl, rfl⟩

/-- The word of `VLSP`, in the word space of the host chiplet (16_system.md R424). -/
theorem test_words_host : decodeHost 0x6A0A8C0B#32 = some (.vlsp 0x3500 21 24) := rfl

/-- The queue of core 0 holds one vector memory instruction that has gone to its unit. -/
def memoryHead (i : Instr) (x y : Word) (cls : Machine.Class) : State :=
  { till loader with
    cores := [(0, { lanes with vq := [{ queued i x with y := y, quarters := 0, cls := cls }]
                               k := lanes.k.set 3 5
                               v := lanes.v.set 4 0xFF_00_0B_FF_02_00_05_01 })] }

/-- A load's elements come from the bytes that the checked addresses hold; the others keep their bits or are 0. -/
def loadsElements (cycle : Instr) (s : State) (els : List (Nat × Word)) (n : Nat) (d k : Nat) (out : Nat → Bool) : Bool :=
  let t := loader
  let g := ((s.core 0).vq.headD (queued .mring)).agent 0
  match s.unitCheck t g .vload .none (els.map fun p => (p.2, n / 8)) with
  | (v, .ok ls) => match v.unitRead t g (ls.map fun l => (l, n / 8)) with
    | (w, .bytes bss) => leads cycle s fun u => (u.core 0).vq == [] && u.mem == w.mem &&
        (List.range 256).all (fun i => (u.core 0).active k i == ((w.core 0).active k i && !out i)) &&
        (List.range (2048 / n)).all fun i => elem n ((u.core 0).v.toList.getD d 0) i ==
          match (List.zip els bss).find? fun p => p.1.1 == i with
          | some p => BitVec.ofNat n (leNat p.2)
          | none => if out i then 0 else elem n ((w.core 0).v.toList.getD d 0) i
    | _ => false
  | _ => false

/-- A store makes its writes as `unitStore` does. -/
def storesElements (cycle : Instr) (s : State) (ws : List (Word × List Byte)) (k : Nat) (out : Nat → Bool) : Bool :=
  let t := loader
  let e := (s.core 0).vq.headD (queued .mring)
  match s.unitCheck t (e.agent 0) .vstore .store (ws.map fun p => (p.1, p.2.length)) with
  | (v, .ok ls) =>
    let xs := List.zipWith (fun (p : Word × List Byte) l => (p.1, l, p.2)) ws ls
    let z := v.unitStore t (e.agent 0) xs
    e.cls == (if ls.any fun l => l.pkg != v.svc.packageId && !t.keeps l then .fb else .st) && !(v.unitHits xs) &&
      leads cycle s fun u => (u.core 0).vq == [] && u.mem == z.mem && u.requests == z.requests &&
        u.fab == z.fab && u.tasks == z.tasks &&
        (List.range 256).all fun i => (u.core 0).active k i == ((v.core 0).active k i && !out i)
  | _ => false

/-- Vector loads and stores at the head of the queue (07_scratchpad.md R198 to R203). -/
theorem test_vector_memory_heads :
    let a : Word := 0x40100
    let p : Word := 0xFFFFFFFFFFFC0010
    let act := fun (n : Nat) (k : Reg3) => (List.range (2048 / n)).filter fun i => lanes.active k i
    let row := fun (n : Nat) (k : Reg3) (x y : Word) => (act n k).map fun i => (i, x + y * BitVec.ofNat 64 i)
    let idx := fun i => (elem 8 (0xFF_00_0B_FF_02_00_05_01 : VWord) i).toNat
    let ins := ((act 8 1).filter fun i => decide (idx i < 16)).map fun i => (i, a + BitVec.ofNat 64 (idx i))
    let out := fun i => decide (i < 256) && lanes.active 1 i && decide (16 ≤ idx i)
    let put := fun (n d : Nat) (els : List (Nat × Word)) => els.map fun q =>
      (q.2, leBytes (n / 8) (elem n (lanes.v.toList.getD d 0) q.1).toNat)
    let far : Word := 0x50000
    every [loadsElements (.vectorArbiterCycle 0 0) (memoryHead (.vld 3 7 8 1 .w8) a 1 .ld) (row 8 1 a 1) 8 3 1 fun _ => false,
      loadsElements (.vectorArbiterCycle 0 0) (memoryHead (.vlds 3 7 8 3 .w16) p 6 .ld) [(0, p), (2, p + 12)] 16 3 3 fun _ => false,
      (act 8 1).length == 12, ins.length < 12, loadsElements (.vectorArbiterCycle 0 0) (memoryHead (.vgath 3 7 4 1 .w8) a 16 .ld) ins 8 3 1 out,
      storesElements (.vectorArbiterCycle 0 0) (memoryHead (.vst 2 7 8 1 .w8) a 1 .st) (put 8 2 (row 8 1 a 1)) 1 fun _ => false,
      storesElements (.vectorArbiterCycle 0 0) (memoryHead (.vsts 2 7 8 3 .w16) p 6 .st) (put 16 2 [(0, p), (2, p + 12)]) 3 fun _ => false,
      storesElements (.vectorArbiterCycle 0 0) (memoryHead (.vst 2 7 8 3 .w16) far 2 .fb) (put 16 2 [(0, far), (2, far + 4)]) 3 fun _ => false,
      storesElements (.vectorArbiterCycle 0 0) (memoryHead (.vscat 2 7 4 1 .w8) a 16 .st) (put 8 2 ins) 1 out] = true := by decide +kernel

/-- A sparse record is read and written at the head of the queue, and a stream bound and flushed (07_scratchpad.md R191,
R195, R201, R202). -/
theorem test_sparse_heads :
    let p : Word := 0xFFFFFFFFFFFC0100
    let key := scratchKey 0 0x100
    let m := 2 ^ 0 + 2 ^ 5 + 2 ^ 6 + 2 ^ 22 + 2 ^ 100
    let z := ((memoryHead (.vldzBf16 3 7 1) p 0 .ld).pokeNat key 24 (5 + 9 * 2 ^ 16 + m * 2 ^ 64)).pokeNat (key + 24) 10
      0x5555444433332222_1111
    let below := fun i => ((List.range i).filter m.testBit).length
    let e : VEntry := { queued (.vstzBf16 2 7 1) p with quarters := 0, cls := .st, sync := true }
    let w := fun (e : VEntry) => ((memoryHead (.vstzBf16 2 7 1) p 0 .st).modCore 0 fun c => { c with vq := [e] }).pokeNat key 8
      (0x1234 + 40 * 2 ^ 16)
    let f : VEntry := { e with sync := false, capacity := some 40 }
    let kept := (List.range 128).filter fun i => lanes.active 1 i && elem 16 lanes.v[2] i != 0#16
    let mask := (kept.map fun i => 2 ^ i).sum
    let ws := [(p, leBytes 8 (kept.length + 40 * 2 ^ 16)), (p + 8, leBytes 8 (mask % 2 ^ 64)), (p + 16, leBytes 8 (mask / 2 ^ 64))] ++
      kept.zipIdx.map fun q => (p + 24 + 2 * BitVec.ofNat 64 q.2, leBytes 2 (elem 16 lanes.v[2] q.1).toNat)
    let b := (memoryHead (.qbind 2 7) 0 0 .none).modCore 0 fun c => { c with vq := c.vq.map fun e => { e with bind := some pipe } }
    let q := (memoryHead (.qflush 1) 0 0 .none).modCore 0 fun c => { c with q := c.q.set 1 (some pipe) }
    every [leads (.vectorArbiterCycle 0 0) z fun u => (u.core 0).vq == [] && u.mem == z.mem && (List.range 128).all fun i =>
        elem 16 (u.core 0).v[3] i == if lanes.active 1 i then
          (if m.testBit i then BitVec.ofNat 16 (0x1111 * (below i + 1)) else 0) else elem 16 lanes.v[3] i,
      leads (.vectorArbiterCycle 0 0) (w e) fun u => (u.core 0).vq == [{ e with capacity := some 40 }] && u.mem == (w e).mem,
      storesElements (.vectorArbiterCycle 0 0) (w f) ws 1 fun _ => false,
      leads (.vectorArbiterCycle 0 0) b fun u => (u.core 0).q == (b.core 0).q.set 2 (some pipe) && (u.core 0).vq == [] && u.mem == b.mem,
      leads (.vectorArbiterCycle 0 0) q fun u => (u.core 0).q == Vector.replicate 8 none && (u.core 0).vq == [] && u.mem == q.mem]
      = true := by decide +kernel

/-- A store to another package waits while a queued instruction may still change its mask or its indexes (05_tasks.md
R143, R144). -/
theorem test_store_waits_for_mask :
    let t := (loader.setG 7 0x50000).setG 8 2
    let s := shop t
    let behind := fun (i : Instr) => s.modCore 0 fun c => { c with vq := [queued i] }
    let k := behind (.knot 1 2)
    let v := behind (.viota 4 0 .w16)
    let waits := fun (i : Instr) (s : State) => after i s == some (s.stall t .none)
    every [waits (.vst 1 7 0 1 .w16) k, waits (.vsts 1 7 8 1 .w16) k, waits (.vscat 1 7 4 0 .w16) v, waits (.vscat 1 7 2 1 .w16) k,
      pushes (.vst 1 7 0 2 .w16) k k t .fb 0x50000 2 0 0, pushes (.vst 1 7 0 1 .w16) v v t .fb 0x50000 2 0 0,
      pushes (.vsts 1 7 8 0 .w16) k k t .fb 0x50000 2 0 0] = true := by decide +kernel

/-- `array` for an `MMA` of two steps on BF16: row 2 of A is 1.0, 3.0; column 63 of B is -2.0, 2.0; row 2 of the tile has 1.0
in column 0 and a signalling NaN in column 3. -/
def products (w y : Word) (prog : List (BitVec 32)) : State :=
  ((array (.mma 1 7 8 9) w 0xFFFFFFFFFFFC00C0 y 64).pokeNat (scratchKey 0 0x140) 8 0x4040_3F80).modCore 0 fun c =>
    { c with mctx := { (c.mctx.setTile 1 { rows := [(2, 0x7F800001#2048 <<< 96 ||| 0x3F800000)], cv := true }) with
      prog := prog, latch := { data := leBytes 256 (0xC000 * 2 ^ 1008 + 0x4000 * 2 ^ 2032) } } }

/-- An array grant in MAC mode: one exact sum of the products and the element, rounded once (08_matrix.md R225;
02_numbers.md R56, R57). -/
theorem test_mac_grant :
    let s := products 0 2 []
    every [validContext 0, !(ctxRec 0), s.matrixEligible 0, leads (.matrixGrant 0 0) s fun u =>
      let t := (u.core 0).mctx.tile 1
      (u.core 0).mq == [] && !t.cv && (u.task? 1).map (·.fsr) == some 0x10 &&
        [63, 0, 3].map (lane 32 (t.row 2)) == [0x40800000, 0x3F800000, 0x7FC00000]] = true := by decide +kernel

/-- An array grant in recurrence mode: s = s - b for a step (08_matrix.md R226, R227). -/
theorem test_recurrence_grant :
    let sub := BitVec.ofNat 32 (2 ^ 13 + 0 * 2 ^ 7 + 2 * 2 ^ 4)
    let s := products 0x10000 1 [sub]
    every [validContext 0x10000, ctxRec 0x10000, validOp sub, s.matrixEligible 0, leads (.matrixGrant 0 0) s fun u =>
      let t := (u.core 0).mctx.tile 1
      (u.core 0).mq == [] && !t.cv && [63, 0].map (lane 32 (t.row 2)) == [0x40000000, 0x3F800000]] = true := by decide +kernel

/-- What `MCHK` leaves: its status in `g9`, and an element of its tile. -/
def checks (grant : Instr) (raise fix : Bool) (w tau : Word) (x : Tile) (st : Nat) (el : Nat) : Bool :=
  leads grant ((array (.mchk 1 7 9 raise fix) w tau 0 0).modCore 0 fun c => { c with mctx := c.mctx.setTile 1 x }) fun u =>
    (u.core 0).mq == [] && (u.task? 1).map (·.g) == some (loader.setG 9 (BitVec.ofNat 64 st)).g &&
      lane 32 (((u.core 0).mctx.tile 1).row 2) 3 == el

/-- `MCHK` on an integer tile without checksums, within the tolerance, and corrected (08_matrix.md R229). -/
theorem test_integer_check :
    let x : Tile := { rows := [(2, 5#2048 <<< 96)], cr := 4#2048 <<< 64, cc := 4#2048 <<< 96, cv := true }
    let off := 2 ^ 62 + 2 ^ 51 + 2 ^ 44 + 3 * 2 ^ 38 + 2 * 2 ^ 32 + 1
    let g := Instr.matrixGrant 0 0
    every [checks g true true 0x144 0 { x with cv := false } 0 5, checks g true true 0x144 1 x (2 ^ 63) 5,
      checks g true true 0x144 0 x (2 ^ 63 + 2 ^ 61 + off) 4] = true := by decide +kernel

/-- `MCHK` on a floating tile, corrected (08_matrix.md R229). -/
theorem test_float_check :
    let x : Tile := { rows := [(2, 0x40A00000#2048 <<< 96)], cr := 0x40800000#2048 <<< 64, cc := 0x40800000#2048 <<< 96, cv := true }
    checks (.matrixGrant 0 0) true true 0 0 x (2 ^ 63 + 2 ^ 62 + 2 ^ 61 + 2 ^ 51 + 2 ^ 44 + 3 * 2 ^ 38 + 2 * 2 ^ 32 + 0x3F800000)
      0x40800000 = true := by decide +kernel

/-- `MPROG`, `MST` and `MLDC` at the port (08_matrix.md R223, R224, R226). -/
theorem test_matrix_memory :
    let p : Word := 0xFFFFFFFFFFFC2000
    let key := scratchKey 0 0x2000
    let good := (array (.mprog 7) 0 p 0 0).pokeNat key 16 ((2 * 2 ^ 13 + 3 * 2 ^ 10 + 2 ^ 7 + 2 * 2 ^ 4) + 0x2030 * 2 ^ 16 + 2 * 2 ^ 64)
    let bad := (array (.mprog 7) 0 p 0 0).pokeNat key 16 (1 + 2 ^ 64)
    let st := array (.mst 1 7 8) 0x144 p 0 0
    let e := (st.core 0).mq
    let sent := st.modCore 0 fun c => { c with mq := e.map fun x => { x with stored := true, flags := 4 } }
    let waiting := { sent with requests := [⟨sent.who loader, 0, 0x40100, .store [1], .mx, none, 1, [], 0⟩] }
    every [leads (.matrixMemoryPort 0) good fun u => (u.core 0).mq == [] && u.mem == good.mem &&
        (u.core 0).mctx == { (good.core 0).mctx with prog := [0x4CA0, 0x2030] },
      leads (.matrixMemoryPort 0) bad fun u => (u.core 0).mq == [] && u.tasks == [] && (u.core 0).mctx.prog == [],
      (st.core 0).mctx.tile 1 != {}, storeBytes 0x144 == 4, storeElement 0x144 0x12345678 == some (0x12345678, 0),
      waiting.opPending 1, after (.matrixMemoryPort 0) waiting == some waiting, sent.opPending 1 == false,
      leads (.matrixMemoryPort 0) sent fun u => (u.core 0).mq == [] && u.mem == sent.mem &&
        u.task? 1 == some { loader with fsr := loader.fsr ||| 4 }] = true := by decide +kernel

/-- Placement: an empty ring is realigned, a SKIP record fills the end of the ring, and a message that no ring of this size
can hold leaves an OVR record (07_scratchpad.md R207); `RECV` passes SKIP and returns OVR (R209). -/
theorem test_mailbox_wraps :
    let t := ((loader.setG 7 0xFFFFFFFFFFFC1000).setG 9 8).setG 10 0xFFFFFFFFFFFC2000
    let key := scratchKey 0 0x1000
    let box := fun (tail head n : Nat) => let s := postbox t tail head
      s.modCore 0 fun c => { c with sends := [{ who := s.who t, ring := key, payload := List.replicate n 0xAB, order := 1 }] }
    let places := fun (tail head n off size move hd : Nat) (flags : Nat) => leads (.mailboxPlacement 0 0) (box tail head n) fun u =>
      (u.core 0).sends == [] && u.word (key + 64 + off) 8 == n + size * 2 ^ 16 + flags * 2 ^ 33 && u.word key 4 == move &&
        u.word (key + 4) 4 == hd && (u.byte (key + 72 + off) == if flags = 2 then 0 else 0xAB)
    let skip := ((box 48 16 8).pokeNat (key + 64 + 16) 8 (16 * 2 ^ 16 + 2 ^ 33)).pokeNat (key + 64 + 32) 8 (300 + 8 * 2 ^ 16 + 2 ^ 34)
    every [places 40 40 8 0 16 272 256 0, places 512 512 8 0 16 528 512 0, places 0xFFFFFFF8 0xFFFFFFF8 8 0 16 16 0 0,
      places 248 100 8 0 16 (248 + 8 + 16) 100 0, places 10 10 300 0 8 264 256 2,
      leads (.mailboxPlacement 0 0) (box 240 100 24) fun u => u.word (key + 64 + 240) 8 == 16 * 2 ^ 16 + 2 ^ 33 &&
        u.word (key + 64) 8 == 24 + 32 * 2 ^ 16 && u.word key 4 == 288,
      leads (.recv 9 7 10) skip fun u => u.task? 1 == some (t.setG 9 (300 + 2 ^ 16 + 2 ^ 17)).past && u.word (key + 4) 4 == 40 &&
        u.bytes (scratchKey 0 0x2000) 8 == skip.bytes (scratchKey 0 0x2000) 8] = true := by decide +kernel

/-- `MMA` in recurrence mode is checked against the microprogram that is, or may come to be, in force; a tolerance of -0 is
not below zero (08_matrix.md R225, R229). -/
theorem test_matrix_recurrence_push :
    let t := (((loader.setG 7 0xFFFFFFFFFFFC0040).setG 8 1).setG 11 64).setG 10 0x80000000
    let s := fun (p : List (BitVec 32)) (q : List MEntry) => (shop t).modCore 0 fun c =>
      { c with mctx := { c.mctx with word := 0x10000, prog := p }, mq := q }
    let q : MEntry := { serial := 9, instr := .mprog 7, uid := 1, part := 0, owner := ⟨0, 0, 0⟩ }
    let i : Instr := .mma 1 7 8 11
    every [ctxRec (((s [] []).core 0).pushedWord 0), traps i (s [] []) t 1,
      pushesMatrix i (s [0x4CA0] []) t 0xFFFFFFFFFFFC0040 1 64 false, pushesMatrix i (s [] [q]) t 0xFFFFFFFFFFFC0040 1 64 false,
      pushesMatrix (.mchk 1 10 9 true true) (s [] []) t 0x80000000 0 0 true,
      traps (.mchk 1 11 9 true true) ((s [] []).putTask (t.setG 11 0x80000001)) (t.setG 11 0x80000001) 1] = true := by decide +kernel

/-- Power on and the boot chunks of a pair (16_system.md R427 to R429). -/
theorem test_boot :
    let s : State := { alone worker with svc := { powered := false, stage := .off, packageId := 3, session := true } }
    let blob : List Byte := leBytes 8 (0x54524F42 + 1 * 2 ^ 32 + 2 * 2 ^ 48)
    let b : State := { State.reset with svc := { stage := .booting, bankA := [blob], pairs := [(2, { term := 4, loadTerm := 3 })] } }
    every [leads .powerOn s fun u => u.mem == [] && u.tasks == [] && u.launches == [] && u.cores == [] && u.svc.packageId == 3 &&
        u.svc.powered && u.svc.leader == some 15 && u.svc.term == 1 && !u.svc.session,
      after .powerOn State.reset == some State.reset, !(s.bankBoots s.svc.bankA),
      b.imageOf 2 == some blob, blobChunks blob == 2, (b.pair 2).stopped == false, after (.bootChunk 2 3 0 []) b == some b,
      after (.bootChunk 2 2 0 []) b == some b, (b.pair 2).loadTerm ≤ 4, (b.pair 2).term ≤ 4, b.svc.stage == .booting,
      after (.bootChunk 2 7 1 [1]) { b with svc := { b.svc with stage := .run } } == some { b with svc := { b.svc with stage := .run } }]
      = true := by decide +kernel

/-- Conversions element by element (06_vector.md R174, R175; 02_numbers.md R50 to R55). -/
theorem test_conversions :
    let ts : List CvtType := [.f32, .bf16, .f16, .e4m3, .e5m2, .i32, .i16, .i8]
    let xs : List Nat := [0, 1, 0x80, 0xFF, 0x7F, 0x3C00, 0x7C00, 0x7C01, 0xFFFF, 0x4B00, 0x80000000, 0x7F800000, 0x7F800001, 0x43000000, 0xC3008000, 0x4F000000, 0x3FC00000]
    every [[Ovp.sat, .inf, .nan].all fun o => ts.all fun d => ts.all fun a => [true, false].all fun r => [true, false].all fun n => xs.all fun z =>
      let x := BitVec.ofNat a.bits z
      let i : Int := if n then x.toNat else x.toInt
      let lo : Int := if n then 0 else -(2 ^ (d.bits - 1))
      let hi : Int := if n then 2 ^ d.bits - 1 else 2 ^ (d.bits - 1) - 1
      let y := convertElement o r n d a x.toNat
      y.isSome && match a.format, d.format with
      | some g, some h => y == h.convert o (g.value x.toNat)
      | none, some h => y == h.convert o (.fin (i < 0) i.natAbs 0)
      | some g, none => y == convertToInt o r n d.bits (g.value x.toNat)
      | none, none => if lo ≤ i ∧ i ≤ hi then y == some ((BitVec.ofInt d.bits i).toNat, 0)
        else y == some ((BitVec.ofInt d.bits (if i < lo then lo else hi)).toNat, 0x30)] = true := by decide +kernel

/-- Float reductions follow the fixed tree, and float scans go on in order (06_vector.md R178, R179; 02_numbers.md R61). -/
theorem test_float_reductions :
    let go := fun (i : Instr) (t : RType) (f : Format) (op : Nat → Nat → Rounded) (identity : Nat) (k : Reg3) =>
      match lanes.compute (queued i) with
      | some (c', g, none) =>
        let n := t.width
        let leaf := fun i => asSingle f (elem n lanes.v[1] i).toNat
        let level := fun (l : List (Nat × Flags)) => (List.range (l.length / 2)).map fun i =>
          let p := l.getD (2 * i) (0, 0)
          let q := l.getD (2 * i + 1) (0, 0)
          ((op p.1 q.1).bits, p.2 ||| q.2 ||| (op p.1 q.1).flags)
        let top := ((List.range (Nat.log2 (2048 / n))).foldl (fun l _ => level l) ((List.range (2048 / n)).map fun i =>
          if lanes.active k i then leaf i else (identity, 0))).headD (0, 0)
        c' == { lanes with v := lanes.v.set 3 (BitVec.ofNat 2048 (top.1 % 2 ^ 32)) } && g == top.2
      | _ => false
    let scan := fun (i : Instr) (t : RType) (f : Format) (op : Nat → Nat → Rounded) (identity : Nat) (k : Reg3) =>
      match lanes.compute (queued i) with
      | some (c', g, none) =>
        let n := t.width
        let leaf := fun i => asSingle f (elem n lanes.v[1] i).toNat
        let r := (List.range (2048 / n)).foldl (fun (z : Nat × Flags × Bool) i => if lanes.active k i then
            let o := op z.1 (leaf i).1
            let p := fromSingle f o.bits
            (o.bits, z.2.1 ||| (leaf i).2 ||| o.flags ||| p.2, z.2.2 && elem n c'.v[3] i == BitVec.ofNat n p.1)
          else (z.1, z.2.1, z.2.2 && elem n c'.v[3] i == elem n lanes.v[3] i)) (identity, 0, true)
        r.2.2 && r.2.1 == g
      | _ => false
    let add := fun p q => Format.sum .f32 [Format.value .f32 p, Format.value .f32 q] false
    every [go (.vrsum 3 (.reg 1) 1 .bf16) .bf16 .bf16 add 0x80000000 1, go (.vrmin 3 (.reg 1) 1 .f16) .f16 .f16 (Format.minmax .f32 false) 0x7F800000 1,
      go (.vrmax 3 (.reg 1) 1 .f32) .f32 .f32 (Format.minmax .f32 true) 0xFF800000 1, go (.vrsum 3 (.reg 1) 0 .f32) .f32 .f32 add 0x80000000 0,
      scan (.vscan 3 (.reg 1) 1 .f16) .f16 .f16 add 0x80000000 1, scan (.vscanmin 3 (.reg 1) 1 .bf16) .bf16 .bf16 (Format.minmax .f32 false) 0x7F800000 1,
      scan (.vscanmax 3 (.reg 1) 1 .f32) .f32 .f32 (Format.minmax .f32 true) 0xFF800000 1] = true := by decide +kernel

/-- Lane operations between a stream and a stream, and from a stream into a mask (06_vector.md R165; 07_scratchpad.md
R193). -/
theorem test_stream_lanes :
    let c : Core := { lanes with q := ((Vector.replicate 8 none).set 1 (some pipe)).set 2 (some drain) }
    let e := queued (.vaddInt (.stream 2) (.stream 1) 2 1 .w16)
    let y : Core := { c with q := c.q.set 1 (some { pipe with pos := 1, buffer := [9] }) }
    let sum := fun i => if lanes.active 1 i then elem 16 (7 : VWord) i + elem 16 lanes.v[2] i else 0
    let dry : Core := { c with q := c.q.set 1 (some { pipe with buffer := [] }) }
    let full : Core := { c with q := c.q.set 2 (some { drain with buffer := [1, 2, 3, 4] }) }
    every [match c.compute e with
        | some (z, g, none) => g == 0 && match z.q[2] with
          | some x => z == { y with q := y.q.set 2 (some { drain with pos := 1, buffer := [7, 9, x.buffer.getD 2 0] }) } &&
              (List.range 128).all fun i => elem 16 (x.buffer.getD 2 0) i == sum i
          | none => false
        | _ => false,
      dry.compute e == none, full.compute e == none,
      match c.compute (queued (.vcmplt 3 (.stream 1) 2 1 .i16)) with
        | some (z, g, none) => g == 0 && z == { y with k := y.k.set 3 z.k[3] } && (List.range 256).all fun i =>
            z.k[3].getLsbD i == (decide (i < 128) && lanes.active 1 i && decide ((elem 16 (7 : VWord) i).toInt < (elem 16 lanes.v[2] i).toInt))
        | _ => false] = true := by decide +kernel

/-- A shadow passes an explicit barrier and an event line behind its primary, and signals nothing (14_containment.md
R370). -/
theorem test_shadow_order :
    let t := { worker.setG 4 (2 * 2 ^ 24 + 3) with dual := .shadow 2 }
    let s := fun (n : Nat) => { alone t with tasks := [t, { second with dual := .primary 1, events := n }] }
    every [leads (.bar 4 .quad) (s 1) fun u => (u.task? 1).any (fun w => alike w { t.past with events := 1 }) && u.quads == (s 1).quads,
      after (.bar 4 .quad) (s 0) == some ((s 0).stall t .none),
      leads (.evwait 5) (s 1) fun u => (u.task? 1).any (fun w => alike w { t.past with events := 1 }) && u.quads == (s 1).quads,
      after (.evwait 5) (s 0) == some ((s 0).stall t .none), completes (.evsig 5) (s 0) t] = true := by decide +kernel

/-- A repeated STALL starts no second replay of a domain that is being undone, even one with no replay left (13_fabric.md
R335, R347). -/
theorem test_repeated_stall :
    let d : Dom :=
      { id := 7, ctxid := 0, launch := 3, record := 0x40800, parent := 0, depth := 1, esc := 7, replays := 0, ranges := [],
        save := 0, snapshot := true, root := 0x40400, rootDie := 0, rootPrio := 0, rootSeq := 0, rootPhase := 0, rootBar := 0,
        rootAg := 0, undoing := true }
    let p : SendPair := { sent := 4, flags := 2, log := [⟨1, 0, 7, 3⟩], bases := [⟨0, 7, 3, 0, true⟩] }
    let s := State.setSender { pier { loader with domain := 7 } with doms := [d] } 5 1 p
    every [s.replaying 0 7, after (.stall ⟨1, 0⟩ ⟨⟨5, 0, 1⟩, 3, 2⟩) s == some s] = true := by decide +kernel

end Sys2Proof.Tests
end

/-! Obligation O47: a launch from its queue to its completion record (01_machine.md R24 to R28; 16_system.md R418, R420).
The rules of the operations it goes through come first: interrupt vectors, little-endian bytes in memory, the host's
registers of a context, the taking of a record, the commit of a launch and the posting of a completion record. -/

namespace Sys2Proof.Machine

/-! ### Contexts and partitions -/

@[simp] theorem State.ctx_setPart (s : State) (p c : Nat) (x : Part) : (s.setPart p x).ctx c = s.ctx c := rfl
@[simp] theorem State.part_setCtx (s : State) (c p : Nat) (x : Ctx) : (s.setCtx c x).part p = s.part p := rfl

/-! These are stated for any change `f` of a context: with a change that computes a pointer modulo 2^32 written out, the
kernel would evaluate it while it compares two states. -/

theorem State.modCtx_posts (s : State) (c : Nat) (f : Ctx → Ctx) : (s.modCtx c f).posts = s.posts := rfl
theorem State.modCtx_tasks (s : State) (c : Nat) (f : Ctx → Ctx) : (s.modCtx c f).tasks = s.tasks := rfl
theorem State.modCtx_mem (s : State) (c : Nat) (f : Ctx → Ctx) : (s.modCtx c f).mem = s.mem := rfl
theorem State.modCtx_parts (s : State) (c : Nat) (f : Ctx → Ctx) : (s.modCtx c f).parts = s.parts := rfl
theorem State.modCtx_svc (s : State) (c : Nat) (f : Ctx → Ctx) : (s.modCtx c f).svc = s.svc := rfl
theorem State.ctx_modCtx (s : State) (c : Nat) (f : Ctx → Ctx) : (s.modCtx c f).ctx c = f (s.ctx c) :=
  s.ctx_setCtx_same c _

theorem State.ctx_withPosts (s : State) (ps : List Post) (c : Nat) : State.ctx { s with posts := ps } c = s.ctx c := rfl
theorem State.ctx_poke (s : State) (a c : Nat) (bs : List Byte) : (s.poke a bs).ctx c = s.ctx c := rfl
theorem State.part_of_parts {s u : State} (h : u.parts = s.parts) (p : Nat) : u.part p = s.part p :=
  congrArg (Sparse.read Part.idle · p) h

/-! ### Interrupt vectors (16_system.md R417) -/

/-- A raised vector changes nothing but partitions and the service state. -/
theorem State.raiseVector_eq_with (s : State) (p v : Nat) :
    ∃ ps sv, s.raiseVector p v = { s with parts := ps, svc := sv } := by
  unfold State.raiseVector State.sendVector
  split
  · exact ⟨_, s.svc, rfl⟩
  · split
    · exact ⟨s.parts, _, rfl⟩
    · exact ⟨_, s.svc, rfl⟩

@[simp] theorem State.raiseVector_mem (s : State) (p v : Nat) : (s.raiseVector p v).mem = s.mem := by
  obtain ⟨_, _, h⟩ := s.raiseVector_eq_with p v
  rw [h]

@[simp] theorem State.raiseVector_tasks (s : State) (p v : Nat) : (s.raiseVector p v).tasks = s.tasks := by
  obtain ⟨_, _, h⟩ := s.raiseVector_eq_with p v
  rw [h]

@[simp] theorem State.raiseVector_ctxs (s : State) (p v : Nat) : (s.raiseVector p v).ctxs = s.ctxs := by
  obtain ⟨_, _, h⟩ := s.raiseVector_eq_with p v
  rw [h]

@[simp] theorem State.raiseVector_launches (s : State) (p v : Nat) : (s.raiseVector p v).launches = s.launches := by
  obtain ⟨_, _, h⟩ := s.raiseVector_eq_with p v
  rw [h]

@[simp] theorem State.raiseVector_posts (s : State) (p v : Nat) : (s.raiseVector p v).posts = s.posts := by
  obtain ⟨_, _, h⟩ := s.raiseVector_eq_with p v
  rw [h]

@[simp] theorem State.ctx_raiseVector (s : State) (p v c : Nat) : (s.raiseVector p v).ctx c = s.ctx c :=
  congrArg (Sparse.read Ctx.idle · c) (s.raiseVector_ctxs p v)

theorem State.byte_of_mem {s u : State} (h : u.mem = s.mem) (a : Nat) : u.byte a = s.byte a :=
  congrArg (Memory.byte · a) h

theorem State.word_of_mem {s u : State} (h : u.mem = s.mem) (a n : Nat) : u.word a n = s.word a n :=
  congrArg (fun m => leNat (Memory.bytes m a n)) h

/-- Of its partition a raised vector changes PENDING and what was sent alone. -/
theorem State.part_raiseVector (s : State) (p v : Nat) :
    ∃ pend sent, (s.raiseVector p v).part p = { s.part p with pending := pend, sent := sent } := by
  unfold State.raiseVector State.sendVector
  split
  · exact ⟨_, (s.part p).sent, s.part_setPart_same p _⟩
  · split
    · exact ⟨(s.part p).pending, (s.part p).sent, rfl⟩
    · exact ⟨(s.part p).pending, _, s.part_setPart_same p _⟩

@[simp] theorem State.raiseVector_rotation (s : State) (p v : Nat) :
    ((s.raiseVector p v).part p).rotation = (s.part p).rotation := by
  obtain ⟨_, _, h⟩ := s.part_raiseVector p v
  rw [h]

@[simp] theorem State.raiseVector_launchNext (s : State) (p v : Nat) :
    ((s.raiseVector p v).part p).launchNext = (s.part p).launchNext := by
  obtain ⟨_, _, h⟩ := s.part_raiseVector p v
  rw [h]

/-- A masked vector is held pending. -/
theorem State.raiseVector_pending (s : State) (p v : Nat) (hv : v < 5) (h : (s.part p).masked.getLsbD v = true) :
    ((s.raiseVector p v).part p).pending.getLsbD v = true := by
  simp [State.raiseVector, h, State.modPart, hv]

/-- A vector that is not masked is sent once, unless its host is lost. -/
theorem State.raiseVector_sent (s : State) (p v : Nat) (h : (s.part p).masked.getLsbD v = false)
    (hh : s.svc.hostLost = false ∨ s.svc.self = true) :
    Sparse.read 0 ((s.raiseVector p v).part p).sent v = Sparse.read 0 (s.part p).sent v + 1 := by
  have hl : (s.svc.hostLost && !s.svc.self) = false := by
    rcases hh with hh | hh <;> simp [hh]
  simp [State.raiseVector, State.sendVector, h, hl, State.modPart]

/-! ### Little-endian numbers in memory (01_machine.md R6) -/

theorem leBytes_getElem (n v i : Nat) (h : i < (leBytes n v).length) :
    (leBytes n v)[i] = BitVec.ofNat 8 (v / 256 ^ i) := by
  induction n generalizing v i with
  | zero => simp [leBytes] at h
  | succ n ih =>
    cases i with
    | zero => exact BitVec.eq_of_toNat_eq (by simp [leBytes])
    | succ i =>
      simp only [leBytes, List.getElem_cons_succ, ih]
      rw [Nat.div_div_eq_div_mul, Nat.pow_succ, Nat.mul_comm]

/-- Memory that holds the bytes of a number one by one holds them together. -/
theorem Memory.bytes_eq_leBytes (m : List Host.Cell) (a n v : Nat)
    (h : ∀ i < n, Memory.byte m (a + i) = BitVec.ofNat 8 (v / 256 ^ i)) : Memory.bytes m a n = leBytes n v := by
  induction n generalizing a v with
  | zero => rfl
  | succ n ih =>
    have head : Memory.byte m a = BitVec.ofNat 8 (v % 256) := by
      rw [show a = a + 0 from rfl, h 0 (by omega)]
      exact BitVec.eq_of_toNat_eq (by simp)
    have tail : Memory.bytes m (a + 1) n = leBytes n (v / 256) := by
      refine ih _ _ fun i hi => ?_
      rw [Nat.add_assoc, Nat.add_comm 1, h (i + 1) (by omega), Nat.div_div_eq_div_mul, Nat.pow_succ, Nat.mul_comm]
    rw [Memory.bytes, leBytes, head, tail]

/-- Byte `i` of a number that was poked. -/
theorem State.byte_poke_leBytes (s : State) (a n v i : Nat) (h : i < n) :
    (s.poke a (leBytes n v)).byte (a + i) = BitVec.ofNat 8 (v / 256 ^ i) := by
  have hi : i < (leBytes n v).length := by rwa [leBytes_length]
  exact (Memory.byte_setBytes_inside s.mem a _ i hi).trans (leBytes_getElem n v i hi)

/-- Bytes `i` to `i + k - 1` of a number that was poked. -/
theorem State.word_poke_leBytes (s : State) (a n v i k : Nat) (h : i + k ≤ n) :
    (s.poke a (leBytes n v)).word (a + i) k = v / 256 ^ i % 256 ^ k := by
  rw [State.word, State.bytes, Memory.bytes_eq_leBytes _ (a + i) k (v / 256 ^ i), leNat_leBytes]
  intro j hj
  rw [Nat.div_div_eq_div_mul, ← Nat.pow_add, Nat.add_assoc]
  exact s.byte_poke_leBytes a n v (i + j) (by omega)

/-! ### The host's registers of a context (16_system.md R418, R420) -/

theorem exec_lqtailWrite (s : State) (p n : Nat) (v : Word) :
    exec (.lqtailWrite p n v) s = .next (s.writeContext p n 0x10 v) := rfl

theorem exec_cqheadWrite (s : State) (p n : Nat) (v : Word) :
    exec (.cqheadWrite p n v) s = .next (s.writeContext p n 0x30 v) := rfl

theorem Ctx.overrun_iff (c : Ctx) : c.overrun = true ↔ c.lqsize ≠ 0 ∧ 2 ^ c.lqsize.toNat < c.waiting := by
  simp [Ctx.overrun]

/-- A queue pointer of more than 32 bits is refused and counted (16_system.md R419). -/
theorem State.writeContext_wide (s : State) (p n o : Nat) (v : Word) (ho : o = 0x10 ∨ o = 0x30) (hv : 2 ^ 32 ≤ v.toNat) :
    s.writeContext p n o v = s.countMisuse := by
  have : ¬ v.toNat < 4294967296 := by omega
  rcases ho with rfl | rfl <;> simp [State.writeContext, contextValid, this]

/-- LQTAIL takes a pointer of 32 bits; one past the records that the queue holds is counted. -/
theorem State.writeContext_lqtail (s : State) (p n : Nat) (v : Word) (hv : v.toNat < 2 ^ 32) :
    s.writeContext p n 0x10 v =
      let y := { s.ctx (4 * p + n) with lqtail := v }
      if y.overrun then (s.setCtx (4 * p + n) y).countMisuse else s.setCtx (4 * p + n) y := by
  have : v.toNat < 4294967296 := hv
  simp [State.writeContext, contextValid, this, Ctx.setReg, State.modCtx]

/-- CQHEAD takes a pointer of 32 bits, and leaves the launch queue as full as it was. -/
theorem State.writeContext_cqhead (s : State) (p n : Nat) (v : Word) (hv : v.toNat < 2 ^ 32) :
    s.writeContext p n 0x30 v = s.setCtx (4 * p + n) { s.ctx (4 * p + n) with cqhead := v } := by
  have hvalid : v.toNat < 4294967296 := hv
  have hkept : ({ s.ctx (4 * p + n) with cqhead := v } : Ctx).overrun = (s.ctx (4 * p + n)).overrun := rfl
  cases ho : (s.ctx (4 * p + n)).overrun <;>
    simp [State.writeContext, contextValid, hvalid, Ctx.setReg, State.modCtx, hkept, ho]

/-- The host's writes of LQTAIL and CQHEAD. -/
theorem exec_queuePointerWrites (s : State) (p n : Nat) (v : Word) :
    let k := 4 * p + n
    let x := s.ctx k
    let put := fun y : Ctx => s.setCtx k y
    (v.toNat < 2 ^ 32 → exec (.cqheadWrite p n v) s = .next (put { x with cqhead := v })) ∧
    (v.toNat < 2 ^ 32 → (x.lqsize = 0 ∨ (v.toNat + 2 ^ 32 - x.lqhead.toNat) % 2 ^ 32 ≤ 2 ^ x.lqsize.toNat) →
      exec (.lqtailWrite p n v) s = .next (put { x with lqtail := v })) ∧
    (v.toNat < 2 ^ 32 → x.lqsize ≠ 0 → 2 ^ x.lqsize.toNat < (v.toNat + 2 ^ 32 - x.lqhead.toNat) % 2 ^ 32 →
      exec (.lqtailWrite p n v) s = .next (put { x with lqtail := v }).countMisuse) ∧
    (2 ^ 32 ≤ v.toNat → exec (.lqtailWrite p n v) s = .next s.countMisuse ∧
      exec (.cqheadWrite p n v) s = .next s.countMisuse) := by
  simp only [exec_lqtailWrite, exec_cqheadWrite]
  refine ⟨fun hv => ?_, fun hv hfit => ?_, fun hv hs hover => ?_, fun hv => ⟨?_, ?_⟩⟩
  · rw [s.writeContext_cqhead p n v hv]
  · rw [s.writeContext_lqtail p n v hv]
    refine congrArg Host.Outcome.next (if_neg fun h => ?_)
    obtain ⟨hs, hover⟩ := (Ctx.overrun_iff _).1 h
    rcases hfit with hz | hfit
    · exact hs hz
    · exact absurd hover (Nat.not_lt.2 hfit)
  · rw [s.writeContext_lqtail p n v hv]
    exact congrArg Host.Outcome.next (if_pos ((Ctx.overrun_iff { s.ctx (4 * p + n) with lqtail := v }).2 ⟨hs, hover⟩))
  · rw [s.writeContext_wide p n 0x10 v (.inl rfl) hv]
  · rw [s.writeContext_wide p n 0x30 v (.inr rfl) hv]

/-! ### Admission (01_machine.md R24, R25) -/

theorem exec_launchAdmission_of_some (s : State) (p n : Nat) (h : s.admission? p = some n) :
    exec (.launchAdmission p) s = .next (s.admitLaunch p n) := by
  change execLaunchAdmission p s = _
  simp only [execLaunchAdmission, h]

theorem exec_launchAdmission_of_none (s : State) (p : Nat) (h : s.admission? p = none) :
    exec (.launchAdmission p) s = .next s := by
  change execLaunchAdmission p s = _
  simp only [execLaunchAdmission, h]

/-- The record that a context's LQHEAD points at, and whether it passes the checks of admission. -/
def State.oldestRecord (s : State) (p n : Nat) : LaunchRecord × Bool :=
  let c := s.ctx (4 * p + n)
  parseLaunch (s.queueBytes c.lqbase (64 * (c.lqhead.toNat % 2 ^ c.lqsize.toNat)) 64)

/-- LQHEAD and the rotation of a partition move on past a record. -/
def State.passRecord (s : State) (p n : Nat) : State :=
  (s.modCtx (4 * p + n) fun c => { c with lqhead := BitVec.ofNat 64 ((c.lqhead.toNat + 1) % 2 ^ 32) }).modPart p
    ({ · with rotation := (n + 1) % 4 })

/-- What taking a record does before the record is judged: a queue that was full raises vector 2. -/
def State.takeRecord (s : State) (p n : Nat) : State :=
  if (s.ctx (4 * p + n)).waiting == 2 ^ (s.ctx (4 * p + n)).lqsize.toNat then (s.passRecord p n).raiseVector p 2
  else s.passRecord p n

/-- A partition's next launch id is drawn; 0 is no id. -/
def State.drawLaunchId (s : State) (p : Nat) : State :=
  let id := (s.part p).launchNext
  s.modPart p ({ · with launchNext := if id + 1 = 0 then 1 else id + 1 })

/-- The launch of an admitted record, under the partition's next launch id. -/
def State.newLaunch (s : State) (p n : Nat) (r : LaunchRecord) : Launch :=
  { part := p, ctx := n, id := (s.part p).launchNext, tag := r.tag, key := r.key, det := r.det, nomix := r.nomix,
    root := r.root, domrec := r.domrec, rootDie := if r.rootDie = 15 then (s.drawLaunchId p).freestDie else r.rootDie,
    anyDie := r.rootDie == 15, prio := r.prio }

/-- A record that fails the checks, or of a context without page table, gives a FAILED record. -/
theorem State.admitLaunch_rejected (s : State) (p n : Nat)
    (h : (s.oldestRecord p n).2 = false ∨ (s.ctx (4 * p + n)).ptroot = 0) :
    s.admitLaunch p n =
      { s.takeRecord p n with
        posts := (s.takeRecord p n).posts ++ [⟨p, n, 0, 0, 1, 4, (s.oldestRecord p n).1.tag, 0⟩] } := by
  have hc : (!(s.oldestRecord p n).2 || (s.ctx (4 * p + n)).ptroot == 0) = true := by
    rcases h with h | h <;> simp [h]
  simp only [State.oldestRecord] at hc ⊢
  simp only [State.admitLaunch, hc, if_true]
  rw [← State.passRecord, ← State.takeRecord]

/-- Any other record is admitted. -/
theorem State.admitLaunch_admitted (s : State) (p n : Nat) (hr : (s.oldestRecord p n).2 = true)
    (hp : (s.ctx (4 * p + n)).ptroot ≠ 0) :
    s.admitLaunch p n =
      { (s.takeRecord p n).drawLaunchId p with
        launches := ((s.takeRecord p n).drawLaunchId p).launches ++
          [(s.takeRecord p n).newLaunch p n (s.oldestRecord p n).1] } := by
  have hc : (!(s.oldestRecord p n).2 || (s.ctx (4 * p + n)).ptroot == 0) = false := by simpa [hr] using hp
  simp only [State.oldestRecord] at hc ⊢
  simp only [State.admitLaunch, hc, Bool.false_eq_true, if_false]
  rw [← State.passRecord, ← State.takeRecord]
  generalize s.takeRecord p n = v
  rfl

/-- What holds of a state in which the oldest record of a context has been taken, before it is judged. -/
structure State.Taken (s : State) (p n : Nat) (u : State) : Prop where
  mem : u.mem = s.mem
  tasks : u.tasks = s.tasks
  posts : u.posts = s.posts
  launches : u.launches = s.launches
  lqhead : (u.ctx (4 * p + n)).lqhead = BitVec.ofNat 64 (((s.ctx (4 * p + n)).lqhead.toNat + 1) % 2 ^ 32)
  rotation : (u.part p).rotation = (n + 1) % 4

theorem State.taken_takeRecord (s : State) (p n : Nat) : s.Taken p n (s.takeRecord p n) := by
  simp only [State.takeRecord, State.passRecord]
  split <;> constructor <;> simp [State.modCtx, State.modPart]

/-- Taking a record draws no launch id. -/
theorem State.launchNext_takeRecord (s : State) (p n : Nat) :
    ((s.takeRecord p n).part p).launchNext = (s.part p).launchNext := by
  simp only [State.takeRecord, State.passRecord]
  split <;> simp [State.modCtx, State.modPart]

theorem State.Taken.drawLaunchId {s u : State} {p n : Nat} (h : s.Taken p n u) : s.Taken p n (u.drawLaunchId p) := by
  obtain ⟨hmem, htasks, hposts, hlaunches, hhead, hrot⟩ := h
  constructor <;> simp [State.drawLaunchId, State.modPart, *]

theorem State.Taken.lqhead_toNat {s u : State} {p n : Nat} (h : s.Taken p n u) :
    (u.ctx (4 * p + n)).lqhead.toNat = ((s.ctx (4 * p + n)).lqhead.toNat + 1) % 2 ^ 32 := by
  rw [h.lqhead, BitVec.toNat_ofNat]
  omega

/-- A rejected record: FAILED with status 1 and launch id 0, and no launch. -/
theorem State.admitLaunch_of_rejected (s : State) (p n : Nat)
    (h : (s.oldestRecord p n).2 = false ∨ (s.ctx (4 * p + n)).ptroot = 0) :
    ∃ v : State, s.Taken p n v ∧
      s.admitLaunch p n = { v with posts := v.posts ++ [⟨p, n, 0, 0, 1, 4, (s.oldestRecord p n).1.tag, 0⟩] } :=
  ⟨_, s.taken_takeRecord p n, s.admitLaunch_rejected p n h⟩

/-- An admitted record: a launch under the next launch id, with the fields of the record. -/
theorem State.admitLaunch_of_admitted (s : State) (p n : Nat) (hr : (s.oldestRecord p n).2 = true)
    (hp : (s.ctx (4 * p + n)).ptroot ≠ 0) :
    ∃ (v w : State), s.Taken p n v ∧ (w.part p).launchNext = (s.part p).launchNext ∧
      s.admitLaunch p n = { v with launches := v.launches ++ [w.newLaunch p n (s.oldestRecord p n).1] } :=
  ⟨_, _, (s.taken_takeRecord p n).drawLaunchId, s.launchNext_takeRecord p n, s.admitLaunch_admitted p n hr hp⟩

/-- A partition without a record to take, or that takes none now, stays as it is. -/
theorem State.admission?_none (s : State) (p : Nat)
    (h : (s.part p).en = false ∨ (s.part p).resetting = true ∨ 64 ≤ s.launchCount p ∨ s.nextContext p = none) :
    s.admission? p = none := by
  unfold State.admission?
  split
  · next hc =>
    simp only [Bool.and_eq_true, Bool.not_eq_true', decide_eq_true_eq] at hc
    obtain ⟨⟨hen, hres⟩, hcount⟩ := hc
    rcases h with h | h | h | h
    · simp [hen] at h
    · simp [hres] at h
    · omega
    · exact h
  · rfl

theorem State.admission?_some (s : State) (p : Nat) (hen : (s.part p).en = true) (hres : (s.part p).resetting = false)
    (hcount : s.launchCount p < 64) : s.admission? p = s.nextContext p := by
  simp [State.admission?, hen, hres, hcount]

/-- Without a context whose turn it is, nothing is admitted. -/
theorem exec_launchAdmission_none (s : State) (p : Nat)
    (h : (s.part p).en = false ∨ (s.part p).resetting = true ∨ 64 ≤ s.launchCount p ∨ s.nextContext p = none) :
    exec (.launchAdmission p) s = .next s :=
  exec_launchAdmission_of_none s p (s.admission?_none p h)

/-- Admission or rejection of the oldest record of the context whose turn it is. -/
theorem exec_launchAdmission_some (s : State) (p n : Nat) (hen : (s.part p).en = true)
    (hres : (s.part p).resetting = false) (hcount : s.launchCount p < 64) (hnext : s.nextContext p = some n) :
    let c := s.ctx (4 * p + n)
    let r := s.oldestRecord p n
    ∃ u : State, exec (.launchAdmission p) s = .next u ∧ u.mem = s.mem ∧ u.tasks = s.tasks ∧
      (u.ctx (4 * p + n)).lqhead.toNat = (c.lqhead.toNat + 1) % 2 ^ 32 ∧ (u.part p).rotation = (n + 1) % 4 ∧
      ((r.2 = false ∨ c.ptroot = 0) → u.posts = s.posts ++ [⟨p, n, 0, 0, 1, 4, r.1.tag, 0⟩] ∧
        u.launches = s.launches) ∧
      (r.2 = true → c.ptroot ≠ 0 → u.posts = s.posts ∧ ∃ l : Launch, u.launches = s.launches ++ [l] ∧
        l.part = p ∧ l.ctx = n ∧ l.id = (s.part p).launchNext ∧ l.root = r.1.root ∧ l.domrec = r.1.domrec ∧ l.key = r.1.key ∧
        l.tag = r.1.tag ∧ l.stage = .opening ∧ (r.1.rootDie ≠ 15 → l.rootDie = r.1.rootDie)) := by
  intro c r
  rw [exec_launchAdmission_of_some s p n ((s.admission?_some p hen hres hcount).trans hnext)]
  by_cases h : r.2 = false ∨ c.ptroot = 0
  · obtain ⟨v, hv, hadmit⟩ := s.admitLaunch_of_rejected p n h
    refine ⟨_, congrArg Host.Outcome.next hadmit, hv.mem, hv.tasks, hv.lqhead_toNat, hv.rotation,
      fun _ => ⟨congrArg (· ++ _) hv.posts, hv.launches⟩, fun hr hp => ?_⟩
    rcases h with h | h
    · exact absurd (hr.symm.trans h) (by decide)
    · exact absurd h hp
  · obtain ⟨hr, hp⟩ := not_or.1 h
    obtain ⟨v, w, hv, hid, hadmit⟩ := s.admitLaunch_of_admitted p n (eq_true_of_ne_false hr) hp
    exact ⟨_, congrArg Host.Outcome.next hadmit, hv.mem, hv.tasks, hv.lqhead_toNat, hv.rotation, fun h' => absurd h' h,
      fun _ _ => ⟨hv.posts, _, congrArg (· ++ _) hv.launches, rfl, rfl, hid, rfl, rfl, rfl, rfl, rfl,
        fun hd => if_neg hd⟩⟩

/-! ### DONE of a launch (01_machine.md R26 step 5) -/

theorem exec_launchCommit_of_some (s : State) (p : Nat) (id : BitVec 32) (l : Launch) (h : s.launch? p id = some l) :
    exec (.launchCommit p id) s = .next (s.commitLaunch l) := by
  change execLaunchCommit p id s = _
  simp only [execLaunchCommit, h]

/-- A change that keeps partition and id of a launch is found under them. -/
theorem State.launch?_modLaunch (s : State) (p : Nat) (id : BitVec 32) (f : Launch → Launch)
    (hp : ∀ l, (f l).part = l.part) (hid : ∀ l, (f l).id = l.id) :
    (s.modLaunch p id f).launch? p id = (s.launch? p id).map f := by
  unfold State.launch? State.modLaunch
  generalize s.launches = ls
  induction ls with
  | nil => rfl
  | cons x xs ih =>
    by_cases hx : x.part = p ∧ x.id = id
    · simp [hx, hp, hid]
    · have hb : (x.part == p && x.id == id) = false := by simpa using hx
      simpa [hx, hb] using ih

/-- A launch whose work goes on is not done. -/
theorem State.commitLaunch_busy (s : State) (l : Launch) (h : s.launchIdle l = false) : s.commitLaunch l = s := by
  simp [State.commitLaunch, h]

/-- A launch without an outer domain is done as soon as its work has ended. -/
theorem State.commitLaunch_idle (s : State) (l : Launch) (hs : l.stage = .running) (hi : s.launchIdle l = true)
    (ho : l.outer = 0) :
    s.commitLaunch l = (s.postEvent l 1 0 0 0).modLaunch l.part l.id ({ · with stage := .done }) := by
  simp [State.commitLaunch, hs, hi, ho]

/-- DONE when the work of a launch has ended. -/
theorem exec_launchCommit_done (s : State) (l : Launch) (hl : s.launch? l.part l.id = some l) (hs : l.stage = .running) :
    (s.launchIdle l = false → exec (.launchCommit l.part l.id) s = .next s) ∧
    (s.launchIdle l = true → l.outer = 0 → ∃ u : State, exec (.launchCommit l.part l.id) s = .next u ∧
      u.posts = s.posts ++ [⟨l.part, l.ctx, 0, 0, 0, 1, l.tag, l.id⟩] ∧ u.tasks = s.tasks ∧ u.mem = s.mem ∧
      u.launch? l.part l.id = some { l with stage := .done }) := by
  rw [exec_launchCommit_of_some s _ _ l hl]
  refine ⟨fun hbusy => by rw [s.commitLaunch_busy l hbusy], fun hi ho => ?_⟩
  refine ⟨_, congrArg Host.Outcome.next (s.commitLaunch_idle l hs hi ho), rfl, rfl, rfl, ?_⟩
  exact (State.launch?_modLaunch _ _ _ ({ · with stage := .done }) (fun _ => rfl) fun _ => rfl).trans
    (congrArg (Option.map _) hl)

/-! ### Completion records (01_machine.md R28; 16_system.md R420) -/

theorem exec_completionPost_of_some (s : State) (p n : Nat) (x : Post) (h : s.postable p n = some x) :
    exec (.completionPost p n) s = .next (s.postRecord x) := by
  change execCompletionPost p n s = _
  simp only [execCompletionPost, h]

theorem exec_completionPost_of_none (s : State) (p n : Nat) (h : s.postable p n = none) :
    exec (.completionPost p n) s = .next s := by
  change execCompletionPost p n s = _
  simp only [execCompletionPost, h]

/-- The records in a completion queue. -/
def Ctx.posted (c : Ctx) : Nat := (c.cqtail.toNat + 2 ^ 32 - c.cqhead.toNat) % 2 ^ 32

/-- CQTAIL moves on past a record. -/
def Ctx.passTail (c : Ctx) : Ctx := { c with cqtail := BitVec.ofNat 64 ((c.cqtail.toNat + 1) % 2 ^ 32) }

theorem Ctx.passTail_cqtail (c : Ctx) : c.passTail.cqtail.toNat = (c.cqtail.toNat + 1) % 2 ^ 32 := by
  simp only [Ctx.passTail, BitVec.toNat_ofNat]
  omega

/-- Where the next record of a completion queue in package memory goes. -/
def Ctx.postPlace (c : Ctx) : Nat := c.cqbase.toNat + 16 * (c.cqtail.toNat % 2 ^ c.cqsize.toNat)

/-- A full completion queue takes no record. -/
theorem State.postable_full (s : State) (p n : Nat)
    (h : 2 ^ (s.ctx (4 * p + n)).cqsize.toNat ≤ (s.ctx (4 * p + n)).posted) : s.postable p n = none := by
  refine if_neg fun hc => ?_
  simp only [Bool.and_eq_true, decide_eq_true_eq] at hc
  exact absurd hc.2 (Nat.not_lt.2 h)

/-- A queue whose base has bit 63 clear is in package memory. -/
theorem inPackage_of_lt (base : Word) (h : base.toNat < 2 ^ 63) : base.getLsbD 63 = false :=
  Nat.testBit_lt_two_pow h

/-- A record that waits for writes of its launch is not posted (11_order.md R298; log entry 75). -/
theorem State.postable_waits (s : State) (x : Post) (rest : List Post) (h : s.posts = x :: rest)
    (hw : s.writesMade x = false) : s.postable x.part x.ctx = none := by
  have hf : (s.posts.find? fun y => y.part == x.part && y.ctx == x.ctx) = some x := by simp [h]
  unfold State.postable
  simp [hf, hw]

/-- With room in a queue in package memory, and its launch's writes made, the oldest record is posted. -/
theorem State.postable_oldest (s : State) (x : Post) (rest : List Post) (h : s.posts = x :: rest)
    (hsize : (s.ctx (4 * x.part + x.ctx)).cqsize ≠ 0) (hbase : (s.ctx (4 * x.part + x.ctx)).cqbase.toNat < 2 ^ 63)
    (hroom : (s.ctx (4 * x.part + x.ctx)).posted < 2 ^ (s.ctx (4 * x.part + x.ctx)).cqsize.toNat)
    (hw : s.writesMade x = true) : s.postable x.part x.ctx = some x := by
  have hin := inPackage_of_lt _ hbase
  have hf : (s.posts.find? fun y => y.part == x.part && y.ctx == x.ctx) = some x := by simp [h]
  simp only [State.postable, State.queueReachable, hin, hf, Option.filter, hw, if_true, Bool.not_false, Bool.true_or,
    Bool.false_and, Bool.and_true]
  exact if_pos (by simpa using ⟨hsize, hroom⟩)

/-- The 16 bytes of a completion record as one number. -/
def Post.number (x : Post) : Nat :=
  x.launch.toNat + x.tag.toNat * 2 ^ 32 + x.event.toNat * 2 ^ 64 + x.status.toNat * 2 ^ 72
    + x.cause.toNat * 2 ^ 80 + x.eslot * 2 ^ 98

theorem Post.bytes_length (x : Post) : x.bytes.length = 16 := leBytes_length 16 x.number

/-- What posting a record to a queue in package memory does before its interrupt: the 16 bytes, then CQTAIL. -/
def State.writePost (s : State) (x : Post) : State :=
  (State.poke { s with posts := s.posts.erase x } (s.ctx (4 * x.part + x.ctx)).postPlace x.bytes).modCtx
    (4 * x.part + x.ctx) fun c => c.passTail

theorem State.postRecord_inPackage (s : State) (x : Post)
    (hbase : (s.ctx (4 * x.part + x.ctx)).cqbase.toNat < 2 ^ 63) (hq : s.queued = []) :
    s.postRecord x = (s.writePost x).raiseVector x.part 0 := by
  have hserve : ∀ a, State.serve { s with posts := s.posts.erase x } a = { s with posts := s.posts.erase x } :=
    fun a => State.serve_empty _ a hq
  simp only [State.postRecord, State.writePost, Ctx.postPlace, inPackage_of_lt _ hbase, Nat.mod_eq_of_lt hbase,
    Ctx.passTail, Bool.false_eq_true, if_false, hserve]

/-- What holds of a state in which a record has been written, before its interrupt. -/
structure State.Posted (s : State) (x : Post) (u : State) : Prop where
  posts : u.posts = s.posts.erase x
  mem : u.mem = (s.poke (s.ctx (4 * x.part + x.ctx)).postPlace x.bytes).mem
  ctx : u.ctx (4 * x.part + x.ctx) = (s.ctx (4 * x.part + x.ctx)).passTail
  tasks : u.tasks = s.tasks
  parts : u.parts = s.parts
  svc : u.svc = s.svc

theorem State.posted_writePost (s : State) (x : Post) : s.Posted x (s.writePost x) := by
  simp only [State.writePost]
  constructor
  · exact (State.modCtx_posts _ _ _).trans (State.poke_posts _ _ _)
  · rw [State.modCtx_mem, State.poke_mem, State.poke_mem]
  · rw [State.ctx_modCtx, State.ctx_poke, s.ctx_withPosts]
  · exact (State.modCtx_tasks _ _ _).trans (State.poke_tasks _ _ _)
  · exact (State.modCtx_parts _ _ _).trans (State.poke_parts _ _ _)
  · exact (State.modCtx_svc _ _ _).trans (State.poke_svc _ _ _)

/-- The fields of a completion record, each at its byte. -/
theorem Post.number_fields (x : Post) :
    x.number / 256 ^ 0 % 256 ^ 4 = x.launch.toNat ∧ x.number / 256 ^ 4 % 256 ^ 4 = x.tag.toNat ∧
    x.number / 256 ^ 8 % 256 = x.event.toNat ∧ x.number / 256 ^ 9 % 256 = x.status.toNat ∧
    x.number / 256 ^ 10 % 256 = x.cause.toNat ∧ x.number / 256 ^ 11 % 256 = (0 : Byte).toNat ∧
    x.number / 256 ^ 12 % 256 ^ 4 = 4 * x.eslot % 2 ^ 32 := by
  have hlaunch := x.launch.isLt
  have htag := x.tag.isLt
  have hevent := x.event.isLt
  have hstatus := x.status.isLt
  have hcause := x.cause.isLt
  have hzero : (0 : Byte).toNat = 0 := rfl
  unfold Post.number
  refine ⟨?_, ?_, ?_, ?_, ?_, ?_, ?_⟩ <;> omega

/-- What stands in memory once a completion record has been written: its fields, and nothing else has changed. -/
theorem State.poke_post (s : State) (a : Nat) (x : Post) :
    (s.poke a x.bytes).word a 4 = x.launch.toNat ∧ (s.poke a x.bytes).word (a + 4) 4 = x.tag.toNat ∧
    (s.poke a x.bytes).byte (a + 8) = x.event ∧ (s.poke a x.bytes).byte (a + 9) = x.status ∧
    (s.poke a x.bytes).byte (a + 10) = x.cause ∧ (s.poke a x.bytes).byte (a + 11) = 0 ∧
    (s.poke a x.bytes).word (a + 12) 4 = 4 * x.eslot % 2 ^ 32 ∧
    ∀ y, y < a ∨ a + 16 ≤ y → (s.poke a x.bytes).byte y = s.byte y := by
  obtain ⟨hlaunch, htag, hevent, hstatus, hcause, hzero, hslot⟩ := x.number_fields
  have hword : ∀ i, i + 4 ≤ 16 → (s.poke a x.bytes).word (a + i) 4 = x.number / 256 ^ i % 256 ^ 4 :=
    fun i => s.word_poke_leBytes a 16 x.number i 4
  have hbyte : ∀ i (v : Byte), i < 16 → x.number / 256 ^ i % 256 = v.toNat → (s.poke a x.bytes).byte (a + i) = v :=
    fun i v hi hv => (s.byte_poke_leBytes a 16 x.number i hi).trans
      (BitVec.eq_of_toNat_eq ((BitVec.toNat_ofNat _ _).trans hv))
  exact ⟨(hword 0 (by decide)).trans hlaunch, (hword 4 (by decide)).trans htag, hbyte 8 _ (by decide) hevent,
    hbyte 9 _ (by decide) hstatus, hbyte 10 _ (by decide) hcause, hbyte 11 _ (by decide) hzero,
    (hword 12 (by decide)).trans hslot, fun y hy => s.byte_poke_outside a x.bytes y (by rwa [x.bytes_length])⟩

/-- The 16 bytes of a completion record, CQTAIL and vector 0; posting waits while the queue is full, and for the writes
of the record's launch. -/
theorem exec_completionPost_oldest (s : State) (x : Post) (rest : List Post) (hposts : s.posts = x :: rest) :
    let c := s.ctx (4 * x.part + x.ctx)
    let a := c.cqbase.toNat + 16 * (c.cqtail.toNat % 2 ^ c.cqsize.toNat)
    let used := (c.cqtail.toNat + 2 ^ 32 - c.cqhead.toNat) % 2 ^ 32
    c.cqsize ≠ 0 → c.cqbase.toNat < 2 ^ 63 →
    (2 ^ c.cqsize.toNat ≤ used → exec (.completionPost x.part x.ctx) s = .next s) ∧
    (s.writesMade x = false → exec (.completionPost x.part x.ctx) s = .next s) ∧
    (used < 2 ^ c.cqsize.toNat → s.writesMade x = true → s.queued = [] → ∃ u : State,
      exec (.completionPost x.part x.ctx) s = .next u ∧ u.posts = rest ∧
      u.word a 4 = x.launch.toNat ∧ u.word (a + 4) 4 = x.tag.toNat ∧ u.byte (a + 8) = x.event ∧
      u.byte (a + 9) = x.status ∧ u.byte (a + 10) = x.cause ∧ u.byte (a + 11) = 0 ∧
      u.word (a + 12) 4 = 4 * x.eslot % 2 ^ 32 ∧ (∀ y, y < a ∨ a + 16 ≤ y → u.byte y = s.byte y) ∧
      (u.ctx (4 * x.part + x.ctx)).cqtail.toNat = (c.cqtail.toNat + 1) % 2 ^ 32 ∧ u.tasks = s.tasks ∧
      ((s.part x.part).masked.getLsbD 0 = false → (s.svc.hostLost = false ∨ s.svc.self = true) →
        Sparse.read 0 (u.part x.part).sent 0 = Sparse.read 0 (s.part x.part).sent 0 + 1) ∧
      ((s.part x.part).masked.getLsbD 0 = true → (u.part x.part).pending.getLsbD 0 = true)) := by
  intro c a used hsize hbase
  refine ⟨fun hfull => exec_completionPost_of_none s _ _ (s.postable_full _ _ hfull),
    fun hwait => exec_completionPost_of_none s _ _ (s.postable_waits x rest hposts hwait), fun hroom hmade hq => ?_⟩
  · have hexec := exec_completionPost_of_some s _ _ x (s.postable_oldest x rest hposts hsize hbase hroom hmade)
    have hp := s.posted_writePost x
    rw [s.postRecord_inPackage x hbase hq] at hexec
    generalize s.writePost x = v at hp hexec
    have hmem : (v.raiseVector x.part 0).mem = (s.poke c.postPlace x.bytes).mem :=
      (v.raiseVector_mem x.part 0).trans hp.mem
    have hpart : v.part x.part = s.part x.part := State.part_of_parts hp.parts x.part
    obtain ⟨hlaunch, htag, hevent, hstatus, hcause, hzero, hslot, hout⟩ := s.poke_post c.postPlace x
    refine ⟨_, hexec, ?_, ?_, ?_, ?_, ?_, ?_, ?_, ?_, fun y hy => ?_, ?_, ?_, fun hmask hhost => ?_, fun hmask => ?_⟩
    · rw [State.raiseVector_posts, hp.posts, hposts, List.erase_cons_head]
    · exact (State.word_of_mem hmem _ _).trans hlaunch
    · exact (State.word_of_mem hmem _ _).trans htag
    · exact (State.byte_of_mem hmem _).trans hevent
    · exact (State.byte_of_mem hmem _).trans hstatus
    · exact (State.byte_of_mem hmem _).trans hcause
    · exact (State.byte_of_mem hmem _).trans hzero
    · exact (State.word_of_mem hmem _ _).trans hslot
    · exact (State.byte_of_mem hmem y).trans (hout y hy)
    · rw [State.ctx_raiseVector, hp.ctx, Ctx.passTail_cqtail]
    · rw [State.raiseVector_tasks, hp.tasks]
    · rw [v.raiseVector_sent x.part 0 (hpart ▸ hmask) (hp.svc ▸ hhost), hpart]
    · exact v.raiseVector_pending x.part 0 (by decide) (hpart ▸ hmask)

/-- Settles O47, by the rules of the operations a launch goes through: the host's two writes, admission, DONE, and the
posting of a completion record. -/
theorem launchFlow : Obligations.LaunchFlow :=
  ⟨exec_queuePointerWrites,
    fun s p n => ⟨exec_launchAdmission_none s p, exec_launchAdmission_some s p n⟩,
    exec_launchCommit_done,
    exec_completionPost_oldest⟩

end Sys2Proof.Machine

/-! Obligation O12: the rounding step (02_numbers.md R44). First what it delivers for a remainder below, at and above
half the unit, then how far each multiple lies from the magnitude. -/

namespace Sys2Proof.Machine

/-- At its own unit a magnitude is delivered unchanged. -/
theorem roundAt_self (m : Nat) (e : Int) : roundAt m e e false = (m, false) := by
  simp [roundAt]

/-- Above its own unit: the quotient, or the next multiple when the remainder asks for it. -/
theorem roundAt_add_succ (m n : Nat) (e : Int) :
    roundAt m e (e + (n + 1 : Nat)) false =
      (if 2 ^ n < m % 2 ^ (n + 1) ∨ m % 2 ^ (n + 1) = 2 ^ n ∧ m / 2 ^ (n + 1) % 2 = 1 then m / 2 ^ (n + 1) + 1
        else m / 2 ^ (n + 1), m % 2 ^ (n + 1) != 0) := by
  have hk : ¬ e + (n + 1 : Nat) ≤ e := by omega
  have hsh : (e + (n + 1 : Nat) - e).toNat = n + 1 := by omega
  unfold roundAt
  rw [if_neg hk, hsh]
  simp only [Nat.shiftRight_eq_div_pow, Nat.add_sub_cancel, Bool.or_false, Bool.false_or, Bool.or_eq_true,
    Bool.and_eq_true, decide_eq_true_eq, beq_iff_eq, gt_iff_lt]

theorem roundAt_below_half (m n : Nat) (e : Int) (h : m % 2 ^ (n + 1) < 2 ^ n) :
    roundAt m e (e + (n + 1 : Nat)) false = (m / 2 ^ (n + 1), m % 2 ^ (n + 1) != 0) := by
  rw [roundAt_add_succ, if_neg (by omega)]

theorem roundAt_above_half (m n : Nat) (e : Int) (h : 2 ^ n < m % 2 ^ (n + 1)) :
    roundAt m e (e + (n + 1 : Nat)) false = (m / 2 ^ (n + 1) + 1, true) := by
  rw [roundAt_add_succ, if_pos (Or.inl h), bne_iff_ne.2 (by omega)]

/-- A tie goes to the even one of the two neighbours. -/
theorem roundAt_half (m n : Nat) (e : Int) (h : m % 2 ^ (n + 1) = 2 ^ n) :
    roundAt m e (e + (n + 1 : Nat)) false = (m / 2 ^ (n + 1) + m / 2 ^ (n + 1) % 2, true) := by
  have hpos : 0 < 2 ^ n := Nat.two_pow_pos n
  rw [roundAt_add_succ, bne_iff_ne.2 (by omega)]
  split <;> congr 1 <;> omega

/-- The multiple below lies the remainder away. -/
theorem natAbs_div_mul_sub (m n : Nat) : ((m / 2 ^ n : Nat) * 2 ^ n - m : Int).natAbs = m % 2 ^ n := by
  have hdiv : ((m / 2 ^ n : Nat) * 2 ^ n + (m % 2 ^ n : Nat) : Int) = m := mod_cast Nat.div_add_mod' m (2 ^ n)
  omega

/-- The multiple above lies the rest of the unit away. -/
theorem natAbs_div_succ_mul_sub (m n : Nat) :
    ((m / 2 ^ n + 1 : Nat) * 2 ^ n - m : Int).natAbs = 2 ^ n - m % 2 ^ n := by
  have hdiv : ((m / 2 ^ n : Nat) * 2 ^ n + (m % 2 ^ n : Nat) : Int) = m := mod_cast Nat.div_add_mod' m (2 ^ n)
  have hlt : m % 2 ^ n < 2 ^ n := Nat.mod_lt m (Nat.two_pow_pos n)
  have hmul : ((m / 2 ^ n + 1 : Nat) * 2 ^ n : Int) = (m / 2 ^ n : Nat) * 2 ^ n + (2 ^ n : Nat) := by
    rw [Int.natCast_add, Int.add_mul, Int.natCast_one, Int.one_mul, Int.natCast_pow]
    rfl
  omega

/-- At a tie both neighbours lie half the unit away, so the even one does. -/
theorem natAbs_even_neighbour_mul_sub (m n : Nat) (h : m % 2 ^ (n + 1) = 2 ^ n) :
    ((m / 2 ^ (n + 1) + m / 2 ^ (n + 1) % 2 : Nat) * 2 ^ (n + 1) - m : Int).natAbs = 2 ^ n := by
  obtain heven | hodd := Nat.mod_two_eq_zero_or_one (m / 2 ^ (n + 1))
  · rw [heven, Nat.add_zero, natAbs_div_mul_sub, h]
  · rw [hodd, natAbs_div_succ_mul_sub, h]
    omega

/-- A multiple differs from the magnitude just where its distance is not 0. -/
theorem mul_ne_iff_natAbs_sub (q m n : Nat) : q * 2 ^ n ≠ m ↔ (q * 2 ^ n - m : Int).natAbs ≠ 0 := by
  rw [Int.natAbs_ne_zero, ne_eq, ne_eq, Int.sub_eq_zero]
  norm_cast

/-- Settles O12, by the place of the remainder: below half the unit, at it (a tie) or above it. -/
theorem roundsToNearestEven : Obligations.RoundsToNearestEven := by
  intro m n e
  dsimp only
  rw [mul_ne_iff_natAbs_sub]
  cases n with
  | zero => simp [roundAt_self]
  | succ n =>
    have hunit : 2 ^ (n + 1) = 2 * 2 ^ n := Nat.pow_succ'
    have hrem : m % 2 ^ (n + 1) < 2 ^ (n + 1) := Nat.mod_lt m (Nat.two_pow_pos _)
    obtain hlt | htie | hgt := Nat.lt_trichotomy (m % 2 ^ (n + 1)) (2 ^ n)
    · rw [roundAt_below_half m n e hlt, natAbs_div_mul_sub]
      exact ⟨by omega, by omega, bne_iff_ne⟩
    · rw [roundAt_half m n e htie, natAbs_even_neighbour_mul_sub m n htie]
      have hhalf : 0 < 2 ^ n := Nat.two_pow_pos n
      exact ⟨by omega, by omega, iff_of_true rfl (by omega)⟩
    · rw [roundAt_above_half m n e hgt, natAbs_div_succ_mul_sub]
      exact ⟨by omega, by omega, iff_of_true rfl (by omega)⟩

end Sys2Proof.Machine
